-- ==== Sys2Proof/Word.lean ====
section
/-!
DEFINITION. The word types of the Chameone (R4): bytes of 8 bits, words of 32 bits, and the wider values that pairs of registers,
addresses and instruction words hold.
-/
namespace Sys2Proof

abbrev Byte := BitVec 8
abbrev Word := BitVec 32
abbrev DWord := BitVec 64
/-- A virtual address, 56 bits (R14). -/
abbrev VAddr := BitVec 56
/-- One instruction word of a fibre, 96 bits (R40). -/
abbrev IWord := BitVec 96

end Sys2Proof
end

