-- ==== Sys2Proof/Syntax.lean ====
section
/-!
DEFINITION. The syntax of the steps of the package: the operands and formats of an instruction word (R40-R51), the Boster words
(R420, R421), and the machine events with their parameters. One constructor of Instr per row of the opcode table.
-/
namespace Sys2Proof

/-- The roles of a team (R94). -/
inductive Role where
  | copy | matrix | vector | general
  deriving DecidableEq, Repr

/-- The special values of R104. -/
inductive SpecialValue where
  | fid | lane | team | role | core | clus | die | pkg
  | lvidx (n : BitVec 3)
  | cycles | gmask | win | rc | nfib | ctx | world | srstep | spad | spsz
  deriving DecidableEq, Repr

/-- An operand field (R41): a register, a special value, a signed immediate, a predicate or a team barrier. -/
inductive Operand where
  | v (i : BitVec 8)
  | k (i : BitVec 6)
  | sv (s : SpecialValue)
  | imm (i : BitVec 8)
  | p (i : BitVec 4)
  | b (i : BitVec 4)
  deriving DecidableEq, Repr

/-- What every word but a prefix carries (R40, R52, R54): the guard and the hints. -/
structure Hints where
  g : BitVec 4
  gn : Bool
  s : BitVec 4
  y : Bool
  w : Bool
  deriving DecidableEq, Repr

/-- Format R (R46). -/
structure FR where
  h : Hints
  d : Operand
  a : Operand
  b : Operand
  c : Operand
  xf : BitVec 16
  t2 : BitVec 6
  rm : BitVec 3
  t1 : BitVec 6
  deriving DecidableEq, Repr

/-- Format I (R46). -/
structure FI where
  h : Hints
  d : Operand
  a : Operand
  b : Operand
  imm : BitVec 32
  rm : BitVec 3
  t1 : BitVec 6
  deriving DecidableEq, Repr

/-- Format M (R46, R49). -/
structure FM where
  h : Hints
  d : Operand
  a : Operand
  b : Operand
  off : BitVec 32
  sc : BitVec 3
  t1 : BitVec 6
  deriving DecidableEq, Repr

/-- Format E (R46, R51). -/
structure FE where
  h : Hints
  d : Operand
  a : Operand
  b : Operand
  ks : BitVec 7
  acc : BitVec 3
  t2 : BitVec 6
  tdb : BitVec 8
  tda : BitVec 8
  ev : BitVec 3
  t1 : BitVec 6
  deriving DecidableEq, Repr

/-- Format C (R46, R50). -/
structure FC where
  h : Hints
  d : Operand
  a : Operand
  b : Operand
  off : BitVec 32
  cm : BitVec 9
  deriving DecidableEq, Repr

/-- Format P, the prefix word (R61). -/
structure FP where
  h : Hints
  d : Operand
  a : Operand
  b : Operand
  cstr : BitVec 8
  bstr : BitVec 8
  astr : BitVec 8
  dstr : BitVec 8
  m : BitVec 9
  deriving DecidableEq, Repr

/-- The folds of `redux` and `scan` (R161). -/
inductive RedOp where
  | add | min | max | and | or | xor
  deriving DecidableEq, Repr

/-- The atomic operation codes (R64, R220). -/
inductive AtomOp where
  | add | min | max | and | or | xor | exch | cas | fadd
  deriving DecidableEq, Repr

/-- The operations of `cpy.red` (R243). -/
inductive CpyOp where
  | add | min | max
  deriving DecidableEq, Repr

/-- Who reaches the registers of the system window (R388, R394, R400): an external master, or a core of the host complex, in machine
mode, where it runs the secure firmware, or in another mode, where it runs the kernel. -/
inductive Master where
  | ext (m : BitVec 2)
  | host (core : BitVec 4) (machine : Bool)
  deriving DecidableEq, Repr

/-- The secure firmware, the only secure master of the package (R388). -/
def Master.isSecure : Master → Bool
  | .host _ machine => machine
  | .ext _ => false

/-- What the other end of a host-attach link asks for (R394): a rate in GT/s and a width, bifurcation, a CXL version and device type, a
protocol of CXL, a number of logical devices, of HDM ranges with or without back-invalidation, CXL IDE in skid or containment mode, or
anything else. -/
inductive HostOption where
  | pcie (rate width : Nat)
  | bifurcation
  | cxl (major minor device : Nat)
  | cxlIo | cxlCache | cxlMem
  | logicalDevices (n : Nat)
  | hdm (ranges : Nat) (backInvalidate : Bool)
  | ide (skid : Bool)
  | other
  deriving DecidableEq, Repr

/-- What the peer of an external port offers (R450): a speed in Gb/s over a number of lanes, the link layer's options, a delivery mode,
congestion control at the sender or another, the semantic sublayer, AES-GCM or another cipher, a payload in bytes, or anything else. -/
inductive PortOption where
  | speed (gbps lanes : Nat)
  | linkRetry | creditFlow | priorityFlow
  | reliableUnordered | otherDelivery | spraying
  | senderCongestion | otherCongestion
  | semantic
  | aesGcm | otherCipher
  | payload (n : Nat)
  | other
  deriving DecidableEq, Repr

/-- What an external master's line of the host cache is tagged as (R407). -/
inductive HostLineTag where
  | tenant (ctx : Nat)
  | operatingSystem
  | secure
  deriving DecidableEq, Repr

/-- The kinds of request a peer package sends (R460). -/
inductive RemoteKind where
  | load | store
  | atom (op : AtomOp) (t1 : BitVec 6)
  deriving DecidableEq, Repr

/-- A request of another package that reaches this one (R457, R460): its source and group, whether it is SO with its sequence
number, its address, its width, the stored bytes or operands, and its tag. -/
structure RemoteReq where
  src : Nat
  fgrp : Nat
  kind : RemoteKind
  so : Option Nat
  pa : Nat
  len : Nat
  mask : Nat
  data : Nat
  cmp : Nat
  tag : Nat
  deriving DecidableEq, Repr

/-- A staged write of a remote region that reaches its target (R462). -/
structure StagedReq where
  src : Nat
  fgrp : Nat
  rgn : Nat
  red : Option (AtomOp × BitVec 6)
  pa : Nat
  len : Nat
  mask : Nat
  data : Nat
  deriving DecidableEq, Repr

/-- A collective packet (R417): contribution, partial, delivery or spill, with the port and package it came from; `mask` and `poison` are
of bytes, and for a partial of elements. -/
structure Packet where
  kind : Nat
  grp : Nat
  off : Nat
  member : Nat
  ver : Nat
  srcPkg : Nat
  srcPort : Nat
  mask : Nat
  data : List (BitVec 32)
  poison : Nat
  deriving DecidableEq, Repr

/-- The answer of a peer package (R458, R460): the loaded bytes, which may be poisoned, an acknowledgement with the fetched value, or a
refusal by cause; for a region, a refusal by the code of R464, ready, or applied. -/
inductive RemoteAns where
  | data (v : Nat)
  | ack (v : Nat)
  | refuse (cause : Nat)
  | poisoned (v : Nat)
  | ready
  | applied
  deriving DecidableEq, Repr

/-- The registers of a master's block (R395); a core of the host complex has the last three (R400). -/
inductive MasterReg where
  | portid | ownsts | owncmd | pkgstate | crva | crval | crnote | crcmd | crsts | swsel | swdata | swsts
  deriving DecidableEq, Repr

/-- What a participant of an agreement round answers (R447). -/
inductive RoundAns where
  | ready (aborted : Nat)
  | refuse
  deriving DecidableEq, Repr

/-- The parameters of a machine event, which no word encodes: what the step brings about names its agents and items here. Each event
reads the ones its constructor's docstring names. -/
structure Params where
  core : Nat := 0
  slot : Nat := 0
  fid : Nat := 0
  id : Nat := 0
  die : Nat := 0
  clus : Nat := 0
  ctx : Nat := 0
  n : Nat := 0
  k : Nat := 0
  addr : Nat := 0
  len : Nat := 0
  role : Role := .copy
  m : Master := .host 0 false
  tgt : BitVec 2 := 0
  reg : MasterReg := .swdata
  v : BitVec 64 := 0
  porter : Nat := 0
  grp : Nat := 0
  ver : Nat := 0
  off : Nat := 0
  pkg : Nat := 0
  src : Nat := 0
  rgn : Nat := 0
  prio : Nat := 0
  flag : Bool := false
  bytes : Option (List Byte) := none
  region : Option Nat := none
  tag : HostLineTag := .operatingSystem
  watts : BitVec 16 := 0
  temps : BitVec 48 := 0
  round : Option RoundAns := none
  ans : RemoteAns := .applied
  performed : List (Nat × RemoteAns) := []
  req : Option RemoteReq := none
  staged : Option StagedReq := none
  packet : Option Packet := none
  lost : List Nat := []
  asked : List HostOption := []
  offered : List PortOption := []
  deriving DecidableEq, Repr

/-- The steps of the package, one constructor per row of spec/opcode_table.json. -/
inductive Instr where
  /-- R53: no effect but its hints. -/
  | nop (f : FR)
  /-- R125, format R. -/
  | add (f : FR)
  /-- R125, format I. -/
  | addI (f : FI)
  /-- R125, format R. -/
  | sub (f : FR)
  /-- R125, format I. -/
  | subI (f : FI)
  /-- R125, format R. -/
  | mul (f : FR)
  /-- R125, format I. -/
  | mulI (f : FI)
  /-- R125, format R. -/
  | mulhi (f : FR)
  /-- R125, format I. -/
  | mulhiI (f : FI)
  /-- R125: a * b + c. -/
  | mad (f : FR)
  /-- R126: 32 x 32 + 64. -/
  | madw (f : FR)
  /-- R125, format R. -/
  | min (f : FR)
  /-- R125, format I. -/
  | minI (f : FI)
  /-- R125, format R. -/
  | max (f : FR)
  /-- R125, format I. -/
  | maxI (f : FI)
  /-- R125. -/
  | abs (f : FR)
  /-- R125. -/
  | neg (f : FR)
  /-- R128, format R. -/
  | and (f : FR)
  /-- R128, format I. -/
  | andI (f : FI)
  /-- R128, format R. -/
  | or (f : FR)
  /-- R128, format I. -/
  | orI (f : FI)
  /-- R128, format R. -/
  | xor (f : FR)
  /-- R128, format I. -/
  | xorI (f : FI)
  /-- R128. -/
  | not (f : FR)
  /-- R128, format R. -/
  | shl (f : FR)
  /-- R128, format I. -/
  | shlI (f : FI)
  /-- R128, format R. -/
  | shr (f : FR)
  /-- R128, format I. -/
  | shrI (f : FI)
  /-- R128, format R. -/
  | sar (f : FR)
  /-- R128, format I. -/
  | sarI (f : FI)
  /-- R128, format R. -/
  | rot (f : FR)
  /-- R128, format I. -/
  | rotI (f : FI)
  /-- R128. -/
  | clz (f : FR)
  /-- R128. -/
  | popc (f : FR)
  /-- R128. -/
  | brev (f : FR)
  /-- R129. -/
  | bfx (f : FR)
  /-- R129: D is read as well. -/
  | bfi (f : FR)
  /-- R130. -/
  | sel (f : FR)
  /-- R127, format R. -/
  | cmp (f : FR)
  /-- R127, format I. -/
  | cmpI (f : FI)
  /-- R131, format R. -/
  | lea (f : FR)
  /-- R131, format I. -/
  | leaI (f : FI)
  /-- R132. -/
  | mov (f : FR)
  /-- R132: one halfword of D. -/
  | movk (f : FR)
  /-- R132. -/
  | ldi (f : FI)
  /-- R132: the high word of a pair. -/
  | ldiHi (f : FI)
  /-- R132: read a special value. -/
  | gets (f : FR)
  /-- R133. -/
  | pand (f : FR)
  /-- R133. -/
  | por (f : FR)
  /-- R133. -/
  | pxor (f : FR)
  /-- R133. -/
  | pnot (f : FR)
  /-- R133. -/
  | pmov (f : FR)
  /-- R133: D := PRED. -/
  | pmovWRead (f : FR)
  /-- R133: PRED[15:1] := A[15:1]. -/
  | pmovWWrite (f : FR)
  /-- R137, scalar. -/
  | fadd (f : FR)
  /-- R136, R137, packed. -/
  | faddPk (f : FR)
  /-- R137, scalar. -/
  | fsub (f : FR)
  /-- R136, R137, packed. -/
  | fsubPk (f : FR)
  /-- R137, scalar. -/
  | fmul (f : FR)
  /-- R136, R137, packed. -/
  | fmulPk (f : FR)
  /-- R137, scalar. -/
  | ffma (f : FR)
  /-- R136, R137, packed. -/
  | ffmaPk (f : FR)
  /-- R137, scalar. -/
  | fmin (f : FR)
  /-- R136, R137, packed. -/
  | fminPk (f : FR)
  /-- R137, scalar. -/
  | fmax (f : FR)
  /-- R136, R137, packed. -/
  | fmaxPk (f : FR)
  /-- R138. -/
  | fcmp (f : FR)
  /-- R139, scalar. -/
  | frcp (f : FR)
  /-- R136, R139, packed. -/
  | frcpPk (f : FR)
  /-- R139, scalar. -/
  | frsq (f : FR)
  /-- R136, R139, packed. -/
  | frsqPk (f : FR)
  /-- R139, scalar. -/
  | fsqrt (f : FR)
  /-- R136, R139, packed. -/
  | fsqrtPk (f : FR)
  /-- R139, scalar. -/
  | fexp2 (f : FR)
  /-- R136, R139, packed. -/
  | fexp2Pk (f : FR)
  /-- R139, scalar. -/
  | flog2 (f : FR)
  /-- R136, R139, packed. -/
  | flog2Pk (f : FR)
  /-- R139, scalar. -/
  | fsin (f : FR)
  /-- R136, R139, packed. -/
  | fsinPk (f : FR)
  /-- R139, scalar. -/
  | fcos (f : FR)
  /-- R136, R139, packed. -/
  | fcosPk (f : FR)
  /-- R139, scalar. -/
  | ftanh (f : FR)
  /-- R136, R139, packed. -/
  | ftanhPk (f : FR)
  /-- R140, scalar. -/
  | frnd (f : FR)
  /-- R140, packed. -/
  | frndPk (f : FR)
  /-- R141, scalar. -/
  | cvt (f : FR)
  /-- R141, packed. -/
  | cvtPk (f : FR)
  /-- R142. -/
  | cvti (f : FR)
  /-- R143. -/
  | pk (f : FR)
  /-- R144. -/
  | upk (f : FR)
  /-- R145. -/
  | sclq (f : FR)
  /-- R146. -/
  | sclget (f : FR)
  /-- R146, read and clear. -/
  | sclgetClr (f : FR)
  /-- R147. -/
  | crng (f : FR)
  /-- R160. -/
  | shflPick (f : FR)
  /-- R160. -/
  | shflShift (f : FR)
  /-- R160. -/
  | shflRot (f : FR)
  /-- R160. -/
  | shflMir (f : FR)
  /-- R160. -/
  | voteEvery (f : FR)
  /-- R160. -/
  | voteSome (f : FR)
  /-- R160. -/
  | voteMask (f : FR)
  /-- R160. -/
  | voteCount (f : FR)
  /-- R161. -/
  | redux (op : RedOp) (f : FR)
  /-- R161, inclusive. -/
  | scan (op : RedOp) (f : FR)
  /-- R161, exclusive. -/
  | scanEx (op : RedOp) (f : FR)
  /-- R160. -/
  | matchPeers (f : FR)
  /-- R160. -/
  | matchFirst (f : FR)
  /-- R160. -/
  | matchSame (f : FR)
  /-- R163. -/
  | lsync (f : FR)
  /-- R149. -/
  | bra (f : FC)
  /-- R149. -/
  | brx (f : FR)
  /-- R149. -/
  | call (f : FC)
  /-- R149. -/
  | calli (f : FR)
  /-- R149. -/
  | ret (f : FR)
  /-- R170. -/
  | retTrap (f : FR)
  /-- R156. -/
  | fork (f : FC)
  /-- R157. -/
  | exit (f : FR)
  /-- R158. -/
  | yield (f : FR)
  /-- R159. -/
  | trap (f : FI)
  /-- R159. -/
  | brk (f : FI)
  /-- R61, R153. -/
  | rep (f : FP)
  /-- R208. -/
  | ld (f : FM)
  /-- R208, acquire. -/
  | ldAcq (f : FM)
  /-- R208. -/
  | st (f : FM)
  /-- R208, release. -/
  | stRel (f : FM)
  /-- R214. -/
  | lds (f : FM)
  /-- R214. -/
  | sts (f : FM)
  /-- R214, R310. -/
  | ldx (f : FM)
  /-- R214, R310. -/
  | stx (f : FM)
  /-- R215. -/
  | prfL1 (f : FM)
  /-- R215. -/
  | prfL2 (f : FM)
  /-- R216. -/
  | flushWb (f : FM)
  /-- R216. -/
  | flushInv (f : FM)
  /-- R217. -/
  | fenceAcq (f : FR)
  /-- R217. -/
  | fenceRel (f : FR)
  /-- R217. -/
  | fenceAr (f : FR)
  /-- R225. -/
  | carve (f : FR)
  /-- R226. -/
  | tlbq (f : FM)
  /-- R219-R224. -/
  | atom (op : AtomOp) (f : FM)
  /-- R219-R224. -/
  | atomAcq (op : AtomOp) (f : FM)
  /-- R219-R224. -/
  | atomRel (op : AtomOp) (f : FM)
  /-- R219-R224. -/
  | atomAr (op : AtomOp) (f : FM)
  /-- R219-R224. -/
  | red (op : AtomOp) (f : FM)
  /-- R219-R224. -/
  | redRel (op : AtomOp) (f : FM)
  /-- R236. -/
  | mxzero (f : FE)
  /-- R234, contiguous rows. -/
  | mxloop (f : FE)
  /-- R234, gathered rows. -/
  | mxloopG (f : FE)
  /-- R237. -/
  | mxwait (f : FE)
  /-- R238, raw. -/
  | mxdrain (f : FE)
  /-- R238, requantising. -/
  | mxdrainQ (f : FE)
  /-- R235. -/
  | gxrows (f : FE)
  /-- R243, fill. -/
  | cpyLd (f : FE)
  /-- R243, no fill. -/
  | cpyLdNf (f : FE)
  /-- R243. -/
  | cpySt (f : FE)
  /-- R243. -/
  | cpyRed (op : CpyOp) (f : FE)
  /-- R243, R318, fill. -/
  | cpyMc (f : FE)
  /-- R243, R318, no fill. -/
  | cpyMcNf (f : FE)
  /-- R243. -/
  | cpyPf (f : FE)
  /-- R246. -/
  | eqfence (f : FR)
  /-- R246, waiting. -/
  | eqfenceW (f : FR)
  /-- R247. -/
  | tdset (f : FE)
  /-- R247. -/
  | tdget (f : FE)
  /-- R248. -/
  | tset (f : FR)
  /-- R248. -/
  | tget (f : FR)
  /-- R248. -/
  | tgetFill (f : FR)
  /-- R248. -/
  | tgetFillc (f : FR)
  /-- R275, R276. -/
  | barv (f : FR)
  /-- R275, R276. -/
  | barvB (f : FR)
  /-- R275, R276. -/
  | barw (f : FR)
  /-- R275, R276. -/
  | barvw (f : FR)
  /-- R275, R276. -/
  | barx (f : FR)
  /-- R275, R276. -/
  | bars (f : FR)
  /-- R275, R276. -/
  | barsClr (f : FR)
  /-- R275, R276. -/
  | barsB (f : FR)
  /-- R317. -/
  | cbarA (f : FR)
  /-- R317. -/
  | cbarW (f : FR)
  /-- R317. -/
  | cbarAw (f : FR)
  /-- R369. -/
  | dbarA (f : FR)
  /-- R369. -/
  | dbarW (f : FR)
  /-- R369. -/
  | dbarAw (f : FR)
  /-- R440. -/
  | pbarA (f : FR)
  /-- R440. -/
  | pbarW (f : FR)
  /-- R440. -/
  | pbarAw (f : FR)
  /-- R257. -/
  | qinit (f : FM)
  /-- R257. -/
  | qpush (f : FM)
  /-- R257. -/
  | qpop (f : FM)
  /-- R257. -/
  | qtpush (f : FM)
  /-- R257. -/
  | qtpop (f : FM)
  /-- R257. -/
  | qpeek (f : FM)
  /-- R257. -/
  | qstat (f : FM)
  /-- R257. -/
  | qclose (f : FM)
  /-- R257. -/
  | qdrain (f : FM)
  /-- R351. -/
  | launch (f : FM)
  /-- R361. -/
  | spawn (f : FM)
  /-- R361. -/
  | spawnr (f : FM)
  /-- R367. -/
  | jdec (f : FM)
  /-- R370. -/
  | lquery (f : FR)
  /-- R373. -/
  | xsel (f : FR)
  /-- R374. -/
  | xdisp (f : FE)
  /-- R379. -/
  | xcurRd (f : FR)
  /-- R379. -/
  | xcurWr (f : FR)
  /-- R381. -/
  | xhist (f : FM)
  /-- R382. -/
  | regrp (f : FR)
  /-- R392. -/
  | wwait (f : FM)
  /-- R392. -/
  | wwake (f : FM)
  /-- R461. -/
  | rmtOpen (f : FR)
  /-- R461, R463. -/
  | rmtCommit (f : FR)
  /-- R461. -/
  | rmtAbort (f : FR)
  /-- R280. -/
  | sysrd (f : FR)
  /-- R280. -/
  | syswr (f : FR)
  /-- R287. -/
  | fcancel (f : FR)
  /-- R296. -/
  | ctxsave (f : FM)
  /-- R296. -/
  | ctxload (f : FM)
  /-- R303. -/
  | dbgrd (f : FR)
  -- the Boster instruction set (R421)
  | bnop
  | bli (d : BitVec 4) (i : BitVec 22)
  | badd (d a b : BitVec 4)
  | baddi (d a : BitVec 4) (i : BitVec 14)
  | band (d a b : BitVec 4)
  | bshr (d a : BitVec 4) (n : BitVec 6)
  | bbeq (a b : BitVec 4) (i : BitVec 14)
  | bbne (a b : BitVec 4) (i : BitVec 14)
  | bmatch
  | bfold (d : BitVec 4)
  | bfwdRes
  | bfwdUp
  | bfwdRaw
  | bmcast
  | bgath
  | bcmpl (d : BitVec 4)
  | bfree
  | bend
  /-- R65. -/
  | unassignedOpcode (w : IWord)
  /-- R424. -/
  | bosterReservedWord (w : BitVec 32)
  -- machine events: queues, regrouping, gangs
  /-- R255: the keeper receives and performs queue operation `id`. Parameters: `id`. -/
  | queueOpAtKeeper
  /-- R268: completion push `id` of a copy is performed at its ring's keeper. Parameters: `id`. -/
  | enginePush
  /-- R282: core `core` pushes its oldest held notice. Parameters: `core`. -/
  | noticePush
  /-- R382: the fibres of a role at one `regrp` are regrouped. Parameters: `core`, `slot`, `role`. -/
  | regroupComplete
  /-- R108: gangs number `n` and `k` of the gang table merge. Parameters: `core`, `n`, `k`. -/
  | gangMerge
  /-- R111: the oldest entry of the gang table is freed for a waiting fibre. Parameters: `core`. -/
  | gangEntryFree
  /-- R183: a bank serves its oldest request. Parameters: `core`, `n`. -/
  | scratchpadBankServe
  /-- R187: copy `id` retires and frees its entry. Parameters: `core`, `id`. -/
  | rangeEntryRetire
  /-- R188: store-buffer entry `id` is sent. Parameters: `core`, `id`. -/
  | storeBufferDrain
  /-- R190: acknowledgement `id` lowers the counters of its fibres. Parameters: `core`, `id`. -/
  | storeAck
  /-- R208: the bytes of load `id` arrive. Parameters: `core`, `id`. -/
  | loadResponse
  /-- R224: the response of atomic `id` arrives. Parameters: `core`, `id`. -/
  | atomicResponse
  /-- R212: the L1 sector at `addr` is written back and replaced. Parameters: `core`, `addr`. -/
  | l1Writeback
  /-- R311: remote scratchpad access `id` of core `core` enters the bank queues of core `k`. Parameters: `core`, `id`, `k`. -/
  | remoteScratchpadArrival
  /-- R312: the result or acknowledgement of remote access `id` returns. Parameters: `core`, `id`. -/
  | remoteScratchpadResponse
  /-- R314: barrier-network access `id` reaches offset `off` of the barrier page of core `k`. Parameters: `id`, `k`, `off`. -/
  | barrierNetworkArrival
  /-- R316: the report of `id` reaches the root router of its cluster. Parameters: `id`. -/
  | clusterBarrierReport
  /-- R316: the release of cluster barrier `n` reaches the cores. Parameters: `clus`, `n`. -/
  | clusterBarrierRelease
  /-- R369: report `id` reaches its die barrier. Parameters: `id`. -/
  | dieBarrierReport
  /-- R369: the waiters of die barrier `n` are released. Parameters: `die`, `n`. -/
  | dieBarrierRelease
  /-- R439: arrival `id` is applied to its package barrier. Parameters: `id`. -/
  | packageBarrierArrival
  /-- R439: the waiters of package barrier `n` are released. Parameters: `n`. -/
  | packageBarrierRelease
  -- engines
  /-- R233: command `id` performs its next k-step. Parameters: `core`, `id`. -/
  | mxKstep
  /-- R233: command `id` completes. Parameters: `core`, `id`. -/
  | mxCommandComplete
  /-- R239: drain `id` writes its tile. Parameters: `core`, `id`. -/
  | mxDrainRun
  /-- R235: the listed rows of the next k-step of `id` are fetched. Parameters: `core`, `id`. -/
  | gatherRowsFetch
  /-- R240: copy `id` moves its tile box. Parameters: `core`, `id`. -/
  | streamerCopyRun
  /-- R242: copy `id` performs its completion action. Parameters: `core`, `id`. -/
  | streamerCompletionAction
  /-- R319: multicast copy `id` is delivered to core `k`. Parameters: `core`, `id`, `k`. -/
  | multicastDelivery
  /-- R178: the carve-out change in progress completes. Parameters: `core`. -/
  | carveChangeComplete
  -- the scheduler
  /-- R355: the next generated team of launch `n` on die `die` is placed. Parameters: `die`, `n`. -/
  | teamPlace
  /-- R116: the team in a slot, its last fibre ended, is freed. Parameters: `core`, `slot`. -/
  | teamFree
  /-- R352: launch `n` ends. Parameters: `n`. -/
  | launchEnd
  /-- R360: a free slot of the die takes the next eligible item. Parameters: `die`. -/
  | continuationTake
  /-- R360: record `k` of queue `n` has waited 65,536 cycles. Parameters: `die`, `n`, `k`. -/
  | recordAging
  /-- R322: a marked core's number moves to a spare. Parameters: `core`. -/
  | spareCoreRemap
  /-- R293: a pre-emption request reaches a team. Parameters: `core`, `slot`. -/
  | preemptRequest
  /-- R293: a fibre that has not stopped is forced. Parameters: `core`, `slot`, `fid`. -/
  | forcedStop
  /-- R294: the settled team is saved. Parameters: `core`, `slot`. -/
  | contextSave
  /-- R295: saved team `n` is restored on a core. Parameters: `n`, `core`. -/
  | contextRestore
  /-- R292: a team is terminated. Parameters: `core`, `slot`. -/
  | teamTerminate
  /-- R343: a write of INVCMD. Parameters: `v`. -/
  | invalidateCommand
  /-- R344: the oldest invalidation completes. -/
  | invalidationComplete
  /-- R302: halt. Parameters: `core`, `slot`, `fid`. -/
  | dbgHalt
  /-- R302: step. Parameters: `core`, `slot`, `fid`. -/
  | dbgStep
  /-- R302: release. Parameters: `core`, `slot`, `fid`. -/
  | dbgRelease
  /-- R302: release all. Parameters: `core`, `slot`. -/
  | dbgReleaseAll
  /-- R375: the dispatch engine of a die runs its oldest command. Parameters: `die`. -/
  | dispatchRun
  /-- R375: acknowledgement `id` reaches the dispatch engine. Parameters: `die`, `id`. -/
  | dispatchAck
  /-- R380: arrival `id` is performed at an ingress unit. Parameters: `die`, `id`. -/
  | ingressArrival
  -- hosts and the package
  /-- R395: a CXL.mem access of an external master: a read, or a write of the bytes given. Parameters: `m`, `addr`, `len`, `bytes`. -/
  | cxlMemAccess
  /-- R397. Parameters: `m`. -/
  | ownClaim
  /-- R397. Parameters: `m`, `tgt`. -/
  | ownHandOver
  /-- R397. Parameters: `m`. -/
  | ownAccept
  /-- R397. Parameters: `m`. -/
  | ownRelease
  /-- R397. -/
  | ownerLinkDown
  /-- R399: a write of CRCMD with OP 1. Parameters: `m`, `v`. -/
  | crierWait
  /-- R399: a write of CRCMD with OP 2. Parameters: `m`, `v`. -/
  | crierWake
  /-- R399: a write of CRCMD with OP 3. Parameters: `m`, `v`. -/
  | crierWithdraw
  /-- R400: a read of SWDATA, or of another register of the master's block (R395). Parameters: `m`, `reg`. -/
  | swdataRead
  /-- R400: a write of SWDATA. Parameters: `m`, `v`. -/
  | swdataWrite
  /-- R278, R395: a write to a register with no row of its own. Parameters: `m`, `reg`, `v`. -/
  | registerWrite
  /-- R386: a die's link retrains. Parameters: `die`. -/
  | linkRetrain
  /-- R404. -/
  | correctableError
  /-- R405: the sector at `addr` is poisoned. Parameters: `addr`. -/
  | uncorrectableMemoryError
  /-- R406. Parameters: `core`, `slot`. -/
  | teamStateError
  /-- R407. Parameters: `tag`. -/
  | hostCacheError
  /-- R408. -/
  | packageReset
  /-- R408. -/
  | bootStageAdvance
  /-- R409: a power sample: watts, die temperatures above 20 C, gated cycles of the interval. Parameters: `watts`, `temps`, `n`. -/
  | powerSample
  -- porters and collectives
  /-- R418: packet `id` reaches its home porter, or a packet of another package comes in. Parameters: `id`, `packet`. -/
  | packetArrival
  /-- R426: the timer of a slot reaches TMO. Parameters: `porter`, `grp`, `ver`, `off`. -/
  | slotTimeout
  /-- R426: port 50 continues the fold of a spilled key with packet `id`. Parameters: `id`. -/
  | spillEndpointFold
  /-- R437: an acknowledgement of a delivery. Parameters: `grp`, `ver`, `flag`. -/
  | deliveryAck
  -- Forum registers with rows of their own
  /-- R430: RUN written 1. Parameters: `m`, `porter`. -/
  | pctlRunStart
  /-- R430: RUN written 0. Parameters: `m`, `porter`. -/
  | pctlRunStop
  /-- R430. Parameters: `m`, `porter`, `v`. -/
  | psdataWrite
  /-- R416. Parameters: `m`, `v`. -/
  | gtinvWrite
  /-- R416. -/
  | gtInvalidationComplete
  /-- R438: FREE = 0. Parameters: `m`, `v`. -/
  | pbcfgReserve
  /-- R438: FREE = 1. Parameters: `m`, `v`. -/
  | pbcfgFree
  /-- R443. Parameters: `m`, `v`. -/
  | cadd
  /-- R444: a fired chunk of a slot completes, or fails. Parameters: `slot`, `n`. -/
  | chunkComplete
  /-- R442. Parameters: `m`, `v`. -/
  | cgload
  /-- R445. Parameters: `m`, `v`. -/
  | cgrunStart
  /-- R445. Parameters: `m`, `slot`. -/
  | cgrunCancel
  /-- R446. Parameters: `m`, `v`. -/
  | elcmd
  /-- R447: the prepare of entry `n` of the round led here is performed, or the answer of a participant elsewhere arrives; or the prepare
  of package `src` for group `grp` comes in, with the new version, `TMO` and members. Parameters: `n`, `round`, `src`, `grp`, `ver`, `len`,
  `bytes`. -/
  | roundPrepare
  /-- R447: `TMO` after the prepare of group `grp`. Parameters: `grp`. -/
  | roundOldVersionTimeout
  /-- R447. -/
  | roundDecide
  /-- R447: the commit of entry `n` of the round led here is performed; or, with `k` 1 and 2, the commit and the abort of package `src` for
  group `grp` come in, the commit with the members. Parameters: `n`, `k`, `src`, `grp`, `bytes`. -/
  | roundCommit
  -- the fabric
  /-- R455. Parameters: `m`, `v`. -/
  | plmapMapWrite
  /-- R455. Parameters: `n`. -/
  | planeDeath
  /-- R455: a target reports which requests on the dead plane it has performed. Parameters: `pkg`, `performed`. -/
  | planeClose
  /-- R457. Parameters: `m`, `n`, `v`. -/
  | excWrite
  /-- R457: a request of another package; or (R460) a packet known by its header only. Parameters: `req`; `bytes`. -/
  | remoteRequestArrival
  /-- R458: the answer to request `id`. Parameters: `id`, `ans`. -/
  | remoteResponse
  /-- R458. Parameters: `id`. -/
  | unreachableTimeout
  /-- R462. Parameters: `staged`. -/
  | stagedWrite
  /-- R462. Parameters: `src`, `rgn`. -/
  | stagingDiscardTimeout
  /-- R463. Parameters: `src`, `rgn`. -/
  | regionPrepare
  /-- R463. Parameters: `src`, `rgn`. -/
  | regionApply
  /-- R463. Parameters: `src`, `rgn`. -/
  | regionDiscard
  /-- R465. Parameters: `m`, `v`. -/
  | pbfwdWrite
  /-- R465. Parameters: `n`. -/
  | fabricBarrierForward
  /-- R465. Parameters: `n`, `flag`. -/
  | fabricBarrierRelease
  /-- R466: a launch share of package `src` arrives with the record, of a secure context where `k` is 1; or, with `flag`, the share of launch
  `n` on package `src` has ended. Parameters: `src`, `die`, `ctx`, `k`, `n`, `prio`, `bytes`, `flag`. -/
  | launchShare
  -- the other rows
  /-- R193: the walk for a page of a context, for core `core`, ends. Parameters: `core`, `ctx`, `addr`. -/
  | tableWalkEnd
  /-- R394: a host-attach link trains, or is declined. Parameters: `m`, `asked`. -/
  | masterLinkUp
  /-- R399. Parameters: `m`. -/
  | masterLinkDown
  /-- R450: a port trains, or is declined; `flag`: a lane of it has failed. Parameters: `n`, `offered`, `flag`. -/
  | externalPortTraining
  /-- R455. Parameters: `n`. -/
  | planeComesBack
  /-- R402: the clearing of a region of a die, or of the bulk tier, ends. Parameters: `region`, `n`. -/
  | regionClearingComplete
  /-- R322. Parameters: `core`. -/
  | markForRetirement
  /-- R323: a mesh link or router lane of a cluster fails; a lost report names the barriers carried. Parameters: `clus`, `lost`. -/
  | meshLinkFailure
  /-- R18. Parameters: `n`, `k`. -/
  | stackChannelFailure
  deriving DecidableEq, Repr

end Sys2Proof
end

