-- ==== Sys2Proof/WellFormed.lean ====
section
/-!
DEFINITION. Well-formedness: check 4 of R68. An instruction is well-formed when every operand has a kind its description accepts (R43,
R122), 64-bit operands name even registers (R44), type, rounding and scope codes are accepted (R47, R48), and unused fields are 0.
-/
namespace Sys2Proof

namespace Wf

/-- An unused operand field is 0x000, which reads as `v0` (R43). -/
def zero : Operand → Bool
  | .v i => i == 0
  | _ => false

/-- The index of a 64-bit operand is even (R44). -/
def evenIf (wide even : Bool) : Bool := !wide || even

/-- Class dst of R122. -/
def dst (wide : Bool) : Operand → Bool
  | .v i => evenIf wide (i.getLsbD 0 == false)
  | .k i => evenIf wide (i.getLsbD 0 == false)
  | _ => false

/-- Class isrc of R122. -/
def isrc (wide : Bool) : Operand → Bool
  | .v i => evenIf wide (i.getLsbD 0 == false)
  | .k i => evenIf wide (i.getLsbD 0 == false)
  | .sv _ => true
  | .imm _ => true
  | _ => false

/-- Class fsrc of R122. -/
def fsrc : Operand → Bool
  | .v _ => true
  | .k _ => true
  | .sv _ => true
  | _ => false

/-- The data operand of a store or push (R208, R257): a register or an immediate. -/
def data (wide : Bool) : Operand → Bool
  | .v i => evenIf wide (i.getLsbD 0 == false)
  | .k i => evenIf wide (i.getLsbD 0 == false)
  | .imm _ => true
  | _ => false

/-- The source of `mov` (R132). -/
def movSrc (wide : Bool) (o : Operand) : Bool := data wide o

/-- The base operand of format M (R49). -/
def base (wide : Bool) : Operand → Bool
  | .v i => evenIf wide (i.getLsbD 0 == false)
  | .k i => evenIf wide (i.getLsbD 0 == false)
  | _ => false

def pred : Operand → Bool
  | .p _ => true
  | _ => false

def p0 (o : Operand) : Bool := o == .p 0

def bar : Operand → Bool
  | .b _ => true
  | _ => false

def vec (wide : Bool) : Operand → Bool
  | .v i => evenIf wide (i.getLsbD 0 == false)
  | _ => false

def svSrc : Operand → Bool
  | .sv _ => true
  | _ => false

/-- An immediate of kind 10 between two bounds, both at least 0. -/
def immIn (lo hi : Nat) : Operand → Bool
  | .imm i => decide (lo ≤ i.toNat) && decide (i.toNat ≤ hi)
  | _ => false

def evenK : Operand → Bool
  | .k i => i.getLsbD 0 == false
  | _ => false

def kUpTo (n : Nat) : Operand → Bool
  | .k i => decide (i.toNat ≤ n)
  | _ => false

/-- The count of a prefix word (R61). -/
def repCount : Operand → Bool
  | .imm i => decide (i.toNat ≤ 127)
  | .k _ => true
  | _ => false

/-- The completion target of a copy by EV (R242). -/
def copyTarget (ev : BitVec 3) (o : Operand) : Bool :=
  if ev == 0 then zero o else if ev == 1 then bar o else if ev == 2 then kUpTo 63 o else false

/-- A type code of 64 bits (R47). -/
def tyWide (t : BitVec 6) : Bool := t == 3 || t == 7 || t == 9

/-- `.i8` to `.n64` (R125). -/
def intTy (t : BitVec 6) : Bool := decide (t.toNat ≤ 7)

/-- The types of R128. -/
def logTy (t : BitVec 6) : Bool := t == 2 || t == 3 || t == 6 || t == 7 || t == 8 || t == 9

def bitTy (t : BitVec 6) : Bool := t == 8 || t == 9

/-- The types of R206. -/
def memTy (t : BitVec 6) : Bool := t == 0 || t == 1 || t == 4 || t == 5 || t == 8 || t == 9

/-- The types of R161. -/
def redTy (op : RedOp) (t : BitVec 6) : Bool :=
  match op with
  | .add | .min | .max => t == 2 || t == 3 || t == 6 || t == 7
  | .and | .or | .xor => t == 8 || t == 9

/-- The types of R220; `.fadd` names a tariff entry. -/
def atomTy (op : AtomOp) (t : BitVec 6) : Bool :=
  match op with
  | .add | .min | .max => t == 2 || t == 3 || t == 6 || t == 7
  | .and | .or | .xor | .exch | .cas => t == 8 || t == 9
  | .fadd => true

def atomWide (op : AtomOp) (t : BitVec 6) : Bool :=
  match op with
  | .fadd => false
  | _ => tyWide t

/-- The selector of `sysrd` and `syswr` names a listed register (R280, R342, R359, R390, R441). -/
def sysRegOk (xf : BitVec 16) : Bool :=
  let n := (xf.extractLsb' 0 8).toNat
  let oth := xf.getLsbD 11
  let team := decide (n ≤ 8) || (decide (16 ≤ n) && decide (n ≤ 30))
  let die := (decide (32 ≤ n) && decide (n ≤ 34)) || (decide (48 ≤ n) && decide (n ≤ 50)) || (decide (64 ≤ n) && decide (n ≤ 79))
  let forum := n == 116 || n == 118
  (xf.extractLsb' 8 3 == 0) && (team || ((die || forum) && !oth))

end Wf

/-- The OP codes that R65 leaves unassigned. -/
def opUnassigned (op : Nat) : Bool :=
  (decide (0x1D ≤ op) && decide (op ≤ 0x1F)) || (decide (0x30 ≤ op) && decide (op ≤ 0x3F)) || (decide (0x47 ≤ op) && decide (op ≤ 0x4F)) ||
  (decide (0x56 ≤ op) && decide (op ≤ 0x5F)) || (decide (0x6A ≤ op) && decide (op ≤ 0x6E)) || (decide (0x7B ≤ op) && decide (op ≤ 0x7F)) ||
  (decide (0x86 ≤ op) && decide (op ≤ 0x8F)) || (decide (0x95 ≤ op) && decide (op ≤ 0x9F)) || (decide (0xAA ≤ op) && decide (op ≤ 0xAF)) ||
  (decide (0xB8 ≤ op) && decide (op ≤ 0xBF)) || (decide (0xC9 ≤ op) && decide (op ≤ 0xCF)) || (decide (0xD5 ≤ op) && decide (op ≤ 0xDF)) ||
  (decide (0xE7 ≤ op) && decide (op ≤ 0xEF)) || (decide (0xF3 ≤ op) && decide (op ≤ 0xF7)) || op == 0xFE || op == 0xFF

/-- A Boster word that R424 `ERR` 1 names: a reserved OPC, a nonzero unused field, or kind 3 of `bfwd`. -/
def bosterReserved (w : BitVec 32) : Bool :=
  let opc := (w.extractLsb' 26 6).toNat
  let d := w.extractLsb' 22 4
  let a := w.extractLsb' 18 4
  let b := w.extractLsb' 14 4
  let imm := w.extractLsb' 0 14
  match opc with
  | 0x00 | 0x08 | 0x0B | 0x0C | 0x0E | 0x0F => !(w.extractLsb' 0 26 == 0)
  | 0x01 => false
  | 0x02 | 0x04 => !(imm == 0)
  | 0x03 => !(b == 0)
  | 0x05 => !(b == 0 && imm.extractLsb' 6 8 == 0)
  | 0x06 | 0x07 => !(d == 0)
  | 0x09 | 0x0D => !(a == 0 && b == 0 && imm == 0)
  | 0x0A => !(d == 0 && a == 0 && b == 0 && imm.extractLsb' 2 12 == 0) || imm.extractLsb' 0 2 == 3
  | _ => true

open Wf in
/-- Check 4 of R68 for every row; a machine event has no encoding and is always well-formed. -/
def wf : Instr → Bool
  | .nop f => zero f.d && zero f.a && zero f.b && zero f.c && (f.rm == 0) && (f.t1 == 0) && (f.t2 == 0) && (f.xf == 0)
  | .add f => let w := tyWide f.t1; dst w f.d && isrc w f.a && isrc w f.b && zero f.c && (f.rm.toNat ≤ 1) && (intTy f.t1) && (f.t2 == 0) && (f.xf == 0)
  | .addI f => let w := tyWide f.t1; dst w f.d && isrc w f.a && zero f.b && (f.rm.toNat ≤ 1) && (intTy f.t1)
  | .sub f => let w := tyWide f.t1; dst w f.d && isrc w f.a && isrc w f.b && zero f.c && (f.rm.toNat ≤ 1) && (intTy f.t1) && (f.t2 == 0) && (f.xf == 0)
  | .subI f => let w := tyWide f.t1; dst w f.d && isrc w f.a && zero f.b && (f.rm.toNat ≤ 1) && (intTy f.t1)
  | .mul f => let w := tyWide f.t1; dst w f.d && isrc w f.a && isrc w f.b && zero f.c && (f.rm.toNat ≤ 1) && (intTy f.t1) && (f.t2 == 0) && (f.xf == 0)
  | .mulI f => let w := tyWide f.t1; dst w f.d && isrc w f.a && zero f.b && (f.rm.toNat ≤ 1) && (intTy f.t1)
  | .mulhi f => let w := tyWide f.t1; dst w f.d && isrc w f.a && isrc w f.b && zero f.c && (f.rm == 0) && (intTy f.t1) && (f.t2 == 0) && (f.xf == 0)
  | .mulhiI f => let w := tyWide f.t1; dst w f.d && isrc w f.a && zero f.b && (f.rm == 0) && (intTy f.t1)
  | .mad f => let w := tyWide f.t1; dst w f.d && isrc w f.a && isrc w f.b && isrc w f.c && (f.rm.toNat ≤ 1) && (intTy f.t1) && (f.t2 == 0) && (f.xf == 0)
  | .madw f => dst true f.d && isrc false f.a && isrc false f.b && isrc true f.c && (f.rm.toNat ≤ 1) && (f.t1 == 2 || f.t1 == 6) && (f.t2 == 0) && (f.xf == 0)
  | .min f => let w := tyWide f.t1; dst w f.d && isrc w f.a && isrc w f.b && zero f.c && (f.rm == 0) && (intTy f.t1) && (f.t2 == 0) && (f.xf == 0)
  | .minI f => let w := tyWide f.t1; dst w f.d && isrc w f.a && zero f.b && (f.rm == 0) && (intTy f.t1)
  | .max f => let w := tyWide f.t1; dst w f.d && isrc w f.a && isrc w f.b && zero f.c && (f.rm == 0) && (intTy f.t1) && (f.t2 == 0) && (f.xf == 0)
  | .maxI f => let w := tyWide f.t1; dst w f.d && isrc w f.a && zero f.b && (f.rm == 0) && (intTy f.t1)
  | .abs f => let w := tyWide f.t1; dst w f.d && isrc w f.a && zero f.b && zero f.c && (f.rm.toNat ≤ 1) && (intTy f.t1) && (f.t2 == 0) && (f.xf == 0)
  | .neg f => let w := tyWide f.t1; dst w f.d && isrc w f.a && zero f.b && zero f.c && (f.rm.toNat ≤ 1) && (intTy f.t1) && (f.t2 == 0) && (f.xf == 0)
  | .and f => let w := tyWide f.t1; dst w f.d && isrc w f.a && isrc w f.b && zero f.c && (f.rm == 0) && (logTy f.t1) && (f.t2 == 0) && (f.xf == 0)
  | .andI f => let w := tyWide f.t1; dst w f.d && isrc w f.a && zero f.b && (f.rm == 0) && (logTy f.t1)
  | .or f => let w := tyWide f.t1; dst w f.d && isrc w f.a && isrc w f.b && zero f.c && (f.rm == 0) && (logTy f.t1) && (f.t2 == 0) && (f.xf == 0)
  | .orI f => let w := tyWide f.t1; dst w f.d && isrc w f.a && zero f.b && (f.rm == 0) && (logTy f.t1)
  | .xor f => let w := tyWide f.t1; dst w f.d && isrc w f.a && isrc w f.b && zero f.c && (f.rm == 0) && (logTy f.t1) && (f.t2 == 0) && (f.xf == 0)
  | .xorI f => let w := tyWide f.t1; dst w f.d && isrc w f.a && zero f.b && (f.rm == 0) && (logTy f.t1)
  | .not f => let w := tyWide f.t1; dst w f.d && isrc w f.a && zero f.b && zero f.c && (f.rm == 0) && (logTy f.t1) && (f.t2 == 0) && (f.xf == 0)
  | .shl f => let w := tyWide f.t1; dst w f.d && isrc w f.a && isrc false f.b && zero f.c && (f.rm == 0) && (logTy f.t1) && (f.t2 == 0) && (f.xf == 0)
  | .shlI f => let w := tyWide f.t1; dst w f.d && isrc w f.a && zero f.b && (f.rm == 0) && (logTy f.t1)
  | .shr f => let w := tyWide f.t1; dst w f.d && isrc w f.a && isrc false f.b && zero f.c && (f.rm == 0) && (logTy f.t1) && (f.t2 == 0) && (f.xf == 0)
  | .shrI f => let w := tyWide f.t1; dst w f.d && isrc w f.a && zero f.b && (f.rm == 0) && (logTy f.t1)
  | .sar f => let w := tyWide f.t1; dst w f.d && isrc w f.a && isrc false f.b && zero f.c && (f.rm == 0) && (logTy f.t1) && (f.t2 == 0) && (f.xf == 0)
  | .sarI f => let w := tyWide f.t1; dst w f.d && isrc w f.a && zero f.b && (f.rm == 0) && (logTy f.t1)
  | .rot f => let w := tyWide f.t1; dst w f.d && isrc w f.a && isrc false f.b && zero f.c && (f.rm == 0) && (logTy f.t1) && (f.t2 == 0) && (f.xf == 0)
  | .rotI f => let w := tyWide f.t1; dst w f.d && isrc w f.a && zero f.b && (f.rm == 0) && (logTy f.t1)
  | .clz f => let w := tyWide f.t1; dst false f.d && isrc w f.a && zero f.b && zero f.c && (f.rm == 0) && (logTy f.t1) && (f.t2 == 0) && (f.xf == 0)
  | .popc f => let w := tyWide f.t1; dst false f.d && isrc w f.a && zero f.b && zero f.c && (f.rm == 0) && (logTy f.t1) && (f.t2 == 0) && (f.xf == 0)
  | .brev f => let w := tyWide f.t1; dst w f.d && isrc w f.a && zero f.b && zero f.c && (f.rm == 0) && (logTy f.t1) && (f.t2 == 0) && (f.xf == 0)
  | .bfx f => let w := tyWide f.t1; dst w f.d && isrc w f.a && isrc false f.b && isrc false f.c && (f.rm == 0) && (f.t1 == 2 || f.t1 == 3 || f.t1 == 6 || f.t1 == 7) && (f.t2 == 0) && (f.xf == 0)
  | .bfi f => let w := tyWide f.t1; dst w f.d && isrc w f.a && isrc false f.b && isrc false f.c && (f.rm == 0) && (bitTy f.t1) && (f.t2 == 0) && (f.xf == 0)
  | .sel f => let w := tyWide f.t1; dst w f.d && isrc w f.a && isrc w f.b && pred f.c && (f.rm == 0) && (bitTy f.t1) && (f.t2 == 0) && (f.xf == 0)
  | .cmp f => let w := tyWide f.t1; pred f.d && isrc w f.a && isrc w f.b && zero f.c && (f.rm.toNat ≤ 5) && (f.t1.toNat ≤ 9) && (f.t2 == 0) && (f.xf == 0)
  | .cmpI f => let w := tyWide f.t1; pred f.d && isrc w f.a && zero f.b && (f.rm.toNat ≤ 5) && (f.t1.toNat ≤ 9)
  | .lea f => let w := tyWide f.t1; dst true f.d && isrc true f.a && isrc w f.b && zero f.c && (f.rm.toNat ≤ 4) && (f.t1 == 2 || f.t1 == 3 || f.t1 == 6 || f.t1 == 7) && (f.t2 == 0) && (f.xf == 0)
  | .leaI f => dst true f.d && isrc true f.a && zero f.b && (f.rm.toNat ≤ 4) && (f.t1 == 2 || f.t1 == 3 || f.t1 == 6 || f.t1 == 7)
  | .mov f => let w := tyWide f.t1; dst w f.d && movSrc w f.a && zero f.b && zero f.c && (f.rm == 0) && (bitTy f.t1) && (f.t2 == 0) && (f.xf == 0)
  | .movk f => let w := tyWide f.t1; dst w f.d && zero f.a && zero f.b && zero f.c && (f.rm.toNat ≤ 3 && (w || f.rm.toNat ≤ 1)) && (bitTy f.t1) && (f.t2 == 0)
  | .ldi f => let w := tyWide f.t1; dst w f.d && zero f.a && zero f.b && (f.rm == 0) && (bitTy f.t1)
  | .ldiHi f => dst true f.d && zero f.a && zero f.b && (f.rm == 1) && (f.t1 == 9)
  | .gets f => let w := tyWide f.t1; dst w f.d && svSrc f.a && zero f.b && zero f.c && (f.rm == 0) && (bitTy f.t1) && (f.t2 == 0) && (f.xf == 0)
  | .pand f => pred f.d && pred f.a && pred f.b && zero f.c && (f.rm == 0) && (f.t1 == 0) && (f.t2 == 0) && (f.xf == 0)
  | .por f => pred f.d && pred f.a && pred f.b && zero f.c && (f.rm == 0) && (f.t1 == 0) && (f.t2 == 0) && (f.xf == 0)
  | .pxor f => pred f.d && pred f.a && pred f.b && zero f.c && (f.rm == 0) && (f.t1 == 0) && (f.t2 == 0) && (f.xf == 0)
  | .pnot f => pred f.d && pred f.a && zero f.b && zero f.c && (f.rm == 0) && (f.t1 == 0) && (f.t2 == 0) && (f.xf == 0)
  | .pmov f => pred f.d && pred f.a && zero f.b && zero f.c && (f.rm == 0) && (f.t1 == 0) && (f.t2 == 0) && (f.xf == 0)
  | .pmovWRead f => dst false f.d && p0 f.a && zero f.b && zero f.c && (f.rm == 0) && (f.t1 == 0) && (f.t2 == 0) && (f.xf == 1)
  | .pmovWWrite f => p0 f.d && isrc false f.a && zero f.b && zero f.c && (f.rm == 0) && (f.t1 == 0) && (f.t2 == 0) && (f.xf == 1)
  | .fadd f => dst false f.d && fsrc f.a && fsrc f.b && zero f.c && (f.rm.toNat ≤ 4) && (f.xf == 0)
  | .faddPk f => dst false f.d && fsrc f.a && fsrc f.b && zero f.c && (f.rm.toNat ≤ 4) && (f.xf == 0)
  | .fsub f => dst false f.d && fsrc f.a && fsrc f.b && zero f.c && (f.rm.toNat ≤ 4) && (f.xf == 0)
  | .fsubPk f => dst false f.d && fsrc f.a && fsrc f.b && zero f.c && (f.rm.toNat ≤ 4) && (f.xf == 0)
  | .fmul f => dst false f.d && fsrc f.a && fsrc f.b && zero f.c && (f.rm.toNat ≤ 4) && (f.xf == 0)
  | .fmulPk f => dst false f.d && fsrc f.a && fsrc f.b && zero f.c && (f.rm.toNat ≤ 4) && (f.xf == 0)
  | .ffma f => dst false f.d && fsrc f.a && fsrc f.b && fsrc f.c && (f.rm.toNat ≤ 4) && (f.xf == 0)
  | .ffmaPk f => dst false f.d && fsrc f.a && fsrc f.b && fsrc f.c && (f.rm.toNat ≤ 4) && (f.xf == 0)
  | .fmin f => dst false f.d && fsrc f.a && fsrc f.b && zero f.c && (f.rm.toNat ≤ 4) && (f.xf == 0)
  | .fminPk f => dst false f.d && fsrc f.a && fsrc f.b && zero f.c && (f.rm.toNat ≤ 4) && (f.xf == 0)
  | .fmax f => dst false f.d && fsrc f.a && fsrc f.b && zero f.c && (f.rm.toNat ≤ 4) && (f.xf == 0)
  | .fmaxPk f => dst false f.d && fsrc f.a && fsrc f.b && zero f.c && (f.rm.toNat ≤ 4) && (f.xf == 0)
  | .fcmp f => pred f.d && fsrc f.a && fsrc f.b && zero f.c && (f.rm == 0) && (f.t2 == 0) && (f.xf.toNat ≤ 7)
  | .frcp f => dst false f.d && fsrc f.a && zero f.b && zero f.c && (f.rm.toNat ≤ 4) && (f.xf == 0)
  | .frcpPk f => dst false f.d && fsrc f.a && zero f.b && zero f.c && (f.rm.toNat ≤ 4) && (f.xf == 0)
  | .frsq f => dst false f.d && fsrc f.a && zero f.b && zero f.c && (f.rm.toNat ≤ 4) && (f.xf == 0)
  | .frsqPk f => dst false f.d && fsrc f.a && zero f.b && zero f.c && (f.rm.toNat ≤ 4) && (f.xf == 0)
  | .fsqrt f => dst false f.d && fsrc f.a && zero f.b && zero f.c && (f.rm.toNat ≤ 4) && (f.xf == 0)
  | .fsqrtPk f => dst false f.d && fsrc f.a && zero f.b && zero f.c && (f.rm.toNat ≤ 4) && (f.xf == 0)
  | .fexp2 f => dst false f.d && fsrc f.a && zero f.b && zero f.c && (f.rm.toNat ≤ 4) && (f.xf == 0)
  | .fexp2Pk f => dst false f.d && fsrc f.a && zero f.b && zero f.c && (f.rm.toNat ≤ 4) && (f.xf == 0)
  | .flog2 f => dst false f.d && fsrc f.a && zero f.b && zero f.c && (f.rm.toNat ≤ 4) && (f.xf == 0)
  | .flog2Pk f => dst false f.d && fsrc f.a && zero f.b && zero f.c && (f.rm.toNat ≤ 4) && (f.xf == 0)
  | .fsin f => dst false f.d && fsrc f.a && zero f.b && zero f.c && (f.rm.toNat ≤ 4) && (f.xf == 0)
  | .fsinPk f => dst false f.d && fsrc f.a && zero f.b && zero f.c && (f.rm.toNat ≤ 4) && (f.xf == 0)
  | .fcos f => dst false f.d && fsrc f.a && zero f.b && zero f.c && (f.rm.toNat ≤ 4) && (f.xf == 0)
  | .fcosPk f => dst false f.d && fsrc f.a && zero f.b && zero f.c && (f.rm.toNat ≤ 4) && (f.xf == 0)
  | .ftanh f => dst false f.d && fsrc f.a && zero f.b && zero f.c && (f.rm.toNat ≤ 4) && (f.xf == 0)
  | .ftanhPk f => dst false f.d && fsrc f.a && zero f.b && zero f.c && (f.rm.toNat ≤ 4) && (f.xf == 0)
  | .frnd f => dst false f.d && fsrc f.a && zero f.b && zero f.c && (f.rm.toNat ≤ 4) && (f.xf == 0)
  | .frndPk f => dst false f.d && fsrc f.a && zero f.b && zero f.c && (f.rm.toNat ≤ 4) && (f.xf == 0)
  | .cvt f => dst false f.d && fsrc f.a && zero f.b && zero f.c && (f.rm.toNat ≤ 4) && (f.xf == 0)
  | .cvtPk f => dst false f.d && fsrc f.a && zero f.b && zero f.c && (f.rm.toNat ≤ 4) && (f.xf == 0)
  | .cvti f => dst false f.d && fsrc f.a && isrc false f.b && zero f.c && (f.rm.toNat ≤ 4) && (f.xf == 0)
  | .pk f => dst false f.d && fsrc f.a && fsrc f.b && isrc false f.c && (f.rm.toNat ≤ 4) && (f.xf == 0)
  | .upk f => dst true f.d && fsrc f.a && isrc false f.b && zero f.c && (f.rm.toNat ≤ 4) && (f.xf == 0)
  | .sclq f => vec false f.d && vec false f.a && dst false f.b && fsrc f.c && (f.rm.toNat ≤ 3) && (f.xf == 0)
  | .sclget f => dst false f.d && immIn 0 19 f.a && zero f.b && zero f.c && (f.rm == 0) && (f.t1 == 0) && (f.t2 == 0) && (f.xf == 0)
  | .sclgetClr f => dst false f.d && immIn 0 19 f.a && zero f.b && zero f.c && (f.rm == 1) && (f.t1 == 0) && (f.t2 == 0) && (f.xf == 0)
  | .crng f => dst false f.d && isrc true f.a && isrc false f.b && zero f.c && (f.rm.toNat ≤ 2) && (f.t1 == 0) && (f.t2 == 0) && (f.xf == 0)
  | .shflPick f => let w := tyWide f.t1; dst w f.d && vec w f.a && isrc false f.b && zero f.c && (f.rm == 0) && (bitTy f.t1) && (f.t2 == 0) && (f.xf == 0)
  | .shflShift f => let w := tyWide f.t1; dst w f.d && vec w f.a && isrc false f.b && zero f.c && (f.rm == 0) && (bitTy f.t1) && (f.t2 == 0) && (f.xf == 0)
  | .shflRot f => let w := tyWide f.t1; dst w f.d && vec w f.a && isrc false f.b && zero f.c && (f.rm == 0) && (bitTy f.t1) && (f.t2 == 0) && (f.xf == 0)
  | .shflMir f => let w := tyWide f.t1; dst w f.d && vec w f.a && isrc false f.b && zero f.c && (f.rm == 0) && (bitTy f.t1) && (f.t2 == 0) && (f.xf == 0)
  | .voteEvery f => pred f.d && pred f.a && zero f.b && zero f.c && (f.rm == 0) && (f.t1 == 0) && (f.t2 == 0) && (f.xf == 0)
  | .voteSome f => pred f.d && pred f.a && zero f.b && zero f.c && (f.rm == 0) && (f.t1 == 0) && (f.t2 == 0) && (f.xf == 0)
  | .voteMask f => dst false f.d && pred f.a && zero f.b && zero f.c && (f.rm == 0) && (f.t1 == 0) && (f.t2 == 0) && (f.xf == 0)
  | .voteCount f => dst false f.d && pred f.a && zero f.b && zero f.c && (f.rm == 0) && (f.t1 == 0) && (f.t2 == 0) && (f.xf == 0)
  | .redux op f => let w := tyWide f.t1; dst w f.d && isrc w f.a && zero f.b && zero f.c && (f.rm == 0) && (redTy op f.t1) && (f.t2 == 0) && (f.xf == 0)
  | .scan op f => let w := tyWide f.t1; dst w f.d && isrc w f.a && zero f.b && zero f.c && (f.rm == 0) && (redTy op f.t1) && (f.t2 == 0) && (f.xf == 0)
  | .scanEx op f => let w := tyWide f.t1; dst w f.d && isrc w f.a && zero f.b && zero f.c && (f.rm == 0) && (redTy op f.t1) && (f.t2 == 0) && (f.xf == 0)
  | .matchPeers f => let w := tyWide f.t1; dst false f.d && isrc w f.a && zero f.b && zero f.c && (f.rm == 0) && (bitTy f.t1) && (f.t2 == 0) && (f.xf == 0)
  | .matchFirst f => let w := tyWide f.t1; dst false f.d && isrc w f.a && zero f.b && zero f.c && (f.rm == 0) && (bitTy f.t1) && (f.t2 == 0) && (f.xf == 0)
  | .matchSame f => let w := tyWide f.t1; pred f.d && isrc w f.a && zero f.b && zero f.c && (f.rm == 0) && (bitTy f.t1) && (f.t2 == 0) && (f.xf == 0)
  | .lsync f => zero f.d && isrc false f.a && zero f.b && zero f.c && (f.rm == 0) && (f.t1 == 0) && (f.t2 == 0) && (f.xf == 0)
  | .bra f => zero f.d && zero f.a && zero f.b && (f.cm == 0)
  | .brx f => zero f.d && isrc true f.a && zero f.b && zero f.c && (f.rm == 0) && (f.t1 == 0) && (f.t2 == 0) && (f.xf == 0)
  | .call f => vec true f.d && zero f.a && zero f.b && (f.cm == 0)
  | .calli f => vec true f.d && isrc true f.a && zero f.b && zero f.c && (f.rm == 0) && (f.t1 == 0) && (f.t2 == 0) && (f.xf == 0)
  | .ret f => vec true f.d && zero f.a && zero f.b && zero f.c && (f.rm == 0) && (f.t1 == 0) && (f.t2 == 0) && (f.xf == 0)
  | .retTrap f => zero f.d && zero f.a && zero f.b && zero f.c && (f.rm == 0) && (f.t1 == 0) && (f.t2 == 0) && (f.xf == 0)
  | .fork f => dst false f.d && isrc false f.a && isrc false f.b && (f.cm.toNat ≤ 31)
  | .exit f => zero f.d && zero f.a && zero f.b && zero f.c && (f.rm == 0) && (f.t1 == 0) && (f.t2 == 0) && (f.xf == 0)
  | .yield f => zero f.d && zero f.a && zero f.b && zero f.c && (f.rm == 0) && (f.t1 == 0) && (f.t2 == 0) && (f.xf == 0)
  | .trap f => zero f.d && zero f.a && zero f.b && (f.rm == 0) && (f.t1 == 0)
  | .brk f => zero f.d && zero f.a && zero f.b && (f.rm == 0) && (f.t1 == 0)
  | .rep f => zero f.d && zero f.b && repCount f.a && (f.h.g == 0) && (f.h.gn == false) && (f.m == 0)
  | .ld f => let w := tyWide f.t1; dst w f.d && base true f.a && zero f.b && (memTy f.t1) && (f.sc == 0)
  | .ldAcq f => let w := tyWide f.t1; dst w f.d && base true f.a && zero f.b && (memTy f.t1) && (f.sc.toNat ≤ 6)
  | .st f => let w := tyWide f.t1; data w f.d && base true f.a && zero f.b && (memTy f.t1) && (f.sc == 0)
  | .stRel f => let w := tyWide f.t1; data w f.d && base true f.a && zero f.b && (memTy f.t1) && (f.sc.toNat ≤ 6)
  | .lds f => let w := tyWide f.t1; dst w f.d && base false f.a && zero f.b && (memTy f.t1) && (f.sc == 0)
  | .sts f => let w := tyWide f.t1; data w f.d && base false f.a && zero f.b && (memTy f.t1) && (f.sc == 0)
  | .ldx f => let w := tyWide f.t1; dst w f.d && base false f.a && zero f.b && (memTy f.t1) && (f.sc == 0)
  | .stx f => let w := tyWide f.t1; data w f.d && base false f.a && zero f.b && (memTy f.t1) && (f.sc == 0)
  | .prfL1 f => zero f.d && base true f.a && zero f.b && (f.t1 == 0) && (f.sc == 0)
  | .prfL2 f => zero f.d && base true f.a && zero f.b && (f.t1 == 0) && (f.sc == 0)
  | .flushWb f => zero f.d && base true f.a && zero f.b && (f.t1 == 0) && (f.sc == 0)
  | .flushInv f => zero f.d && base true f.a && zero f.b && (f.t1 == 0) && (f.sc == 0)
  | .fenceAcq f => zero f.d && zero f.a && zero f.b && zero f.c && (f.rm.toNat ≤ 6) && (f.t1 == 0) && (f.t2 == 0) && (f.xf == 0)
  | .fenceRel f => zero f.d && zero f.a && zero f.b && zero f.c && (f.rm.toNat ≤ 6) && (f.t1 == 0) && (f.t2 == 0) && (f.xf == 0)
  | .fenceAr f => zero f.d && zero f.a && zero f.b && zero f.c && (f.rm.toNat ≤ 6) && (f.t1 == 0) && (f.t2 == 0) && (f.xf == 0)
  | .carve f => dst false f.d && isrc false f.a && zero f.b && zero f.c && (f.rm == 0) && (f.t1 == 0) && (f.t2 == 0) && (f.xf == 0)
  | .tlbq f => dst true f.d && base true f.a && zero f.b && (f.t1 == 9) && (f.sc == 0)
  | .atom op f => let w := atomWide op f.t1; dst w f.d && base true f.a && data w f.b && atomTy op f.t1 && (f.sc == 0)
  | .atomAcq op f => let w := atomWide op f.t1; dst w f.d && base true f.a && data w f.b && atomTy op f.t1 && (f.sc.toNat ≤ 6)
  | .atomRel op f => let w := atomWide op f.t1; dst w f.d && base true f.a && data w f.b && atomTy op f.t1 && (f.sc.toNat ≤ 6)
  | .atomAr op f => let w := atomWide op f.t1; dst w f.d && base true f.a && data w f.b && atomTy op f.t1 && (f.sc.toNat ≤ 6)
  | .red op f => let w := atomWide op f.t1; data w f.d && base true f.a && zero f.b && atomTy op f.t1 && (op != .exch) && (op != .cas) && (f.sc == 0)
  | .redRel op f => let w := atomWide op f.t1; data w f.d && base true f.a && zero f.b && atomTy op f.t1 && (op != .exch) && (op != .cas) && (f.sc.toNat ≤ 6)
  | .mxzero f => zero f.d && zero f.a && zero f.b && (f.ks == 0) && (f.t2 == 0) && (f.tdb == 0) && (f.tda == 0) && (f.ev == 0) && (f.t1 == 0)
  | .mxloop f => isrc false f.d && isrc false f.a && (if f.ev.getLsbD 0 then evenK f.b else zero f.b) && (f.ks != 0) && (f.t2 == 0) && (f.ev.getLsbD 2 == false)
  | .mxloopG f => isrc false f.d && isrc false f.a && (if f.ev.getLsbD 0 then evenK f.b else zero f.b) && (f.ks != 0) && (f.t2 == 0) && (f.ev.getLsbD 2 == false)
  | .mxwait f => zero f.d && zero f.a && zero f.b && (f.ks == 0) && (f.acc == 0 || f.ev.getLsbD 0 == false) && (f.t2 == 0) && (f.tdb == 0) && (f.tda == 0) && (f.ev.getLsbD 2 == false) && (f.t1 == 0)
  | .mxdrain f => zero f.d && isrc false f.a && (zero f.b || bar f.b) && (f.ks == 0) && (f.t2 == 0) && (f.tdb == 0) && (f.ev == 0)
  | .mxdrainQ f => fsrc f.d && isrc false f.a && (zero f.b || bar f.b) && (f.ks == 0) && (f.t2 == 0) && (f.ev.toNat ≤ 4)
  | .gxrows f => zero f.d && vec false f.a && zero f.b && (f.ks == 0) && (f.t2 == 0) && (f.tdb == 0) && (f.tda == 0) && (f.ev == 0) && (f.t1 == 0)
  | .cpyLd f => isrc false f.d && kUpTo 59 f.a && copyTarget f.ev f.b && (f.ks == 0) && (f.acc == 0) && (f.t2 == 0) && (f.t1 == 0)
  | .cpyLdNf f => isrc false f.d && kUpTo 59 f.a && copyTarget f.ev f.b && (f.ks == 0) && (f.acc == 0) && (f.t2 == 0) && (f.t1 == 0)
  | .cpySt f => isrc false f.d && kUpTo 59 f.a && copyTarget f.ev f.b && (f.ks == 0) && (f.acc == 0) && (f.t2 == 0) && (f.t1 == 0)
  | .cpyRed _ f => isrc false f.d && kUpTo 59 f.a && copyTarget f.ev f.b && (f.ks == 0) && (f.acc == 0) && (f.t2 == 0) && (f.t1 == 0)
  | .cpyMc f => evenK f.d && kUpTo 59 f.a && copyTarget f.ev f.b && (f.ks == 0) && (f.acc == 0) && (f.t2 == 0) && (f.t1 == 0)
  | .cpyMcNf f => evenK f.d && kUpTo 59 f.a && copyTarget f.ev f.b && (f.ks == 0) && (f.acc == 0) && (f.t2 == 0) && (f.t1 == 0)
  | .cpyPf f => zero f.d && kUpTo 59 f.a && zero f.b && (f.ks == 0) && (f.acc == 0) && (f.t2 == 0) && (f.tdb == 0) && (f.ev == 0) && (f.t1 == 0)
  | .eqfence f => zero f.d && immIn 1 7 f.a && zero f.b && zero f.c && (f.rm == 0) && (f.t1 == 0) && (f.t2 == 0) && (f.xf == 0)
  | .eqfenceW f => zero f.d && immIn 1 7 f.a && zero f.b && zero f.c && (f.rm == 1) && (f.t1 == 0) && (f.t2 == 0) && (f.xf == 0)
  | .tdset f => zero f.d && isrc false f.a && zero f.b && (f.ks == 0) && (f.acc == 0) && (f.t2 == 0) && (f.tdb == 0) && (f.ev == 0) && (f.t1 == 0)
  | .tdget f => zero f.d && isrc false f.a && zero f.b && (f.ks == 0) && (f.acc == 0) && (f.t2 == 0) && (f.tdb == 0) && (f.ev == 0) && (f.t1 == 0)
  | .tset f => zero f.d && immIn 16 63 f.a && isrc true f.b && zero f.c && (f.rm == 0) && (f.t1 == 0) && (f.t2 == 0) && (f.xf == 0)
  | .tget f => dst true f.d && immIn 0 63 f.a && zero f.b && zero f.c && (f.rm == 0) && (f.t1 == 0) && (f.t2 == 0) && (f.xf == 0)
  | .tgetFill f => dst false f.d && zero f.a && zero f.b && zero f.c && (f.rm == 1) && (f.t1 == 0) && (f.t2 == 0) && (f.xf == 0)
  | .tgetFillc f => dst false f.d && zero f.a && zero f.b && zero f.c && (f.rm == 2) && (f.t1 == 0) && (f.t2 == 0) && (f.xf == 0)
  | .barv f => zero f.d && bar f.a && zero f.b && zero f.c && (f.rm == 0) && (f.t1 == 0) && (f.t2 == 0) && (f.xf == 0)
  | .barvB f => zero f.d && bar f.a && isrc false f.b && zero f.c && (f.rm == 0) && (f.t1 == 0) && (f.t2 == 0) && (f.xf == 0)
  | .barw f => zero f.d && bar f.a && zero f.b && zero f.c && (f.rm == 0) && (f.t1 == 0) && (f.t2 == 0) && (f.xf == 0)
  | .barvw f => zero f.d && bar f.a && zero f.b && zero f.c && (f.rm == 0) && (f.t1 == 0) && (f.t2 == 0) && (f.xf == 0)
  | .barx f => zero f.d && bar f.a && zero f.b && zero f.c && (f.rm == 0) && (f.t1 == 0) && (f.t2 == 0) && (f.xf == 0)
  | .bars f => dst true f.d && bar f.a && zero f.b && zero f.c && (f.rm == 0) && (f.t1 == 0) && (f.t2 == 0) && (f.xf == 0)
  | .barsClr f => dst true f.d && bar f.a && zero f.b && zero f.c && (f.rm == 1) && (f.t1 == 0) && (f.t2 == 0) && (f.xf == 0)
  | .barsB f => dst true f.d && bar f.a && zero f.b && zero f.c && (f.rm == 2) && (f.t1 == 0) && (f.t2 == 0) && (f.xf == 0)
  | .cbarA f => dst false f.d && isrc false f.a && zero f.b && zero f.c && (f.rm == 0) && (f.t1 == 0) && (f.t2 == 0) && (f.xf == 0)
  | .cbarW f => dst false f.d && isrc false f.a && isrc false f.b && zero f.c && (f.rm == 0) && (f.t1 == 0) && (f.t2 == 0) && (f.xf == 0)
  | .cbarAw f => dst false f.d && isrc false f.a && zero f.b && zero f.c && (f.rm == 0) && (f.t1 == 0) && (f.t2 == 0) && (f.xf == 0)
  | .dbarA f => dst false f.d && isrc false f.a && zero f.b && zero f.c && (f.rm == 0) && (f.t1 == 0) && (f.t2 == 0) && (f.xf == 0)
  | .dbarW f => dst false f.d && isrc false f.a && isrc false f.b && zero f.c && (f.rm == 0) && (f.t1 == 0) && (f.t2 == 0) && (f.xf == 0)
  | .dbarAw f => dst false f.d && isrc false f.a && zero f.b && zero f.c && (f.rm == 0) && (f.t1 == 0) && (f.t2 == 0) && (f.xf == 0)
  | .pbarA f => dst false f.d && isrc false f.a && zero f.b && zero f.c && (f.rm == 0) && (f.t1 == 0) && (f.t2 == 0) && (f.xf == 0)
  | .pbarW f => dst false f.d && isrc false f.a && isrc false f.b && zero f.c && (f.rm == 0) && (f.t1 == 0) && (f.t2 == 0) && (f.xf == 0)
  | .pbarAw f => dst false f.d && isrc false f.a && zero f.b && zero f.c && (f.rm == 0) && (f.t1 == 0) && (f.t2 == 0) && (f.xf == 0)
  | .qinit f => isrc true f.d && base true f.a && isrc false f.b && (f.t1 == 9) && (f.sc == 0)
  | .qpush f => let w := tyWide f.t1; dst w f.d && base true f.a && pred f.b && (bitTy f.t1) && (f.sc == 0)
  | .qpop f => let w := tyWide f.t1; dst w f.d && base true f.a && pred f.b && (bitTy f.t1) && (f.sc == 0)
  | .qtpush f => let w := tyWide f.t1; dst w f.d && base true f.a && pred f.b && (bitTy f.t1) && (f.sc == 0)
  | .qtpop f => let w := tyWide f.t1; dst w f.d && base true f.a && pred f.b && (bitTy f.t1) && (f.sc == 0)
  | .qpeek f => let w := tyWide f.t1; dst w f.d && base true f.a && pred f.b && (bitTy f.t1) && (f.sc == 0)
  | .qstat f => dst true f.d && base true f.a && zero f.b && (f.t1 == 9) && (f.sc == 0)
  | .qclose f => zero f.d && base true f.a && zero f.b && (f.t1 == 8) && (f.sc == 0)
  | .qdrain f => zero f.d && base true f.a && zero f.b && (f.t1 == 8) && (f.sc == 0)
  | .launch f => dst false f.d && base true f.a && isrc false f.b && (f.t1 == 0) && (f.sc == 0)
  | .spawn f => dst false f.d && base true f.a && isrc false f.b && (f.t1 == 0) && (f.sc == 0)
  | .spawnr f => dst false f.d && base true f.a && isrc false f.b && (f.t1 == 0) && (f.sc == 0)
  | .jdec f => dst false f.d && base true f.a && isrc false f.b && (f.t1 == 0) && (f.sc == 0)
  | .lquery f => dst true f.d && isrc false f.a && immIn 0 3 f.b && zero f.c && (f.rm == 0) && (f.t1 == 0) && (f.t2 == 0) && (f.xf == 0)
  | .xsel f => dst true f.d && isrc false f.a && isrc true f.b && zero f.c && (f.rm == 0) && (f.t1 == 0) && (f.t2 == 0) && (f.xf == 0)
  | .xdisp f => isrc false f.d && kUpTo 60 f.a && (if f.ev == 1 then bar f.b else zero f.b) && (f.ks == 0) && (f.acc == 0) && (f.t2 == 0) && (f.ev.toNat ≤ 1) && (f.t1 == 0)
  | .xcurRd f => zero f.d && isrc false f.a && zero f.b && zero f.c && (f.rm == 0) && (f.t1 == 0) && (f.t2 == 0) && (f.xf == 0)
  | .xcurWr f => zero f.d && isrc false f.a && zero f.b && zero f.c && (f.rm == 0) && (f.t1 == 0) && (f.t2 == 0) && (f.xf == 0)
  | .xhist f => base true f.d && base true f.a && isrc false f.b && (f.t1 == 6) && (f.sc == 0)
  | .regrp f => dst false f.d && isrc false f.a && zero f.b && zero f.c && (f.rm == 0) && (f.t1 == 0) && (f.t2 == 0) && (f.xf == 0)
  | .wwait f => let w := tyWide f.t1; dst false f.d && base true f.a && isrc w f.b && (bitTy f.t1) && (f.sc == 0)
  | .wwake f => dst false f.d && base true f.a && isrc false f.b && (f.t1 == 8) && (f.sc == 0)
  | .rmtOpen f => pred f.d && vec false f.a && zero f.b && zero f.c && (f.rm == 0) && (f.t1 == 0) && (f.t2 == 0) && (f.xf == 0)
  | .rmtCommit f => zero f.d && zero f.a && zero f.b && zero f.c && (f.rm == 0) && (f.t1 == 0) && (f.t2 == 0) && (f.xf == 0)
  | .rmtAbort f => zero f.d && zero f.a && zero f.b && zero f.c && (f.rm == 0) && (f.t1 == 0) && (f.t2 == 0) && (f.xf == 0)
  | .sysrd f => dst true f.d && zero f.a && zero f.b && zero f.c && (f.rm == 0) && (f.t1 == 0) && (f.t2 == 0) && (sysRegOk f.xf)
  | .syswr f => zero f.d && isrc true f.a && zero f.b && zero f.c && (f.rm == 0) && (f.t1 == 0) && (f.t2 == 0) && (sysRegOk f.xf)
  | .fcancel f => dst false f.d && isrc true f.a && isrc false f.b && isrc false f.c && (f.rm == 0) && (f.t1 == 0) && (f.t2 == 0) && (f.xf == 0)
  | .ctxsave f => dst false f.d && base true f.a && isrc false f.b && (f.t1 == 9) && (f.sc == 0)
  | .ctxload f => dst false f.d && base true f.a && zero f.b && (f.t1 == 9) && (f.sc == 0)
  | .dbgrd f => dst true f.d && isrc false f.a && isrc false f.b && zero f.c && (f.rm == 0) && (f.t1 == 0) && (f.t2 == 0) && (f.xf == 0)
  | .unassignedOpcode w => opUnassigned (w.extractLsb' 0 8).toNat
  | .bosterReservedWord w => bosterReserved w
  | _ => true

end Sys2Proof
end

