-- ==== Sys2Proof/Decode.lean ====
section
/-!
DEFINITION. The decoder and the encoder of instruction words (R40-R51, R64, R65) and of Boster words (R420, R421). The opcode map is a
list of rows. Decoding refuses by name: an unlisted SUB, or a field that check 4 of R68 finds reserved.
-/
namespace Sys2Proof

/-- Why a word is no instruction: an assigned OP with a SUB its row does not list (R64), or a reserved field (R43, R47, R48). -/
inductive Reject where
  | illegalSub
  | reservedField
  deriving DecidableEq, Repr

/-- The special values at operand indices 64 to 89 (R42, R104). -/
def SpecialValue.ofIndex (i : Nat) : Option SpecialValue :=
  match i with
  | 64 => some .fid | 65 => some .lane | 66 => some .team | 67 => some .role | 68 => some .core | 69 => some .clus | 70 => some .die
  | 71 => some .pkg | 72 => some (.lvidx 0) | 73 => some (.lvidx 1) | 74 => some (.lvidx 2) | 75 => some (.lvidx 3)
  | 76 => some (.lvidx 4) | 77 => some (.lvidx 5) | 78 => some (.lvidx 6) | 79 => some (.lvidx 7) | 80 => some .cycles
  | 81 => some .gmask | 82 => some .win | 83 => some .rc | 84 => some .nfib | 85 => some .ctx | 86 => some .world
  | 87 => some .srstep | 88 => some .spad | 89 => some .spsz
  | _ => none

def SpecialValue.index : SpecialValue → Nat
  | .fid => 64 | .lane => 65 | .team => 66 | .role => 67 | .core => 68 | .clus => 69 | .die => 70 | .pkg => 71
  | .lvidx n => 72 + n.toNat | .cycles => 80 | .gmask => 81 | .win => 82 | .rc => 83 | .nfib => 84 | .ctx => 85 | .world => 86
  | .srstep => 87 | .spad => 88 | .spsz => 89

/-- An operand field of 10 bits (R41); none for a reserved kind or index. -/
def Operand.ofField (x : BitVec 10) : Option Operand :=
  let i := x.extractLsb' 0 8
  match (x.extractLsb' 8 2).toNat with
  | 0 => some (.v i)
  | 1 => if i.toNat < 64 then some (.k (i.extractLsb' 0 6)) else (SpecialValue.ofIndex i.toNat).map .sv
  | 2 => some (.imm i)
  | _ => if i.toNat < 16 then some (.p (i.extractLsb' 0 4)) else if i.toNat < 32 then some (.b (i.extractLsb' 0 4)) else none

def Operand.toField : Operand → BitVec 10
  | .v i => 0#2 ++ i
  | .k i => 1#2 ++ 0#2 ++ i
  | .sv s => 1#2 ++ BitVec.ofNat 8 s.index
  | .imm i => 2#2 ++ i
  | .p i => 3#2 ++ 0#4 ++ i
  | .b i => 3#2 ++ 1#4 ++ i

/-- The fields of a word that every format places alike (R40). -/
def Hints.ofWord (w : IWord) : Hints where
  g := w.extractLsb' 12 4
  gn := w.getLsbD 16
  s := w.extractLsb' 88 4
  y := w.getLsbD 92
  w := w.getLsbD 93

/-- The 96 bits of R40 from their fields, `rsv` 0. -/
def packWord (h : Hints) (m : BitVec 9) (x : BitVec 32) (b a d : Operand) (sub : Nat) (op : Nat) : IWord :=
  0#2 ++ BitVec.ofBool h.w ++ BitVec.ofBool h.y ++ h.s ++ m ++ x ++ b.toField ++ a.toField ++ d.toField ++ BitVec.ofBool h.gn ++ h.g ++
    BitVec.ofNat 4 sub ++ BitVec.ofNat 8 op

def fieldD (w : IWord) : Option Operand := Operand.ofField (w.extractLsb' 17 10)
def fieldA (w : IWord) : Option Operand := Operand.ofField (w.extractLsb' 27 10)
def fieldB (w : IWord) : Option Operand := Operand.ofField (w.extractLsb' 37 10)
def fieldC (w : IWord) : Option Operand := Operand.ofField (w.extractLsb' 47 10)
def fieldX (w : IWord) : BitVec 32 := w.extractLsb' 47 32
def fieldM (w : IWord) : BitVec 9 := w.extractLsb' 79 9

def FR.ofWord (w : IWord) : Option FR :=
  match fieldD w, fieldA w, fieldB w, fieldC w with
  | some d, some a, some b, some c =>
    some ⟨Hints.ofWord w, d, a, b, c, (fieldX w).extractLsb' 16 16, (fieldX w).extractLsb' 10 6, (fieldM w).extractLsb' 6 3,
      (fieldM w).extractLsb' 0 6⟩
  | _, _, _, _ => none

def FR.toWord (f : FR) (op sub : Nat) : IWord :=
  packWord f.h (f.rm ++ f.t1) (f.xf ++ f.t2 ++ f.c.toField) f.b f.a f.d sub op

def FI.ofWord (w : IWord) : Option FI :=
  match fieldD w, fieldA w, fieldB w with
  | some d, some a, some b =>
    some ⟨Hints.ofWord w, d, a, b, fieldX w, (fieldM w).extractLsb' 6 3, (fieldM w).extractLsb' 0 6⟩
  | _, _, _ => none

def FI.toWord (f : FI) (op sub : Nat) : IWord := packWord f.h (f.rm ++ f.t1) f.imm f.b f.a f.d sub op

def FM.ofWord (w : IWord) : Option FM :=
  match fieldD w, fieldA w, fieldB w with
  | some d, some a, some b =>
    some ⟨Hints.ofWord w, d, a, b, fieldX w, (fieldM w).extractLsb' 6 3, (fieldM w).extractLsb' 0 6⟩
  | _, _, _ => none

def FM.toWord (f : FM) (op sub : Nat) : IWord := packWord f.h (f.sc ++ f.t1) f.off f.b f.a f.d sub op

def FE.ofWord (w : IWord) : Option FE :=
  match fieldD w, fieldA w, fieldB w with
  | some d, some a, some b =>
    let x := fieldX w
    some ⟨Hints.ofWord w, d, a, b, x.extractLsb' 25 7, x.extractLsb' 22 3, x.extractLsb' 16 6, x.extractLsb' 8 8, x.extractLsb' 0 8,
      (fieldM w).extractLsb' 6 3, (fieldM w).extractLsb' 0 6⟩
  | _, _, _ => none

def FE.toWord (f : FE) (op sub : Nat) : IWord :=
  packWord f.h (f.ev ++ f.t1) (f.ks ++ f.acc ++ f.t2 ++ f.tdb ++ f.tda) f.b f.a f.d sub op

def FC.ofWord (w : IWord) : Option FC :=
  match fieldD w, fieldA w, fieldB w with
  | some d, some a, some b => some ⟨Hints.ofWord w, d, a, b, fieldX w, fieldM w⟩
  | _, _, _ => none

def FC.toWord (f : FC) (op sub : Nat) : IWord := packWord f.h f.cm f.off f.b f.a f.d sub op

def FP.ofWord (w : IWord) : Option FP :=
  match fieldD w, fieldA w, fieldB w with
  | some d, some a, some b =>
    let x := fieldX w
    some ⟨Hints.ofWord w, d, a, b, x.extractLsb' 24 8, x.extractLsb' 16 8, x.extractLsb' 8 8, x.extractLsb' 0 8, fieldM w⟩
  | _, _, _ => none

def FP.toWord (f : FP) (op sub : Nat) : IWord :=
  packWord f.h f.m (f.cstr ++ f.bstr ++ f.astr ++ f.dstr) f.b f.a f.d sub op

def RedOp.code : RedOp → Nat
  | .add => 0 | .min => 1 | .max => 2 | .and => 3 | .or => 4 | .xor => 5

def AtomOp.code : AtomOp → Nat
  | .add => 0 | .min => 1 | .max => 2 | .and => 3 | .or => 4 | .xor => 5 | .exch => 6 | .cas => 7 | .fadd => 8

def CpyOp.code : CpyOp → Nat
  | .add => 0 | .min => 1 | .max => 2

/-- A row of the opcode map: OP, SUB, and the instruction read from the other fields, none where an operand field is reserved. -/
structure Row where
  op : Nat
  sub : Nat
  read : IWord → Option Instr

def rowsInteger : List Row := [
  ⟨0x00, 0, fun w => (FR.ofWord w).map .nop⟩,
  ⟨0x01, 0, fun w => (FR.ofWord w).map .add⟩,
  ⟨0x01, 1, fun w => (FI.ofWord w).map .addI⟩,
  ⟨0x02, 0, fun w => (FR.ofWord w).map .sub⟩,
  ⟨0x02, 1, fun w => (FI.ofWord w).map .subI⟩,
  ⟨0x03, 0, fun w => (FR.ofWord w).map .mul⟩,
  ⟨0x03, 1, fun w => (FI.ofWord w).map .mulI⟩,
  ⟨0x04, 0, fun w => (FR.ofWord w).map .mulhi⟩,
  ⟨0x04, 1, fun w => (FI.ofWord w).map .mulhiI⟩,
  ⟨0x05, 0, fun w => (FR.ofWord w).map .mad⟩,
  ⟨0x06, 0, fun w => (FR.ofWord w).map .madw⟩,
  ⟨0x07, 0, fun w => (FR.ofWord w).map .min⟩,
  ⟨0x07, 1, fun w => (FI.ofWord w).map .minI⟩,
  ⟨0x08, 0, fun w => (FR.ofWord w).map .max⟩,
  ⟨0x08, 1, fun w => (FI.ofWord w).map .maxI⟩,
  ⟨0x09, 0, fun w => (FR.ofWord w).map .abs⟩,
  ⟨0x09, 1, fun w => (FR.ofWord w).map .neg⟩,
  ⟨0x0A, 0, fun w => (FR.ofWord w).map .and⟩,
  ⟨0x0A, 1, fun w => (FI.ofWord w).map .andI⟩,
  ⟨0x0B, 0, fun w => (FR.ofWord w).map .or⟩,
  ⟨0x0B, 1, fun w => (FI.ofWord w).map .orI⟩,
  ⟨0x0C, 0, fun w => (FR.ofWord w).map .xor⟩,
  ⟨0x0C, 1, fun w => (FI.ofWord w).map .xorI⟩,
  ⟨0x0D, 0, fun w => (FR.ofWord w).map .not⟩,
  ⟨0x0E, 0, fun w => (FR.ofWord w).map .shl⟩,
  ⟨0x0E, 1, fun w => (FI.ofWord w).map .shlI⟩,
  ⟨0x0F, 0, fun w => (FR.ofWord w).map .shr⟩,
  ⟨0x0F, 1, fun w => (FI.ofWord w).map .shrI⟩,
  ⟨0x10, 0, fun w => (FR.ofWord w).map .sar⟩,
  ⟨0x10, 1, fun w => (FI.ofWord w).map .sarI⟩,
  ⟨0x11, 0, fun w => (FR.ofWord w).map .rot⟩,
  ⟨0x11, 1, fun w => (FI.ofWord w).map .rotI⟩,
  ⟨0x12, 0, fun w => (FR.ofWord w).map .clz⟩,
  ⟨0x12, 1, fun w => (FR.ofWord w).map .popc⟩,
  ⟨0x12, 2, fun w => (FR.ofWord w).map .brev⟩,
  ⟨0x13, 0, fun w => (FR.ofWord w).map .bfx⟩,
  ⟨0x14, 0, fun w => (FR.ofWord w).map .bfi⟩,
  ⟨0x15, 0, fun w => (FR.ofWord w).map .sel⟩,
  ⟨0x16, 0, fun w => (FR.ofWord w).map .cmp⟩,
  ⟨0x16, 1, fun w => (FI.ofWord w).map .cmpI⟩,
  ⟨0x17, 0, fun w => (FR.ofWord w).map .lea⟩,
  ⟨0x17, 1, fun w => (FI.ofWord w).map .leaI⟩,
  ⟨0x18, 0, fun w => (FR.ofWord w).map .mov⟩,
  ⟨0x19, 0, fun w => (FR.ofWord w).map .movk⟩,
  ⟨0x1A, 0, fun w => (FI.ofWord w).map fun f => if f.rm == 1 then .ldiHi f else .ldi f⟩,
  ⟨0x1B, 0, fun w => (FR.ofWord w).map .gets⟩,
  ⟨0x1C, 0, fun w => (FR.ofWord w).map .pand⟩,
  ⟨0x1C, 1, fun w => (FR.ofWord w).map .por⟩,
  ⟨0x1C, 2, fun w => (FR.ofWord w).map .pxor⟩,
  ⟨0x1C, 3, fun w => (FR.ofWord w).map .pnot⟩,
  ⟨0x1C, 4, fun w => (FR.ofWord w).map fun f => if f.xf == 1 then (if Wf.p0 f.d then .pmovWWrite f else .pmovWRead f) else .pmov f⟩]

def rowsFloat : List Row := [
  ⟨0x20, 0, fun w => (FR.ofWord w).map .fadd⟩,
  ⟨0x20, 1, fun w => (FR.ofWord w).map .faddPk⟩,
  ⟨0x21, 0, fun w => (FR.ofWord w).map .fsub⟩,
  ⟨0x21, 1, fun w => (FR.ofWord w).map .fsubPk⟩,
  ⟨0x22, 0, fun w => (FR.ofWord w).map .fmul⟩,
  ⟨0x22, 1, fun w => (FR.ofWord w).map .fmulPk⟩,
  ⟨0x23, 0, fun w => (FR.ofWord w).map .ffma⟩,
  ⟨0x23, 1, fun w => (FR.ofWord w).map .ffmaPk⟩,
  ⟨0x24, 0, fun w => (FR.ofWord w).map .fmin⟩,
  ⟨0x24, 1, fun w => (FR.ofWord w).map .fminPk⟩,
  ⟨0x25, 0, fun w => (FR.ofWord w).map .fmax⟩,
  ⟨0x25, 1, fun w => (FR.ofWord w).map .fmaxPk⟩,
  ⟨0x26, 0, fun w => (FR.ofWord w).map .fcmp⟩,
  ⟨0x27, 0, fun w => (FR.ofWord w).map .frcp⟩,
  ⟨0x27, 1, fun w => (FR.ofWord w).map .frcpPk⟩,
  ⟨0x28, 0, fun w => (FR.ofWord w).map .frsq⟩,
  ⟨0x28, 1, fun w => (FR.ofWord w).map .frsqPk⟩,
  ⟨0x29, 0, fun w => (FR.ofWord w).map .fsqrt⟩,
  ⟨0x29, 1, fun w => (FR.ofWord w).map .fsqrtPk⟩,
  ⟨0x2A, 0, fun w => (FR.ofWord w).map .fexp2⟩,
  ⟨0x2A, 1, fun w => (FR.ofWord w).map .fexp2Pk⟩,
  ⟨0x2B, 0, fun w => (FR.ofWord w).map .flog2⟩,
  ⟨0x2B, 1, fun w => (FR.ofWord w).map .flog2Pk⟩,
  ⟨0x2C, 0, fun w => (FR.ofWord w).map .fsin⟩,
  ⟨0x2C, 1, fun w => (FR.ofWord w).map .fsinPk⟩,
  ⟨0x2D, 0, fun w => (FR.ofWord w).map .fcos⟩,
  ⟨0x2D, 1, fun w => (FR.ofWord w).map .fcosPk⟩,
  ⟨0x2E, 0, fun w => (FR.ofWord w).map .ftanh⟩,
  ⟨0x2E, 1, fun w => (FR.ofWord w).map .ftanhPk⟩,
  ⟨0x2F, 0, fun w => (FR.ofWord w).map .frnd⟩,
  ⟨0x2F, 1, fun w => (FR.ofWord w).map .frndPk⟩]

def rowsConvert : List Row := [
  ⟨0x40, 0, fun w => (FR.ofWord w).map .cvt⟩,
  ⟨0x40, 1, fun w => (FR.ofWord w).map .cvtPk⟩,
  ⟨0x41, 0, fun w => (FR.ofWord w).map .cvti⟩,
  ⟨0x42, 0, fun w => (FR.ofWord w).map .pk⟩,
  ⟨0x43, 0, fun w => (FR.ofWord w).map .upk⟩,
  ⟨0x44, 0, fun w => (FR.ofWord w).map .sclq⟩,
  ⟨0x45, 0, fun w => (FR.ofWord w).map fun f => if f.rm == 1 then .sclgetClr f else .sclget f⟩,
  ⟨0x46, 0, fun w => (FR.ofWord w).map .crng⟩]

def rowsLane : List Row := [
  ⟨0x50, 0, fun w => (FR.ofWord w).map .shflPick⟩,
  ⟨0x50, 1, fun w => (FR.ofWord w).map .shflShift⟩,
  ⟨0x50, 2, fun w => (FR.ofWord w).map .shflRot⟩,
  ⟨0x50, 3, fun w => (FR.ofWord w).map .shflMir⟩,
  ⟨0x51, 0, fun w => (FR.ofWord w).map .voteEvery⟩,
  ⟨0x51, 1, fun w => (FR.ofWord w).map .voteSome⟩,
  ⟨0x51, 2, fun w => (FR.ofWord w).map .voteMask⟩,
  ⟨0x51, 3, fun w => (FR.ofWord w).map .voteCount⟩,
  ⟨0x52, 0, fun w => (FR.ofWord w).map (.redux .add)⟩,
  ⟨0x52, 1, fun w => (FR.ofWord w).map (.redux .min)⟩,
  ⟨0x52, 2, fun w => (FR.ofWord w).map (.redux .max)⟩,
  ⟨0x52, 3, fun w => (FR.ofWord w).map (.redux .and)⟩,
  ⟨0x52, 4, fun w => (FR.ofWord w).map (.redux .or)⟩,
  ⟨0x52, 5, fun w => (FR.ofWord w).map (.redux .xor)⟩,
  ⟨0x53, 0, fun w => (FR.ofWord w).map (.scan .add)⟩,
  ⟨0x53, 1, fun w => (FR.ofWord w).map (.scan .min)⟩,
  ⟨0x53, 2, fun w => (FR.ofWord w).map (.scan .max)⟩,
  ⟨0x53, 3, fun w => (FR.ofWord w).map (.scan .and)⟩,
  ⟨0x53, 4, fun w => (FR.ofWord w).map (.scan .or)⟩,
  ⟨0x53, 5, fun w => (FR.ofWord w).map (.scan .xor)⟩,
  ⟨0x53, 8, fun w => (FR.ofWord w).map (.scanEx .add)⟩,
  ⟨0x53, 9, fun w => (FR.ofWord w).map (.scanEx .min)⟩,
  ⟨0x53, 10, fun w => (FR.ofWord w).map (.scanEx .max)⟩,
  ⟨0x53, 11, fun w => (FR.ofWord w).map (.scanEx .and)⟩,
  ⟨0x53, 12, fun w => (FR.ofWord w).map (.scanEx .or)⟩,
  ⟨0x53, 13, fun w => (FR.ofWord w).map (.scanEx .xor)⟩,
  ⟨0x54, 0, fun w => (FR.ofWord w).map .matchPeers⟩,
  ⟨0x54, 1, fun w => (FR.ofWord w).map .matchFirst⟩,
  ⟨0x54, 2, fun w => (FR.ofWord w).map .matchSame⟩,
  ⟨0x55, 0, fun w => (FR.ofWord w).map .lsync⟩]

def rowsControl : List Row := [
  ⟨0x60, 0, fun w => (FC.ofWord w).map .bra⟩,
  ⟨0x61, 0, fun w => (FR.ofWord w).map .brx⟩,
  ⟨0x62, 0, fun w => (FC.ofWord w).map .call⟩,
  ⟨0x63, 0, fun w => (FR.ofWord w).map .calli⟩,
  ⟨0x64, 0, fun w => (FR.ofWord w).map .ret⟩,
  ⟨0x64, 1, fun w => (FR.ofWord w).map .retTrap⟩,
  ⟨0x65, 0, fun w => (FC.ofWord w).map .fork⟩,
  ⟨0x66, 0, fun w => (FR.ofWord w).map .exit⟩,
  ⟨0x67, 0, fun w => (FR.ofWord w).map .yield⟩,
  ⟨0x68, 0, fun w => (FI.ofWord w).map .trap⟩,
  ⟨0x69, 0, fun w => (FI.ofWord w).map .brk⟩,
  ⟨0x6F, 0, fun w => (FP.ofWord w).map .rep⟩]

def rowsMemory : List Row := [
  ⟨0x70, 0, fun w => (FM.ofWord w).map .ld⟩,
  ⟨0x70, 1, fun w => (FM.ofWord w).map .ldAcq⟩,
  ⟨0x71, 0, fun w => (FM.ofWord w).map .st⟩,
  ⟨0x71, 1, fun w => (FM.ofWord w).map .stRel⟩,
  ⟨0x72, 0, fun w => (FM.ofWord w).map .lds⟩,
  ⟨0x73, 0, fun w => (FM.ofWord w).map .sts⟩,
  ⟨0x74, 0, fun w => (FM.ofWord w).map .ldx⟩,
  ⟨0x75, 0, fun w => (FM.ofWord w).map .stx⟩,
  ⟨0x76, 0, fun w => (FM.ofWord w).map .prfL1⟩,
  ⟨0x76, 1, fun w => (FM.ofWord w).map .prfL2⟩,
  ⟨0x77, 0, fun w => (FM.ofWord w).map .flushWb⟩,
  ⟨0x77, 1, fun w => (FM.ofWord w).map .flushInv⟩,
  ⟨0x78, 0, fun w => (FR.ofWord w).map .fenceAcq⟩,
  ⟨0x78, 1, fun w => (FR.ofWord w).map .fenceRel⟩,
  ⟨0x78, 2, fun w => (FR.ofWord w).map .fenceAr⟩,
  ⟨0x79, 0, fun w => (FR.ofWord w).map .carve⟩,
  ⟨0x7A, 0, fun w => (FM.ofWord w).map .tlbq⟩]

def rowsAtomic : List Row := [
  ⟨0x80, 0, fun w => (FM.ofWord w).map (.atom .add)⟩,
  ⟨0x80, 1, fun w => (FM.ofWord w).map (.atom .min)⟩,
  ⟨0x80, 2, fun w => (FM.ofWord w).map (.atom .max)⟩,
  ⟨0x80, 3, fun w => (FM.ofWord w).map (.atom .and)⟩,
  ⟨0x80, 4, fun w => (FM.ofWord w).map (.atom .or)⟩,
  ⟨0x80, 5, fun w => (FM.ofWord w).map (.atom .xor)⟩,
  ⟨0x80, 6, fun w => (FM.ofWord w).map (.atom .exch)⟩,
  ⟨0x80, 7, fun w => (FM.ofWord w).map (.atom .cas)⟩,
  ⟨0x80, 8, fun w => (FM.ofWord w).map (.atom .fadd)⟩,
  ⟨0x81, 0, fun w => (FM.ofWord w).map (.atomAcq .add)⟩,
  ⟨0x81, 1, fun w => (FM.ofWord w).map (.atomAcq .min)⟩,
  ⟨0x81, 2, fun w => (FM.ofWord w).map (.atomAcq .max)⟩,
  ⟨0x81, 3, fun w => (FM.ofWord w).map (.atomAcq .and)⟩,
  ⟨0x81, 4, fun w => (FM.ofWord w).map (.atomAcq .or)⟩,
  ⟨0x81, 5, fun w => (FM.ofWord w).map (.atomAcq .xor)⟩,
  ⟨0x81, 6, fun w => (FM.ofWord w).map (.atomAcq .exch)⟩,
  ⟨0x81, 7, fun w => (FM.ofWord w).map (.atomAcq .cas)⟩,
  ⟨0x81, 8, fun w => (FM.ofWord w).map (.atomAcq .fadd)⟩,
  ⟨0x82, 0, fun w => (FM.ofWord w).map (.atomRel .add)⟩,
  ⟨0x82, 1, fun w => (FM.ofWord w).map (.atomRel .min)⟩,
  ⟨0x82, 2, fun w => (FM.ofWord w).map (.atomRel .max)⟩,
  ⟨0x82, 3, fun w => (FM.ofWord w).map (.atomRel .and)⟩,
  ⟨0x82, 4, fun w => (FM.ofWord w).map (.atomRel .or)⟩,
  ⟨0x82, 5, fun w => (FM.ofWord w).map (.atomRel .xor)⟩,
  ⟨0x82, 6, fun w => (FM.ofWord w).map (.atomRel .exch)⟩,
  ⟨0x82, 7, fun w => (FM.ofWord w).map (.atomRel .cas)⟩,
  ⟨0x82, 8, fun w => (FM.ofWord w).map (.atomRel .fadd)⟩,
  ⟨0x83, 0, fun w => (FM.ofWord w).map (.atomAr .add)⟩,
  ⟨0x83, 1, fun w => (FM.ofWord w).map (.atomAr .min)⟩,
  ⟨0x83, 2, fun w => (FM.ofWord w).map (.atomAr .max)⟩,
  ⟨0x83, 3, fun w => (FM.ofWord w).map (.atomAr .and)⟩,
  ⟨0x83, 4, fun w => (FM.ofWord w).map (.atomAr .or)⟩,
  ⟨0x83, 5, fun w => (FM.ofWord w).map (.atomAr .xor)⟩,
  ⟨0x83, 6, fun w => (FM.ofWord w).map (.atomAr .exch)⟩,
  ⟨0x83, 7, fun w => (FM.ofWord w).map (.atomAr .cas)⟩,
  ⟨0x83, 8, fun w => (FM.ofWord w).map (.atomAr .fadd)⟩,
  ⟨0x84, 0, fun w => (FM.ofWord w).map (.red .add)⟩,
  ⟨0x84, 1, fun w => (FM.ofWord w).map (.red .min)⟩,
  ⟨0x84, 2, fun w => (FM.ofWord w).map (.red .max)⟩,
  ⟨0x84, 3, fun w => (FM.ofWord w).map (.red .and)⟩,
  ⟨0x84, 4, fun w => (FM.ofWord w).map (.red .or)⟩,
  ⟨0x84, 5, fun w => (FM.ofWord w).map (.red .xor)⟩,
  ⟨0x84, 8, fun w => (FM.ofWord w).map (.red .fadd)⟩,
  ⟨0x85, 0, fun w => (FM.ofWord w).map (.redRel .add)⟩,
  ⟨0x85, 1, fun w => (FM.ofWord w).map (.redRel .min)⟩,
  ⟨0x85, 2, fun w => (FM.ofWord w).map (.redRel .max)⟩,
  ⟨0x85, 3, fun w => (FM.ofWord w).map (.redRel .and)⟩,
  ⟨0x85, 4, fun w => (FM.ofWord w).map (.redRel .or)⟩,
  ⟨0x85, 5, fun w => (FM.ofWord w).map (.redRel .xor)⟩,
  ⟨0x85, 8, fun w => (FM.ofWord w).map (.redRel .fadd)⟩]

def rowsEngine : List Row := [
  ⟨0x90, 0, fun w => (FE.ofWord w).map .mxzero⟩,
  ⟨0x91, 0, fun w => (FE.ofWord w).map .mxloop⟩,
  ⟨0x91, 1, fun w => (FE.ofWord w).map .mxloopG⟩,
  ⟨0x92, 0, fun w => (FE.ofWord w).map .mxwait⟩,
  ⟨0x93, 0, fun w => (FE.ofWord w).map .mxdrain⟩,
  ⟨0x93, 1, fun w => (FE.ofWord w).map .mxdrainQ⟩,
  ⟨0x94, 0, fun w => (FE.ofWord w).map .gxrows⟩,
  ⟨0xA0, 0, fun w => (FE.ofWord w).map .cpyLd⟩,
  ⟨0xA0, 1, fun w => (FE.ofWord w).map .cpyLdNf⟩,
  ⟨0xA1, 0, fun w => (FE.ofWord w).map .cpySt⟩,
  ⟨0xA2, 0, fun w => (FE.ofWord w).map (.cpyRed .add)⟩,
  ⟨0xA2, 1, fun w => (FE.ofWord w).map (.cpyRed .min)⟩,
  ⟨0xA2, 2, fun w => (FE.ofWord w).map (.cpyRed .max)⟩,
  ⟨0xA3, 0, fun w => (FE.ofWord w).map .cpyMc⟩,
  ⟨0xA3, 1, fun w => (FE.ofWord w).map .cpyMcNf⟩,
  ⟨0xA4, 0, fun w => (FE.ofWord w).map .cpyPf⟩,
  ⟨0xA5, 0, fun w => (FR.ofWord w).map fun f => if f.rm == 1 then .eqfenceW f else .eqfence f⟩,
  ⟨0xA6, 0, fun w => (FE.ofWord w).map .tdset⟩,
  ⟨0xA7, 0, fun w => (FE.ofWord w).map .tdget⟩,
  ⟨0xA8, 0, fun w => (FR.ofWord w).map .tset⟩,
  ⟨0xA9, 0, fun w => (FR.ofWord w).map fun f => if f.rm == 1 then .tgetFill f else if f.rm == 2 then .tgetFillc f else .tget f⟩]

def rowsBarrier : List Row := [
  ⟨0xB0, 0, fun w => (FR.ofWord w).map .barv⟩,
  ⟨0xB0, 1, fun w => (FR.ofWord w).map .barvB⟩,
  ⟨0xB1, 0, fun w => (FR.ofWord w).map .barw⟩,
  ⟨0xB2, 0, fun w => (FR.ofWord w).map .barvw⟩,
  ⟨0xB3, 0, fun w => (FR.ofWord w).map .barx⟩,
  ⟨0xB4, 0, fun w => (FR.ofWord w).map fun f => if f.rm == 1 then .barsClr f else if f.rm == 2 then .barsB f else .bars f⟩,
  ⟨0xB5, 0, fun w => (FR.ofWord w).map .cbarA⟩,
  ⟨0xB5, 1, fun w => (FR.ofWord w).map .cbarW⟩,
  ⟨0xB5, 2, fun w => (FR.ofWord w).map .cbarAw⟩,
  ⟨0xB6, 0, fun w => (FR.ofWord w).map .dbarA⟩,
  ⟨0xB6, 1, fun w => (FR.ofWord w).map .dbarW⟩,
  ⟨0xB6, 2, fun w => (FR.ofWord w).map .dbarAw⟩,
  ⟨0xB7, 0, fun w => (FR.ofWord w).map .pbarA⟩,
  ⟨0xB7, 1, fun w => (FR.ofWord w).map .pbarW⟩,
  ⟨0xB7, 2, fun w => (FR.ofWord w).map .pbarAw⟩]

def rowsQueue : List Row := [
  ⟨0xC0, 0, fun w => (FM.ofWord w).map .qinit⟩,
  ⟨0xC1, 0, fun w => (FM.ofWord w).map .qpush⟩,
  ⟨0xC2, 0, fun w => (FM.ofWord w).map .qpop⟩,
  ⟨0xC3, 0, fun w => (FM.ofWord w).map .qtpush⟩,
  ⟨0xC4, 0, fun w => (FM.ofWord w).map .qtpop⟩,
  ⟨0xC5, 0, fun w => (FM.ofWord w).map .qpeek⟩,
  ⟨0xC6, 0, fun w => (FM.ofWord w).map .qstat⟩,
  ⟨0xC7, 0, fun w => (FM.ofWord w).map .qclose⟩,
  ⟨0xC8, 0, fun w => (FM.ofWord w).map .qdrain⟩]

def rowsScheduler : List Row := [
  ⟨0xD0, 0, fun w => (FM.ofWord w).map .spawn⟩,
  ⟨0xD1, 0, fun w => (FM.ofWord w).map .spawnr⟩,
  ⟨0xD2, 0, fun w => (FM.ofWord w).map .jdec⟩,
  ⟨0xD3, 0, fun w => (FM.ofWord w).map .launch⟩,
  ⟨0xD4, 0, fun w => (FR.ofWord w).map .lquery⟩,
  ⟨0xE0, 0, fun w => (FR.ofWord w).map .xsel⟩,
  ⟨0xE1, 0, fun w => (FE.ofWord w).map .xdisp⟩,
  ⟨0xE2, 0, fun w => (FR.ofWord w).map .xcurRd⟩,
  ⟨0xE2, 1, fun w => (FR.ofWord w).map .xcurWr⟩,
  ⟨0xE3, 0, fun w => (FM.ofWord w).map .xhist⟩,
  ⟨0xE4, 0, fun w => (FR.ofWord w).map .regrp⟩,
  ⟨0xE5, 0, fun w => (FM.ofWord w).map .wwait⟩,
  ⟨0xE6, 0, fun w => (FM.ofWord w).map .wwake⟩]

def rowsSystem : List Row := [
  ⟨0xF0, 0, fun w => (FR.ofWord w).map .rmtOpen⟩,
  ⟨0xF1, 0, fun w => (FR.ofWord w).map .rmtCommit⟩,
  ⟨0xF2, 0, fun w => (FR.ofWord w).map .rmtAbort⟩,
  ⟨0xF8, 0, fun w => (FR.ofWord w).map .sysrd⟩,
  ⟨0xF9, 0, fun w => (FR.ofWord w).map .syswr⟩,
  ⟨0xFA, 0, fun w => (FR.ofWord w).map .fcancel⟩,
  ⟨0xFB, 0, fun w => (FM.ofWord w).map .ctxsave⟩,
  ⟨0xFC, 0, fun w => (FM.ofWord w).map .ctxload⟩,
  ⟨0xFD, 0, fun w => (FR.ofWord w).map .dbgrd⟩]

/-- The opcode map of R64. -/
def rows : List Row :=
  rowsInteger ++ rowsFloat ++ rowsConvert ++ rowsLane ++ rowsControl ++ rowsMemory ++ rowsAtomic ++ rowsEngine ++ rowsBarrier ++ rowsQueue ++ rowsScheduler ++ rowsSystem

/-- Decode a word (checks 3 and 4 of R68 less privilege): an unassigned OP is the row of R65 whatever its other fields hold. -/
def decode (w : IWord) : Except Reject Instr :=
  let op := (w.extractLsb' 0 8).toNat
  let sub := (w.extractLsb' 8 4).toNat
  if opUnassigned op then .ok (.unassignedOpcode w)
  else match rows.find? (fun r => r.op == op && r.sub == sub) with
    | none => .error .illegalSub
    | some r => match r.read w with
      | none => .error .reservedField
      | some i => if wf i && w.extractLsb' 94 2 == 0 then .ok i else .error .reservedField

/-- Decode a Boster word (R420, R421); a reserved word is the row of R424 `ERR` 1. -/
def decodeBoster (w : BitVec 32) : Instr :=
  let d := w.extractLsb' 22 4
  let a := w.extractLsb' 18 4
  let b := w.extractLsb' 14 4
  let imm := w.extractLsb' 0 14
  if bosterReserved w then .bosterReservedWord w
  else match (w.extractLsb' 26 6).toNat with
    | 0x00 => .bnop
    | 0x01 => .bli d (w.extractLsb' 0 22)
    | 0x02 => .badd d a b
    | 0x03 => .baddi d a imm
    | 0x04 => .band d a b
    | 0x05 => .bshr d a (w.extractLsb' 0 6)
    | 0x06 => .bbeq a b imm
    | 0x07 => .bbne a b imm
    | 0x08 => .bmatch
    | 0x09 => .bfold d
    | 0x0A => if imm == 0 then .bfwdRes else if imm == 1 then .bfwdUp else .bfwdRaw
    | 0x0B => .bmcast
    | 0x0C => .bgath
    | 0x0D => .bcmpl d
    | 0x0E => .bfree
    | 0x0F => .bend
    | _ => .bosterReservedWord w

def packBoster (opc : BitVec 6) (d a b : BitVec 4) (imm : BitVec 14) : BitVec 32 := opc ++ d ++ a ++ b ++ imm

/-- The words of an instruction: 96 bits of a fibre's word, 32 bits of a Boster word, none for a machine event. -/
inductive Words where
  | fibre (w : IWord)
  | boster (w : BitVec 32)
  | none
  deriving DecidableEq, Repr

/-- The Boster word of an instruction of R421. -/
def encodeBoster : Instr → Option (BitVec 32)
  | .bnop => some (packBoster 0x00 0 0 0 0)
  | .bli d i => some (1#6 ++ d ++ i)
  | .badd d a b => some (packBoster 0x02 d a b 0)
  | .baddi d a i => some (packBoster 0x03 d a 0 i)
  | .band d a b => some (packBoster 0x04 d a b 0)
  | .bshr d a n => some (packBoster 0x05 d a 0 (0#8 ++ n))
  | .bbeq a b i => some (packBoster 0x06 0 a b i)
  | .bbne a b i => some (packBoster 0x07 0 a b i)
  | .bmatch => some (packBoster 0x08 0 0 0 0)
  | .bfold d => some (packBoster 0x09 d 0 0 0)
  | .bfwdRes => some (packBoster 0x0A 0 0 0 0)
  | .bfwdUp => some (packBoster 0x0A 0 0 0 1)
  | .bfwdRaw => some (packBoster 0x0A 0 0 0 2)
  | .bmcast => some (packBoster 0x0B 0 0 0 0)
  | .bgath => some (packBoster 0x0C 0 0 0 0)
  | .bcmpl d => some (packBoster 0x0D d 0 0 0)
  | .bfree => some (packBoster 0x0E 0 0 0 0)
  | .bend => some (packBoster 0x0F 0 0 0 0)
  | .bosterReservedWord w => some w
  | _ => none

/-- The word of a fibre's instruction, from the opcode map (R64); 0 for a row that has none. -/
def encodeFibre : Instr → IWord
  | .nop f => f.toWord 0x00 0
  | .add f => f.toWord 0x01 0
  | .addI f => f.toWord 0x01 1
  | .sub f => f.toWord 0x02 0
  | .subI f => f.toWord 0x02 1
  | .mul f => f.toWord 0x03 0
  | .mulI f => f.toWord 0x03 1
  | .mulhi f => f.toWord 0x04 0
  | .mulhiI f => f.toWord 0x04 1
  | .mad f => f.toWord 0x05 0
  | .madw f => f.toWord 0x06 0
  | .min f => f.toWord 0x07 0
  | .minI f => f.toWord 0x07 1
  | .max f => f.toWord 0x08 0
  | .maxI f => f.toWord 0x08 1
  | .abs f => f.toWord 0x09 0
  | .neg f => f.toWord 0x09 1
  | .and f => f.toWord 0x0A 0
  | .andI f => f.toWord 0x0A 1
  | .or f => f.toWord 0x0B 0
  | .orI f => f.toWord 0x0B 1
  | .xor f => f.toWord 0x0C 0
  | .xorI f => f.toWord 0x0C 1
  | .not f => f.toWord 0x0D 0
  | .shl f => f.toWord 0x0E 0
  | .shlI f => f.toWord 0x0E 1
  | .shr f => f.toWord 0x0F 0
  | .shrI f => f.toWord 0x0F 1
  | .sar f => f.toWord 0x10 0
  | .sarI f => f.toWord 0x10 1
  | .rot f => f.toWord 0x11 0
  | .rotI f => f.toWord 0x11 1
  | .clz f => f.toWord 0x12 0
  | .popc f => f.toWord 0x12 1
  | .brev f => f.toWord 0x12 2
  | .bfx f => f.toWord 0x13 0
  | .bfi f => f.toWord 0x14 0
  | .sel f => f.toWord 0x15 0
  | .cmp f => f.toWord 0x16 0
  | .cmpI f => f.toWord 0x16 1
  | .lea f => f.toWord 0x17 0
  | .leaI f => f.toWord 0x17 1
  | .mov f => f.toWord 0x18 0
  | .movk f => f.toWord 0x19 0
  | .ldi f => f.toWord 0x1A 0
  | .ldiHi f => f.toWord 0x1A 0
  | .gets f => f.toWord 0x1B 0
  | .pand f => f.toWord 0x1C 0
  | .por f => f.toWord 0x1C 1
  | .pxor f => f.toWord 0x1C 2
  | .pnot f => f.toWord 0x1C 3
  | .pmov f => f.toWord 0x1C 4
  | .pmovWRead f => f.toWord 0x1C 4
  | .pmovWWrite f => f.toWord 0x1C 4
  | .fadd f => f.toWord 0x20 0
  | .faddPk f => f.toWord 0x20 1
  | .fsub f => f.toWord 0x21 0
  | .fsubPk f => f.toWord 0x21 1
  | .fmul f => f.toWord 0x22 0
  | .fmulPk f => f.toWord 0x22 1
  | .ffma f => f.toWord 0x23 0
  | .ffmaPk f => f.toWord 0x23 1
  | .fmin f => f.toWord 0x24 0
  | .fminPk f => f.toWord 0x24 1
  | .fmax f => f.toWord 0x25 0
  | .fmaxPk f => f.toWord 0x25 1
  | .fcmp f => f.toWord 0x26 0
  | .frcp f => f.toWord 0x27 0
  | .frcpPk f => f.toWord 0x27 1
  | .frsq f => f.toWord 0x28 0
  | .frsqPk f => f.toWord 0x28 1
  | .fsqrt f => f.toWord 0x29 0
  | .fsqrtPk f => f.toWord 0x29 1
  | .fexp2 f => f.toWord 0x2A 0
  | .fexp2Pk f => f.toWord 0x2A 1
  | .flog2 f => f.toWord 0x2B 0
  | .flog2Pk f => f.toWord 0x2B 1
  | .fsin f => f.toWord 0x2C 0
  | .fsinPk f => f.toWord 0x2C 1
  | .fcos f => f.toWord 0x2D 0
  | .fcosPk f => f.toWord 0x2D 1
  | .ftanh f => f.toWord 0x2E 0
  | .ftanhPk f => f.toWord 0x2E 1
  | .frnd f => f.toWord 0x2F 0
  | .frndPk f => f.toWord 0x2F 1
  | .cvt f => f.toWord 0x40 0
  | .cvtPk f => f.toWord 0x40 1
  | .cvti f => f.toWord 0x41 0
  | .pk f => f.toWord 0x42 0
  | .upk f => f.toWord 0x43 0
  | .sclq f => f.toWord 0x44 0
  | .sclget f => f.toWord 0x45 0
  | .sclgetClr f => f.toWord 0x45 0
  | .crng f => f.toWord 0x46 0
  | .shflPick f => f.toWord 0x50 0
  | .shflShift f => f.toWord 0x50 1
  | .shflRot f => f.toWord 0x50 2
  | .shflMir f => f.toWord 0x50 3
  | .voteEvery f => f.toWord 0x51 0
  | .voteSome f => f.toWord 0x51 1
  | .voteMask f => f.toWord 0x51 2
  | .voteCount f => f.toWord 0x51 3
  | .redux op f => f.toWord 0x52 op.code
  | .scan op f => f.toWord 0x53 op.code
  | .scanEx op f => f.toWord 0x53 (8 + op.code)
  | .matchPeers f => f.toWord 0x54 0
  | .matchFirst f => f.toWord 0x54 1
  | .matchSame f => f.toWord 0x54 2
  | .lsync f => f.toWord 0x55 0
  | .bra f => f.toWord 0x60 0
  | .brx f => f.toWord 0x61 0
  | .call f => f.toWord 0x62 0
  | .calli f => f.toWord 0x63 0
  | .ret f => f.toWord 0x64 0
  | .retTrap f => f.toWord 0x64 1
  | .fork f => f.toWord 0x65 0
  | .exit f => f.toWord 0x66 0
  | .yield f => f.toWord 0x67 0
  | .trap f => f.toWord 0x68 0
  | .brk f => f.toWord 0x69 0
  | .rep f => f.toWord 0x6F 0
  | .ld f => f.toWord 0x70 0
  | .ldAcq f => f.toWord 0x70 1
  | .st f => f.toWord 0x71 0
  | .stRel f => f.toWord 0x71 1
  | .lds f => f.toWord 0x72 0
  | .sts f => f.toWord 0x73 0
  | .ldx f => f.toWord 0x74 0
  | .stx f => f.toWord 0x75 0
  | .prfL1 f => f.toWord 0x76 0
  | .prfL2 f => f.toWord 0x76 1
  | .flushWb f => f.toWord 0x77 0
  | .flushInv f => f.toWord 0x77 1
  | .fenceAcq f => f.toWord 0x78 0
  | .fenceRel f => f.toWord 0x78 1
  | .fenceAr f => f.toWord 0x78 2
  | .carve f => f.toWord 0x79 0
  | .tlbq f => f.toWord 0x7A 0
  | .atom op f => f.toWord 0x80 op.code
  | .atomAcq op f => f.toWord 0x81 op.code
  | .atomRel op f => f.toWord 0x82 op.code
  | .atomAr op f => f.toWord 0x83 op.code
  | .red op f => f.toWord 0x84 op.code
  | .redRel op f => f.toWord 0x85 op.code
  | .mxzero f => f.toWord 0x90 0
  | .mxloop f => f.toWord 0x91 0
  | .mxloopG f => f.toWord 0x91 1
  | .mxwait f => f.toWord 0x92 0
  | .mxdrain f => f.toWord 0x93 0
  | .mxdrainQ f => f.toWord 0x93 1
  | .gxrows f => f.toWord 0x94 0
  | .cpyLd f => f.toWord 0xA0 0
  | .cpyLdNf f => f.toWord 0xA0 1
  | .cpySt f => f.toWord 0xA1 0
  | .cpyRed op f => f.toWord 0xA2 op.code
  | .cpyMc f => f.toWord 0xA3 0
  | .cpyMcNf f => f.toWord 0xA3 1
  | .cpyPf f => f.toWord 0xA4 0
  | .eqfence f => f.toWord 0xA5 0
  | .eqfenceW f => f.toWord 0xA5 0
  | .tdset f => f.toWord 0xA6 0
  | .tdget f => f.toWord 0xA7 0
  | .tset f => f.toWord 0xA8 0
  | .tget f => f.toWord 0xA9 0
  | .tgetFill f => f.toWord 0xA9 0
  | .tgetFillc f => f.toWord 0xA9 0
  | .barv f => f.toWord 0xB0 0
  | .barvB f => f.toWord 0xB0 1
  | .barw f => f.toWord 0xB1 0
  | .barvw f => f.toWord 0xB2 0
  | .barx f => f.toWord 0xB3 0
  | .bars f => f.toWord 0xB4 0
  | .barsClr f => f.toWord 0xB4 0
  | .barsB f => f.toWord 0xB4 0
  | .cbarA f => f.toWord 0xB5 0
  | .cbarW f => f.toWord 0xB5 1
  | .cbarAw f => f.toWord 0xB5 2
  | .dbarA f => f.toWord 0xB6 0
  | .dbarW f => f.toWord 0xB6 1
  | .dbarAw f => f.toWord 0xB6 2
  | .pbarA f => f.toWord 0xB7 0
  | .pbarW f => f.toWord 0xB7 1
  | .pbarAw f => f.toWord 0xB7 2
  | .qinit f => f.toWord 0xC0 0
  | .qpush f => f.toWord 0xC1 0
  | .qpop f => f.toWord 0xC2 0
  | .qtpush f => f.toWord 0xC3 0
  | .qtpop f => f.toWord 0xC4 0
  | .qpeek f => f.toWord 0xC5 0
  | .qstat f => f.toWord 0xC6 0
  | .qclose f => f.toWord 0xC7 0
  | .qdrain f => f.toWord 0xC8 0
  | .launch f => f.toWord 0xD3 0
  | .spawn f => f.toWord 0xD0 0
  | .spawnr f => f.toWord 0xD1 0
  | .jdec f => f.toWord 0xD2 0
  | .lquery f => f.toWord 0xD4 0
  | .xsel f => f.toWord 0xE0 0
  | .xdisp f => f.toWord 0xE1 0
  | .xcurRd f => f.toWord 0xE2 0
  | .xcurWr f => f.toWord 0xE2 1
  | .xhist f => f.toWord 0xE3 0
  | .regrp f => f.toWord 0xE4 0
  | .wwait f => f.toWord 0xE5 0
  | .wwake f => f.toWord 0xE6 0
  | .rmtOpen f => f.toWord 0xF0 0
  | .rmtCommit f => f.toWord 0xF1 0
  | .rmtAbort f => f.toWord 0xF2 0
  | .sysrd f => f.toWord 0xF8 0
  | .syswr f => f.toWord 0xF9 0
  | .fcancel f => f.toWord 0xFA 0
  | .ctxsave f => f.toWord 0xFB 0
  | .ctxload f => f.toWord 0xFC 0
  | .dbgrd f => f.toWord 0xFD 0
  | .unassignedOpcode w => w
  | _ => 0

/-- An instruction that a fibre's word encodes. -/
def isFibre : Instr → Bool
  | .nop _ => true
  | .add _ => true
  | .addI _ => true
  | .sub _ => true
  | .subI _ => true
  | .mul _ => true
  | .mulI _ => true
  | .mulhi _ => true
  | .mulhiI _ => true
  | .mad _ => true
  | .madw _ => true
  | .min _ => true
  | .minI _ => true
  | .max _ => true
  | .maxI _ => true
  | .abs _ => true
  | .neg _ => true
  | .and _ => true
  | .andI _ => true
  | .or _ => true
  | .orI _ => true
  | .xor _ => true
  | .xorI _ => true
  | .not _ => true
  | .shl _ => true
  | .shlI _ => true
  | .shr _ => true
  | .shrI _ => true
  | .sar _ => true
  | .sarI _ => true
  | .rot _ => true
  | .rotI _ => true
  | .clz _ => true
  | .popc _ => true
  | .brev _ => true
  | .bfx _ => true
  | .bfi _ => true
  | .sel _ => true
  | .cmp _ => true
  | .cmpI _ => true
  | .lea _ => true
  | .leaI _ => true
  | .mov _ => true
  | .movk _ => true
  | .ldi _ => true
  | .ldiHi _ => true
  | .gets _ => true
  | .pand _ => true
  | .por _ => true
  | .pxor _ => true
  | .pnot _ => true
  | .pmov _ => true
  | .pmovWRead _ => true
  | .pmovWWrite _ => true
  | .fadd _ => true
  | .faddPk _ => true
  | .fsub _ => true
  | .fsubPk _ => true
  | .fmul _ => true
  | .fmulPk _ => true
  | .ffma _ => true
  | .ffmaPk _ => true
  | .fmin _ => true
  | .fminPk _ => true
  | .fmax _ => true
  | .fmaxPk _ => true
  | .fcmp _ => true
  | .frcp _ => true
  | .frcpPk _ => true
  | .frsq _ => true
  | .frsqPk _ => true
  | .fsqrt _ => true
  | .fsqrtPk _ => true
  | .fexp2 _ => true
  | .fexp2Pk _ => true
  | .flog2 _ => true
  | .flog2Pk _ => true
  | .fsin _ => true
  | .fsinPk _ => true
  | .fcos _ => true
  | .fcosPk _ => true
  | .ftanh _ => true
  | .ftanhPk _ => true
  | .frnd _ => true
  | .frndPk _ => true
  | .cvt _ => true
  | .cvtPk _ => true
  | .cvti _ => true
  | .pk _ => true
  | .upk _ => true
  | .sclq _ => true
  | .sclget _ => true
  | .sclgetClr _ => true
  | .crng _ => true
  | .shflPick _ => true
  | .shflShift _ => true
  | .shflRot _ => true
  | .shflMir _ => true
  | .voteEvery _ => true
  | .voteSome _ => true
  | .voteMask _ => true
  | .voteCount _ => true
  | .redux _ _ => true
  | .scan _ _ => true
  | .scanEx _ _ => true
  | .matchPeers _ => true
  | .matchFirst _ => true
  | .matchSame _ => true
  | .lsync _ => true
  | .bra _ => true
  | .brx _ => true
  | .call _ => true
  | .calli _ => true
  | .ret _ => true
  | .retTrap _ => true
  | .fork _ => true
  | .exit _ => true
  | .yield _ => true
  | .trap _ => true
  | .brk _ => true
  | .rep _ => true
  | .ld _ => true
  | .ldAcq _ => true
  | .st _ => true
  | .stRel _ => true
  | .lds _ => true
  | .sts _ => true
  | .ldx _ => true
  | .stx _ => true
  | .prfL1 _ => true
  | .prfL2 _ => true
  | .flushWb _ => true
  | .flushInv _ => true
  | .fenceAcq _ => true
  | .fenceRel _ => true
  | .fenceAr _ => true
  | .carve _ => true
  | .tlbq _ => true
  | .atom _ _ => true
  | .atomAcq _ _ => true
  | .atomRel _ _ => true
  | .atomAr _ _ => true
  | .red _ _ => true
  | .redRel _ _ => true
  | .mxzero _ => true
  | .mxloop _ => true
  | .mxloopG _ => true
  | .mxwait _ => true
  | .mxdrain _ => true
  | .mxdrainQ _ => true
  | .gxrows _ => true
  | .cpyLd _ => true
  | .cpyLdNf _ => true
  | .cpySt _ => true
  | .cpyRed _ _ => true
  | .cpyMc _ => true
  | .cpyMcNf _ => true
  | .cpyPf _ => true
  | .eqfence _ => true
  | .eqfenceW _ => true
  | .tdset _ => true
  | .tdget _ => true
  | .tset _ => true
  | .tget _ => true
  | .tgetFill _ => true
  | .tgetFillc _ => true
  | .barv _ => true
  | .barvB _ => true
  | .barw _ => true
  | .barvw _ => true
  | .barx _ => true
  | .bars _ => true
  | .barsClr _ => true
  | .barsB _ => true
  | .cbarA _ => true
  | .cbarW _ => true
  | .cbarAw _ => true
  | .dbarA _ => true
  | .dbarW _ => true
  | .dbarAw _ => true
  | .pbarA _ => true
  | .pbarW _ => true
  | .pbarAw _ => true
  | .qinit _ => true
  | .qpush _ => true
  | .qpop _ => true
  | .qtpush _ => true
  | .qtpop _ => true
  | .qpeek _ => true
  | .qstat _ => true
  | .qclose _ => true
  | .qdrain _ => true
  | .launch _ => true
  | .spawn _ => true
  | .spawnr _ => true
  | .jdec _ => true
  | .lquery _ => true
  | .xsel _ => true
  | .xdisp _ => true
  | .xcurRd _ => true
  | .xcurWr _ => true
  | .xhist _ => true
  | .regrp _ => true
  | .wwait _ => true
  | .wwake _ => true
  | .rmtOpen _ => true
  | .rmtCommit _ => true
  | .rmtAbort _ => true
  | .sysrd _ => true
  | .syswr _ => true
  | .fcancel _ => true
  | .ctxsave _ => true
  | .ctxload _ => true
  | .dbgrd _ => true
  | .unassignedOpcode _ => true
  | _ => false

/-- A machine event: a step with no encoding, which the agenda or the hardware steps in flight bring about. -/
def isEvent (i : Instr) : Bool := !isFibre i && (encodeBoster i).isNone

def encode (i : Instr) : Words :=
  if isFibre i then .fibre (encodeFibre i)
  else match encodeBoster i with
    | some w => .boster w
    | none => .none

/-- The three little-endian words of R40 as 12 bytes, the first at the lowest address. -/
def IWord.bytes (w : IWord) : List Byte := (List.range 12).map fun i => w.extractLsb' (8 * i) 8

def IWord.ofBytes (bs : List Byte) : IWord := BitVec.ofNat 96 (bs.foldr (fun b n => b.toNat + 256 * n) 0)

/-- The instruction the decoder reads from a word whose bits are `w` (the opcode table numbers a Boster word's 32 bits, and a fibre's
word's 96): the bits are laid out as bytes, lowest address first, and given to the decoder. -/
def decodeTableWord (nbits w : Nat) : Option Instr :=
  if nbits ≤ 32 then some (decodeBoster (BitVec.ofNat 32 w))
  else match decode (IWord.ofBytes (IWord.bytes (BitVec.ofNat 96 w))) with
    | .ok i => some i
    | .error _ => none

end Sys2Proof
end

