-- ==== Sys2Proof/Config.lean ====
section
/-!
DEFINITION. What an implementation fixes and the free values: constants without a body, so that no proof can see a value of them
(notes/assumptions/12.md).
-/
namespace Sys2Proof

/-- The free values of the machine, one for each value of the counter State.freeCount: a value the spec leaves open. -/
opaque Config.freeValue : Nat → BitVec 64

/-- What an engine reads at a byte outside the core's scratchpad, which the spec does not say (notes/assumptions/12.md). -/
opaque Config.outsideSpad : Nat → BitVec 8

/-- The spare stock of a kind whose size the spec does not give (R18): lane banks, channels, lanes of links, mesh links and router lanes, and
rows (notes/assumptions/51.md). -/
opaque Config.spareStock : Nat → Nat

end Sys2Proof
end

