-- ==== Sys2Proof/Machine/State.lean ====
section
/-!
DEFINITION. The state of one package as plain data: fibres, teams, cores, dies, the Forum and memory, with everything in flight between
them, and the state after reset. Fields that are the model's own, and no state of the spec, are said so.
-/
namespace Sys2Proof.Machine

open Sys2Proof

/-- The trap causes of R167. -/
inductive Cause where
  | illegalOpcode | reservedField | stallShort | nonuniform | windowRange | masksyncMismatch | roleViolation | tariffIllegal
  | descriptorIllegal | nanFirst | pageFault | permitDenied | worldViolation | queueCorrupt | pinRevoked | doubleFault | regionAbort
  | hostLost | misaligned | breakpoint | watchpoint | step | softwareTrap | terminated
  deriving DecidableEq, Repr

/-- What a trap record takes from the trap (R168): the cause, ADDR, INFO, OPND, LMASK where R167 gives it, and whether RPC is the
next instruction. -/
structure Trap where
  cause : Cause
  addr : BitVec 64 := 0
  info : BitVec 64 := 0
  opnd : Nat := 0
  lmask : Option (BitVec 32) := none
  next : Bool := false
  /-- the resume address where the cause names one itself (R464) -/
  rpc : Option (BitVec 56) := none
  /-- the instruction's address where the fibre has left it before it traps (R300), and whether that ran in a repetition (R168) -/
  ipc : Option (BitVec 56) := none
  inrep : Option Bool := none
  deriving DecidableEq, Repr

/-- Where a result of a fibre lands. -/
inductive Loc where
  | v (n : Nat)
  | p (n : Nat)
  deriving DecidableEq, Repr

/-- When a result lands (R54-R57): at a cycle of the die's counter, when awaited (known, of variable latency), or not known yet. -/
inductive Due where
  | at (c : Nat)
  | ready
  | out
  deriving DecidableEq, Repr

/-- A result of an issued instruction that has not landed. -/
structure PendW where
  loc : Loc
  /-- the high word of a pair -/
  hi : Bool
  val : BitVec 32
  due : Due
  id : Nat
  deriving DecidableEq, Repr

/-- A result for a uniform register that has not landed (R103), with the fibres that wrote it (R57). -/
structure PendU where
  role : Role
  k : Nat
  hi : Bool
  val : BitVec 32
  due : Due
  id : Nat
  fids : List Nat
  deriving DecidableEq, Repr

/-- A repetition in progress (R153): the count read at the prefix and the strides. A count of 0 says that the repetition was interrupted
in an iteration that goes on (R154): once that has completed, the prefix is performed again. -/
structure RepRun where
  n : Nat
  dstr : BitVec 8
  astr : BitVec 8
  bstr : BitVec 8
  cstr : BitVec 8
  deriving DecidableEq, Repr

/-- What a fibre is blocked in while another party acts; its PC stays at the instruction. -/
inductive Wait where
  | queue (id : Nat)
  /-- a queue operation that never parks (R257): its answer comes by itself -/
  | keeper (id : Nat)
  /-- the keeper has answered its operation, with the cause it found if any; the other lanes' operations of that instruction are still to
  be answered (R257) -/
  | answered (grp : Nat) (fault : Option Trap)
  | remote (id : Nat)
  | scratch (id : Nat)
  | report (id : Nat)
  | lsync (mask : BitVec 32)
  | regrp (key : BitVec 32) (dst : Operand)
  | crier (dst : Operand)
  /-- a carve-out change asked for (R225) -/
  | carve (id : Nat) (dst : Operand)
  /-- a team barrier's completion, in `barw` or `barvw` (R272) -/
  | barrier (n : Nat)
  /-- the other lanes of a load or atomic whose destination is one uniform register (R103) -/
  | uniform (id : Nat)
  /-- `mxwait` (R237): the matrix commands numbered below `id`, of one tile or of all, their completion or only their reads -/
  | matrix (id : Nat) (acc : Option Nat) (rd : Bool)
  /-- `eqfence.w` (R246) -/
  | fence (id : Nat)
  deriving DecidableEq, Repr

/-- Whether a fibre runs (R289, R293, R302). -/
inductive RunState where
  | running
  | halted
  /-- held by a debugger stop of the named gangmate, or of any fibre (`ALLSTOP`) -/
  | held (who : Option Nat)
  | stopped
  /-- stopped for a pre-emption, with the side-table entry by which it is saved; none where it is forced and saved whole (R39, R293) -/
  | point (entry : Option Nat)
  deriving DecidableEq, Repr

/-- An open remote region of a fibre (R461-R464): the checkpoint, the resume address, the predicate and status register, the targets
with what has been staged there (newest last), and how far a commit has gone. -/
structure Region where
  pred : BitVec 16
  srstep : BitVec 16
  regs : List (BitVec 32)
  resume : BitVec 56
  pd : BitVec 4
  vs : BitVec 8
  rgn : Nat
  /-- target package, physical address, byte mask, bytes -/
  staged : List (Nat × Nat × Nat × Nat)
  nstaged : Nat
  /-- targets that have answered the prepare, and those that have acknowledged the apply -/
  preparing : Bool
  ready : List Nat
  applying : Bool
  applied : List Nat
  deriving DecidableEq, Repr

/-- A fibre (R94, R148, R190, R271). -/
structure Fibre where
  fid : Nat
  role : Role
  pc : BitVec 56
  pred : BitVec 16
  wbase : Nat
  wsize : Nat
  lane : Nat
  rc : BitVec 32
  srstep : BitVec 16
  /-- `v0` to `v`(WSIZE-1) -/
  regs : List (BitVec 32)
  inh : Bool
  msp : Bool
  mspm : BitVec 32
  bmem : BitVec 16
  barr : BitVec 16
  bpar : BitVec 16
  bwait : Bool
  /-- the unacknowledged-store counter of R190 -/
  unack : Nat
  pend : List PendW
  rep : Option RepRun
  wait : Option Wait
  run : RunState
  bpskip : Bool
  /-- a trap that an engine or a keeper raised for the fibre (R249, R268) -/
  pendTrap : Option Trap
  region : Option Region
  /-- a debugger step in progress (R114) -/
  stepping : Bool
  /-- its writes that stand in the store buffer for want of room in the side log: while there are any, it issues nothing (R284) -/
  logWait : Nat
  /-- a queue instruction that it has issued and not sent: its address, and its number in the order of issue (R255) -/
  sending : Option (BitVec 56 × Nat)
  /-- the cycle before which it may not issue (R55), kept for when it stands in no gang (R111) -/
  ready : Nat
  /-- the number of the `lsync` release whose fibres issue their next instruction as one gang (R164), else 0 -/
  bond : Nat
  deriving DecidableEq, Repr

/-- A team barrier (R270). -/
structure Barrier where
  ph : BitVec 16
  exp : Nat
  cnt : Nat
  dec : Nat
  byt : Nat
  lbyt : Nat
  loss : Bool
  deriving DecidableEq, Repr

/-- A quantisation counter set (R87): UFL, FLS, OVR, NLS and their sticky bits. -/
structure QSet where
  ufl : Nat
  fls : Nat
  ovr : Nat
  nls : Nat
  sticky : BitVec 4
  deriving DecidableEq, Repr

/-- Counts of an issued instruction that become visible when its result lands (R87): the cycle, the set, the four counts, and whose they
are. -/
structure QAdd where
  due : Nat
  set : Nat
  ufl : Nat
  fls : Nat
  ovr : Nat
  nls : Nat
  /-- the fibres whose instruction counts -/
  fids : List Nat
  deriving DecidableEq, Repr

/-- The dispatch cursor (R378). -/
structure Cursor where
  tok : Nat
  round : Nat
  act : Bool
  abt : Bool
  cause : Nat
  refn : Nat
  ref0 : Nat
  bytes : List Nat
  aaddr : Nat
  deriving DecidableEq, Repr

/-- A tensor descriptor as read from its 64 bytes (R202); `rsv` gathers the reserved bits. -/
structure Desc where
  base : Nat
  size : List Nat
  stride : List Nat
  box : List Nat
  etar : Nat
  star : Nat
  blk : Nat
  rank : Nat
  wld : Bool
  spc : Bool
  rsv : Nat
  fill : Nat
  sbase : Nat
  deriving DecidableEq, Repr

/-- The debug registers of a team (R299). -/
structure Debug where
  bpa : List (BitVec 64)
  wpa : List (BitVec 64)
  wpc : List (BitVec 64)
  ctl : BitVec 64
  err : Bool
  deriving DecidableEq, Repr

/-- A team in a team slot (R171, R278, R358). -/
structure Team where
  slot : Nat
  ctx : Nat
  world : Bool
  launch : Nat
  cont : Bool
  teamNo : Nat
  lvidx : List Nat
  /-- virtual base of the team frame (R350) -/
  frame : Nat
  /-- the team has a matrix role (R230) -/
  matrix : Bool
  /-- join counter of a continuation team, 0 for none, and its ranges: write?, base, length (R358, R363) -/
  join : Nat
  ranges : List (Bool × Nat × Nat)
  spadBase : Nat
  spadSize : Nat
  bars : List Barrier
  /-- `k0` to `k63` of the copy, matrix, vector and general roles, one after another (R102) -/
  uregs : List (BitVec 32)
  upend : List PendU
  /-- `t16` to `t63` (R70) -/
  tariff : List (BitVec 64)
  qsets : List QSet
  qadds : List QAdd
  /-- descriptor-table entries that are not all zero (R201) -/
  tdesc : List (Nat × BitVec 512)
  /-- tile words that are not zero, word (n, i, j) at 1024 n + 32 i + j (R230) -/
  tiles : List (Nat × BitVec 32)
  rowLists : List (List (BitVec 32))
  cpfill : Nat
  sbchk : Bool
  nantrap : Bool
  nanseen : Bool
  stopped : Bool
  tvec : BitVec 64
  tmask : BitVec 64
  srseed : BitVec 64
  fmbox : BitVec 64
  dbg : Debug
  nextFid : Nat
  fibres : List Fibre
  /-- cycle of a pre-emption request (R293), and whether a `ctxsave` asked for it -/
  preempt : Option (Nat × Bool)
  terminating : Bool
  killedAny : Bool
  cursor : Cursor
  deriving DecidableEq, Repr

/-- A gang-table entry (R106): team slot, fibres in ascending lane order, and the cycle before which it may not issue (R55). The table
lists entries in the order in which they were given (R111). -/
structure Gang where
  slot : Nat
  fids : List Nat
  readyAt : Nat
  deriving DecidableEq, Repr

/-- An L1 sector (R180, R327): its physical address, bytes, dirty bytes, the fibres whose stores it holds unacknowledged, and whether it
came poisoned (R405). -/
structure L1Sector where
  pa : Nat
  data : BitVec 256
  dirty : BitVec 32
  owners : List (Nat × Nat)
  poison : Bool
  deriving DecidableEq, Repr

/-- What a leaf says of a page, as an access uses it (R196). -/
structure Leaf where
  tgt : Nat
  pa : Nat
  size : Nat
  cp : Nat
  pin : Bool
  rap : Bool
  apt : Nat
  ord : Nat
  wld : Bool
  ex : Bool
  wr : Bool
  deriving DecidableEq, Repr

/-- A store-buffer entry (R188, R189): the bytes of one sector by fibre, or a reduction with its lanes (R224). -/
inductive SBKind where
  /-- per fibre: which bytes of the sector it wrote -/
  | store (owners : List (Nat × BitVec 32)) (mask : BitVec 32) (data : BitVec 256)
  | red (op : AtomOp) (t1 : BitVec 6) (tar : BitVec 64) (len : Nat) (lanes : List (Nat × BitVec 64))
  deriving DecidableEq, Repr

/-- What a `call` whose record goes out by way of the Forum has still to do when that has been written (R149, R150): its fibre, the pair *sp*
and its new value, and the target. -/
structure CallRec where
  fid : Nat
  d : BitVec 8
  sp : BitVec 64
  target : BitVec 56
  deriving DecidableEq, Repr

structure SBEntry where
  id : Nat
  slot : Nat
  /-- virtual address of the sector, or of the reduction -/
  va : Nat
  leaf : Leaf
  kind : SBKind
  pc : BitVec 56
  scope : Option (BitVec 3)
  sent : Bool
  call : Option CallRec := none
  /-- a write that must enter the side log and finds it full (R284): the cause's code, and the type where one instruction made it -/
  toLog : Option (Nat × Option (BitVec 6)) := none
  deriving DecidableEq, Repr

/-- The kinds of a side-log entry (R285), with what an entry of each carries. -/
inductive SLKind where
  | store (t1 : BitVec 6) (len : Nat) (data : BitVec 64)
  | red (op : AtomOp) (t1 : BitVec 6) (tar : BitVec 64) (len : Nat) (data : BitVec 64)
  /-- a stopped copy: the command's number and the faulting element -/
  | copy (cmd elem : Nat)
  /-- a completion push withdrawn at a save (R269): the core of its ring where that is not the team's own, ring address, and element -/
  | push (core : Option Nat) (ring : Nat) (elem : BitVec 32)
  deriving DecidableEq, Repr

structure SLEntry where
  seq : BitVec 32
  slot : Nat
  fid : Nat
  va : Nat
  pc : BitVec 56
  kind : SLKind
  cause : Nat
  scope : Option (BitVec 3)
  ord : Nat
  /-- its retry waits for room in the store buffer (R188, R286) -/
  room : Bool := false
  deriving DecidableEq, Repr

/-- A load in flight (R208): the lane, where it lands, its bytes' page and its acquire scope. -/
structure Load where
  id : Nat
  slot : Nat
  fid : Nat
  t1 : BitVec 6
  va : Nat
  leaf : Leaf
  acq : Option (BitVec 3)
  /-- the gathering of a uniform destination -/
  uni : Option Nat
  deriving DecidableEq, Repr

/-- A returning atomic in flight (R221, R224): the lanes that name one address, in lane order, with operand and compared value. -/
structure Atomic where
  id : Nat
  slot : Nat
  op : AtomOp
  t1 : BitVec 6
  tar : BitVec 64
  va : Nat
  leaf : Leaf
  len : Nat
  lanes : List (Nat × BitVec 64 × BitVec 64)
  acq : Option (BitVec 3)
  uni : Option Nat
  /-- the instruction that it is of, by its first number -/
  batch : Nat
  deriving DecidableEq, Repr

/-- The lanes' results of one instruction that writes one uniform register (R103): the fibres wait for the last of them. -/
structure UniWait where
  id : Nat
  slot : Nat
  fids : List Nat
  dst : Operand
  wide : Bool
  vals : List (Nat × BitVec 64)
  deriving DecidableEq, Repr

/-- A write-back or store whose acknowledgement is on its way (R190). -/
structure Ack where
  id : Nat
  owners : List (Nat × Nat)
  deriving DecidableEq, Repr

/-- What a scratchpad instruction does at the banks (R181, R214, R223). -/
inductive SpKind where
  | load (t1 : BitVec 6)
  | store (t1 : BitVec 6)
  | atom (op : AtomOp) (t1 : BitVec 6) (tar : BitVec 64) (len : Nat) (ret : Bool)
  /-- `tdset` of an entry (R247) -/
  | desc (n : Nat)
  deriving DecidableEq, Repr

/-- A lane of a scratchpad instruction: the fibre, its offset on the target core, its data and compared value, and its result. -/
structure SpLane where
  fid : Nat
  off : Nat
  data : BitVec 64
  cmp : BitVec 64
  res : BitVec 64
  /-- the cause that it met at issue or at its target -/
  fault : Option Trap
  deriving DecidableEq, Repr

/-- A lane that takes a cause. -/
def SpLane.refused (l : SpLane) : Bool := l.fault.isSome

/-- A scratchpad instruction in flight, with its completion counter (R182, R310). Offsets of lanes and words carry the core: byte `off`
of core `c` is 2^20 c + off. -/
structure SpOp where
  id : Nat
  core : Nat
  slot : Nat
  ctx : Nat
  pc : BitVec 56
  kind : SpKind
  lanes : List SpLane
  /-- requests not yet served -/
  left : Nat
  /-- words read -/
  words : List (Nat × BitVec 32)
  /-- target cores whose bank queues it has still to enter -/
  toArrive : List Nat
  remote : Bool
  acq : Option (BitVec 3)
  uni : Option Nat
  deriving DecidableEq, Repr

/-- A request in a bank queue (R181): the operation, the word's offset in the core, the fibre of a store or atomic, and the number that
orders it against the range scoreboard (R186): that of its issue, or of its arrival from another core. -/
structure SpReq where
  op : Nat
  word : Nat
  lane : Option Nat
  arr : Nat
  deriving DecidableEq, Repr

/-- A range-scoreboard entry (R185). -/
structure RangeEnt where
  id : Nat
  cmd : Nat
  lo : Nat
  hi : Nat
  deriving DecidableEq, Repr

/-- An entry of the TLB (R193): context, page, leaf, whether it is being revoked, and the commands that captured it (R383). -/
structure TlbEnt where
  ctx : Nat
  va : Nat
  leaf : Leaf
  revoking : Bool
  users : List Nat
  deriving DecidableEq, Repr

/-- What a copy does (R243). -/
inductive CopyKind where
  | ld | st
  | red (op : CpyOp)
  | mc
  | pf
  deriving DecidableEq, Repr

/-- The commands of the engines with what they capture at issue (R227). -/
inductive EngKind where
  | mxzero (acc : Nat)
  | mxloop (acc : Nat) (f32 sat : Bool) (da db : Desc) (ta tb sa sb : BitVec 64) (k0 mn : BitVec 32) (ks : Nat) (tsa tsb : BitVec 32)
      (rows : Option (List (BitVec 32)))
  | mxdrain (acc : Nat) (f32 q : Bool) (mode : Nat) (dd dp : Desc) (td sd : BitVec 64) (mn t : BitVec 32) (srstep : BitVec 16)
      (bar : Option Nat)
  | copy (k : CopyKind) (nofill : Bool) (da db : Desc) (ta tb : BitVec 64) (off : Nat) (org : List Int) (ev : Nat) (bar ring : Option Nat)
      (mcm : BitVec 32) (sub : Nat)
  | fence (mask : BitVec 3)
  deriving DecidableEq, Repr

/-- A command in an engine queue (R199): the issuing fibre, what it does and how far it has come. -/
structure EngCmd where
  id : Nat
  slot : Nat
  fid : Nat
  pc : BitVec 56
  kind : EngKind
  /-- k-steps performed, or the next box element -/
  prog : Nat
  /-- the gathered rows of the next k-step in the operand latch (R235): code and scale code, none for an element that reads zero -/
  latch : Option (List (Option (Nat × Nat)))
  readAll : Bool
  /-- its effects are performed (R229) -/
  moved : Bool
  acted : Bool
  stopped : Bool
  /-- an element request to another package is outstanding (R458) -/
  asked : Bool
  /-- box elements that a multicast has read, none for one left unchanged (R319) -/
  tile : List (Option Nat)
  /-- sectors of alias pages that the command writes (R433): the first element's index, the address, the leaf, mask and bytes -/
  sectors : List (Nat × Nat × Leaf × Nat × Nat)
  /-- cores whose scratchpad the command has still to finish, as 16 * core + team slot (R242, R318), and those delivered to -/
  targets : List Nat
  delivered : List Nat
  deriving DecidableEq, Repr

/-- Bytes of an instruction fetched from another package (R456, R458): context, address, how many, the bytes, and the cause's code where
the fetch failed. -/
structure IFetch where
  ctx : Nat
  va : Nat
  n : Nat
  word : BitVec 96
  fail : Nat
  deriving DecidableEq, Repr

/-- A core (R171-R199). -/
structure Core where
  teams : List Team
  gangs : List Gang
  spad : List Host.Cell
  l1kib : Nat
  fused : Bool
  lastCtx : Option Nat
  l1 : List L1Sector
  sb : List SBEntry
  sidelog : List SLEntry
  seq : BitVec 32
  ranges : List RangeEnt
  eqmx : List EngCmd
  eqcp : List EngCmd
  eqgx : List EngCmd
  bankq : List SpReq
  /-- requests at the core's mesh port, with the core they come from; those of one list enter the bank queues together (R311) -/
  portq : List (Nat × List SpReq)
  loads : List Load
  atomics : List Atomic
  unis : List UniWait
  acks : List Ack
  tlb : List TlbEnt
  /-- walks that ended in a cause, not yet taken by the access that waits (R193): context, page, the model's own outcome code -/
  walkFail : List (Nat × Nat × Nat)
  ifetch : List IFetch
  /-- bytes of other packages that a fibre's record reads have received (R361, R458): slot, fibre, address, bytes, the cause's code -/
  rrecs : List (Nat × Nat × Nat × List Byte × Nat)
  notices : List (Nat × Nat × BitVec 64)
  /-- carve-out changes asked for, in order: the number, the team slot, the L1 size in KiB (R178, R225) -/
  carve : List (Nat × Nat × Nat)
  marked : Bool
  /-- lane banks marked for retirement (R18) -/
  banksMarked : List Nat
  /-- issue slots given in a cycle (R118): the cycle and how many of its two; and the gang that issued last where it gave Y = 1 (R59), by
  its team slot and first fibre -/
  issued : Nat × Nat
  yielded : Option (Nat × Nat)
  deriving DecidableEq, Repr

/-- The keeper and address of a control block (R250). -/
inductive QTgt where
  | global (pa : Nat) (va : Nat) (ctx : Nat)
  | ring (core off : Nat)
  deriving DecidableEq, Repr

/-- A queue operation (R257). -/
inductive QKind where
  | init (base : BitVec 64) (cfg : BitVec 32)
  | push (x : BitVec 64) (wide tried : Bool)
  | pop (wide tried : Bool)
  | peek (wide : Bool)
  | stat
  | close
  | drain
  deriving DecidableEq, Repr

/-- Who waits for a queue operation: fibres, an engine command's completion push, or a notice. -/
inductive QWho where
  | fibres (core slot : Nat) (fids : List Nat)
  | engine (core cmd slot fid : Nat)
  | notice (core : Nat)
  /-- a completion push re-entered after a restore, of the copy at an address -/
  | replay (core slot fid : Nat) (pc : BitVec 56)
  deriving DecidableEq, Repr

structure QOp where
  id : Nat
  who : QWho
  tgt : QTgt
  kind : QKind
  dst : Operand
  status : Operand
  parked : Bool
  /-- the number that the lanes of one instruction share (R257), and the block address as the instruction gives it -/
  grp : Nat
  ea : Nat
  deriving DecidableEq, Repr

/-- A waiter of the crier table (R391): a fibre, or a host wait with its notify word. -/
inductive Crier where
  | fibre (core slot fid : Nat)
  | host (m : BitVec 2) (note : BitVec 64)
  deriving DecidableEq, Repr

/-- A report or arrival on its way to a cluster, die or package barrier (R316, R369, R439). -/
structure Report where
  id : Nat
  /-- 0 cluster, 1 die, 2 package -/
  level : Nat
  dom : Nat
  num : Nat
  core : Nat
  slot : Nat
  fids : List Nat
  dst : Operand
  aw : Bool
  loss : Bool
  deriving DecidableEq, Repr

/-- An access on the barrier network (R314): of operation `id`, to one offset of the barrier page of core `tgt`; a write is an arrival
of each lane with its bytes. -/
structure NetArr where
  id : Nat
  core : Nat
  slot : Nat
  tgt : Nat
  off : Nat
  lanes : List (Nat × BitVec 32)
  wr : Bool
  deriving DecidableEq, Repr

/-- A cluster barrier (R315): `msk` and `rpt` list cores; a saved member team is listed as 2^20 + its team number. `vis` is the count that
the released waiters see. -/
structure ClusBar where
  ph : BitVec 16
  vis : BitVec 16
  msk : List Nat
  rpt : List Nat
  loss : Bool
  own : Option Nat
  deriving DecidableEq, Repr

/-- A die barrier (R369); `rep` lists the member teams that have reported. -/
structure DieBar where
  ph : BitVec 16
  vis : BitVec 16
  memb : List (Nat × Nat)
  rep : List (Nat × Nat)
  loss : Bool
  own : Option Nat
  deriving DecidableEq, Repr

/-- A package barrier (R438) with its link to a parent (R465) and the children that forwarded to it. -/
structure PkgBar where
  ph : BitVec 16
  vis : BitVec 16
  exp : Nat
  nextExp : Option Nat
  cnt : Nat
  loss : Bool
  own : Option Nat
  parent : Option (Nat × Nat)
  forwarded : Bool
  children : List (Nat × Nat)
  deriving DecidableEq, Repr

/-- A launch record as read from its 288 bytes (R349). -/
structure LaunchRec where
  ver : Nat
  nlv : Nat
  flags : BitVec 8
  win : Nat
  l1 : Nat
  spad : Nat
  teams : Nat
  entry : Nat
  roles : List (BitVec 64)
  srseed : BitVec 64
  tvec : BitVec 64
  tmask : BitVec 64
  fmbox : BitVec 64
  pinpool : Nat
  pincnt : Nat
  cbn : Nat
  dbn : Nat
  join : Nat
  tarimg : Nat
  tdimg : Nat
  unimg : Nat
  ppt : Nat
  pptn : Nat
  bars : List (BitVec 32)
  levels : List (BitVec 64)
  rsvZero : Bool
  deriving DecidableEq, Repr

/-- A launch of the launch tables (R351, R354, R365). Its teams are generated by instances of `lv1`: per die, `next` is the next instance
to look at, and `opened` lists the instances passed over or begun, with the teams of each that have been placed (die, instance, teams).
`images` are the images read at `launch` in pages of other packages; `shares` the packages whose share has not ended (R466). -/
structure Launch where
  num : Nat
  die : Nat
  ctx : Nat
  world : Bool
  prio : Nat
  /-- the launch record as read at `launch`, and its address (R353) -/
  record : LaunchRec
  va : Nat
  cbase : Nat
  dbase : Nat
  next : List Nat
  opened : List (Nat × Nat × Nat)
  generated : List Nat
  ended : List Nat
  images : List (Nat × List Byte)
  /-- the package that the share is of, for a share of another package's launch -/
  share : Option Nat
  shares : List Nat
  done : Bool
  deriving DecidableEq, Repr

/-- A continuation record in a queue (R357, R359). -/
structure ContRec where
  code : Nat
  roff : Nat
  frame : Nat
  join : Nat
  shape : BitVec 64
  ctx : Nat
  launch : Nat
  prio : Nat
  cycle : Nat
  aged : Bool
  ranges : List (Bool × Nat × Nat)
  deriving DecidableEq, Repr

/-- A dispatch command (R374): the captured operands. -/
structure DispCmd where
  id : Nat
  core : Nat
  slot : Nat
  ctx : Nat
  tok : Desc
  sco : Desc
  tokw : Nat
  choice : Nat
  desc : List Byte
  n : Nat
  round : Nat
  bar : Option Nat
  started : Bool
  /-- the next token, and the bytes counted toward each die (R375) -/
  next : Nat
  bytes : List Nat
  /-- cause and address of an abort -/
  abort : Option (Nat × Nat)
  /-- per die: the tokens sent, in order, not yet acknowledged -/
  due : List (List Nat)
  /-- what another package has answered of the next token's row (R375, R458), and whether a request for more is outstanding -/
  got : List Byte
  asked : Bool
  deriving DecidableEq, Repr

/-- A saved team as the scheduler keeps it (R295, R297, R356): its image, and what is not in the image. -/
structure SavedTeam where
  id : Nat
  image : List Byte
  /-- the image lies in memory, written by `ctxsave` -/
  inMemory : Bool
  /-- what the scheduler and the team frame keep: launch, frame, barriers, ranges, cursor; the fields that the image holds are empty -/
  team : Team
  core : Nat
  l1kib : Nat
  fused : Bool
  /-- completion updates for the saved team, in order: barrier, bytes, loss (R436) -/
  arrivals : List (Nat × Nat × Bool)
  /-- the cores of the rings of the saved completion pushes, in their order in the image; none for the team's own (R269) -/
  pushes : List (Option Nat)
  /-- copies stopped in the side log, and dispatch commands kept (R377) -/
  copies : List EngCmd
  disp : List DispCmd
  /-- the windows of its fibres: `FID`, lane and base (R38) -/
  windows : List (Nat × Nat × Nat)
  deriving DecidableEq, Repr

/-- A token on its way to an ingress unit (R380). -/
structure Token where
  id : Nat
  cmd : Nat
  src : Nat
  ctx : Nat
  round : Nat
  t : Nat
  g : Nat
  desc : List Byte
  scores : List (BitVec 32)
  payload : List Byte
  deriving DecidableEq, Repr

/-- An acknowledgement on its way back (R375): die, token, refused count, or the cause of an abort. -/
structure TokAck where
  id : Nat
  cmd : Nat
  die : Nat
  t : Nat
  refused : Nat
  abort : Option (Nat × Nat)
  deriving DecidableEq, Repr

/-- A join counter that has fired (R366) and whose record, or its range block, lies in another package: the context, the launch, the die of
the decrement, `TGT`, `NEXT`, and what has been read. -/
structure NextRead where
  id : Nat
  ctx : Nat
  launch : Nat
  die : Nat
  tgt : Nat
  next : Nat
  got : List (Nat × List Byte)
  deriving DecidableEq, Repr

/-- A compute die (R13, R342, R359, R369, R375, R380, R390, R401). -/
structure Die where
  cycle : Nat
  cqbase : BitVec 64
  cqlog : BitVec 64
  queues : List (List ContRec)
  /-- records that join counters have fired and that wait for room in their queue (R366) -/
  firing : List ContRec
  /-- counters fired for a record of another package that is being read (R366) -/
  nexts : List NextRead
  /-- per priority: the next item is the queue's, not a launch's (R360) -/
  altQueue : List Bool
  serial : BitVec 16
  dbars : List (Nat × DieBar)
  dispq : List DispCmd
  tokens : List Token
  tokAcks : List TokAck
  /-- per source die: context, round and token last performed (R380) -/
  marks : List (Nat × Nat × Nat × Nat)
  kdown : List (BitVec 64)
  kup : List (BitVec 64)
  wmreg : BitVec 64
  wmcore : List (BitVec 64)
  wmkiosk : BitVec 64
  clearing : List Nat
  /-- `INVADDR`, and the two counts of `INVSTS`, of the die walker (R343) -/
  invaddr : BitVec 64
  invIssued : BitVec 32
  invDone : BitVec 32
  deriving DecidableEq, Repr

/-- A context (R278, R279): privilege, world, root table. -/
structure Context where
  num : Nat
  supervisor : Bool
  world : Bool
  ptroot : BitVec 64
  deriving DecidableEq, Repr

/-- The CXL.io registers of an external master (R395). -/
structure MasterRegs where
  attached : Bool
  crva : BitVec 64
  crval : BitVec 64
  crnote : BitVec 64
  crsts : BitVec 64
  swsel : BitVec 64
  swdata : BitVec 64
  swerr : Bool
  /-- the model's own: the answer of the last CXL.mem access or register read, none for an error response or poison -/
  answer : Option (List Byte)
  deriving DecidableEq, Repr

/-- A group-table entry as read (R413, R414). -/
structure Group where
  nmem : Nat
  kind : Nat
  efmt : BitVec 8
  ver : Nat
  ctx : Nat
  prog : Nat
  home : Nat
  tmo : Nat
  rbase : Nat
  gstr : Nat
  nsec : Nat
  pgrp : Nat
  pv : Bool
  pmem : Nat
  ppkg : Nat
  cmpl : BitVec 64
  rsvZero : Bool
  members : List (BitVec 32)
  deriving DecidableEq, Repr

/-- A raw contribution of a slot (R423): one FP32 value per present element, and whether it is poisoned. -/
structure Raw where
  m : Nat
  vals : List (Option (BitVec 32))
  poison : List Bool
  deriving DecidableEq, Repr

/-- A slot of a porter, or a spill slot of port 50 (R423, R426). -/
structure Slot where
  grp : Nat
  ver : Nat
  off : Nat
  nxt : Nat
  bmp : List Nat
  acc : List (Option (BitVec 32))
  poison : List Bool
  raw : List Raw
  deriving DecidableEq, Repr

/-- A running handler context (R412): BPC, `g0` to `g15`, SL as the key's presence, its packet, its group's copy, instructions run. -/
structure Handler where
  bpc : Nat
  g : List (BitVec 64)
  sl : Bool
  pkt : Packet
  group : Group
  count : Nat
  /-- an invalidation covers the copy (R416) -/
  stale : Bool
  deriving DecidableEq, Repr

/-- A porter (R411, R429). -/
structure Porter where
  words : List (Nat × BitVec 32)
  running : Bool
  hlt : Bool
  err : Nat
  fpc : Nat
  psaddr : Nat
  dup : Nat
  refused : Nat
  spill : Nat
  drop : Nat
  handlers : List Handler
  slots : List Slot
  marks : List (Nat × Nat × Nat)
  /-- the packets of handlers that met a porter fault (R424) -/
  held : List Packet
  input : List Packet
  /-- cached group copies (R415) -/
  groups : List (Nat × Group)
  deriving DecidableEq, Repr

/-- The Forum's counters of a group and version (R425, R437): sectors counted, deliveries sent, accepted, refused, and an update that
waits for acknowledgements. -/
structure CmplCount where
  grp : Nat
  ver : Nat
  n : Nat
  sent : Nat
  accepted : Nat
  refused : Nat
  due : Option Group
  deriving DecidableEq, Repr

/-- A chunk of a graph (R442), as its 64 bytes. -/
structure Chunk where
  terms : List (BitVec 64)
  form : Nat
  act : Nat
  bsel : Nat
  done : Nat
  sport : Nat
  rsvZero : Bool
  len : Nat
  soff : Nat
  doff : Nat
  deriving DecidableEq, Repr

/-- A replay in progress (R445); `sent` counts the sectors of each `PUT` chunk that have been accepted. -/
structure Replay where
  recAddr : Nat
  bases : List Nat
  fired : List Nat
  completed : List Nat
  failed : List (Nat × Nat)
  sent : List (Nat × Nat)
  cancelled : Bool
  deriving DecidableEq, Repr

/-- A loaded chunk graph with its counters (R442, R443). -/
structure Graph where
  slot : Nat
  ctx : Nat
  cmpl : BitVec 64
  chunks : List Chunk
  counters : List Nat
  replay : Option Replay
  deriving DecidableEq, Repr

/-- What a participant of a round has come to (R447). -/
inductive RoundSt where
  | sent
  | preparing
  | ready (aborted : Nat)
  | refused
  | dropped
  | committed (aborted : Nat)
  deriving DecidableEq, Repr

/-- An entry of a round (R446). -/
structure RoundEnt where
  grp : Nat
  pkg : Nat
  nmem : Nat
  members : List (BitVec 32)
  st : RoundSt
  deriving DecidableEq, Repr

/-- A participation of this package in a round (R447): the leading package, the group, the new version and members. -/
structure Part where
  src : Nat
  grp : Nat
  newver : Nat
  members : List (BitVec 32)
  ready : Bool
  deriving DecidableEq, Repr

/-- The agreement round in progress (R446, R447). -/
structure Round where
  addr : Nat
  newver : Nat
  tmo : Nat
  cmpl : BitVec 64
  ents : List RoundEnt
  decided : Option Bool
  deriving DecidableEq, Repr

/-- What an outstanding request to another package is for (R458). -/
inductive RemoteFor where
  | load (core : Nat) (l : Load)
  | fetch (core ctx va n : Nat)
  /-- the call record that a `ret` reads: the pair *sp* and its new value (R149) -/
  | ret (core slot fid : Nat) (d : BitVec 8) (sp : BitVec 64) (va : Nat)
  | record (core slot fid va n : Nat)
  /-- a piece of a record that a join counter enqueues (R366), for the read with a number on a die -/
  | next (die id ctx va n : Nat)
  | atom (core slot : Nat) (a : Atomic)
  | sb (core : Nat) (e : SBEntry)
  | copy (core cmd : Nat)
  /-- a part of a token row, for a dispatch command of a die (R375) -/
  | row (die cmd ctx va n : Nat)
  | stage (core slot fid : Nat) (w : StagedReq)
  | prepare (core slot fid : Nat)
  | apply (core slot fid : Nat)
  deriving DecidableEq, Repr

/-- An outstanding request of this package (R453-R460): target, address, physical plane, SO sequence number, purpose. -/
structure RemoteOut where
  id : Nat
  pkg : Nat
  pa : Nat
  plane : Nat
  seq : Option Nat
  what : RemoteFor
  deriving DecidableEq, Repr

/-- Staging held for a region of another package (R462, R463). -/
structure Staging where
  src : Nat
  rgn : Nat
  fgrp : Nat
  writes : List StagedReq
  ready : Bool
  deriving DecidableEq, Repr

/-- What the package has sent to another package or a host, the model's own record of it: the answer to a request by its tag; an arrival
at, or a release of, a package barrier (R465); a collective packet (R417); a share of a launch with its record (R466), and the answer
that one has ended; the acknowledgement of a delivery (R437); the messages of an agreement round (R447); the answers to a region's
messages, and its discard (R463). -/
inductive SentMsg where
  | answer (tag : Nat) (ans : RemoteAns)
  | barrierArrival (num child : Nat) (loss : Bool)
  | barrierRelease (num : Nat) (loss : Bool)
  | packet (p : Packet)
  | launchShare (launch ctx : Nat) (record : List Byte)
  | shareEnded (launch : Nat)
  | deliveryAck (grp ver : Nat) (accepted : Bool)
  | prepare (grp newver tmo : Nat) (members : List (BitVec 32))
  | roundAnswer (grp : Nat) (ans : RoundAns)
  | commit (grp newver : Nat) (members : List (BitVec 32))
  | roundAbort (grp : Nat)
  | region (rgn : Nat) (ans : RemoteAns)
  | discard (rgn : Nat)
  deriving DecidableEq, Repr

/-- The Forum (R386-R466). -/
structure Forum where
  pkgstate : Nat
  ownState : Nat
  owner : BitVec 2
  ownTgt : BitVec 2
  epoch : BitVec 16
  masters : List MasterRegs
  /-- the system windows of the 16 cores of the host complex (R10, R400) -/
  hostWins : List MasterRegs
  /-- context, virtual-address bits [55:3], and the waiter, in park order (R391) -/
  crier : List (Nat × Nat × Crier)
  wakeSerial : BitVec 32
  wmbulk : BitVec 64
  wmport : BitVec 64
  clearing : List Nat
  watts : BitVec 16
  temps : BitVec 48
  thrcyc : BitVec 64
  softcnt : BitVec 64
  uecnt : BitVec 32
  refusedHost : BitVec 32
  /-- spare stock in use (R18): 2^16 * kind + unit, and the count; kind 0 cores of a cluster, 1 lane banks of a core, 2 channels of a
  stack, 3 lanes of a die or of an external port, 4 lanes of the mesh of a cluster, 5 rows of a core's SRAM or (4096 + stack) of a stack -/
  sparesUsed : List (Nat × Nat)
  /-- the remap tables (R322): a logical core that a spare stands in for, and the physical one of its cluster, 0 to 263 -/
  remap : List (Nat × Nat)
  /-- no team has been set up since a launch was last accepted or ended: remaps of cores take effect (R18, R322) -/
  boundary : Bool
  /-- the clusters of mesh links and router lanes that have failed and are replaced at the next launch boundary (R323) -/
  meshFailed : List Nat
  /-- reports through the management telemetry, counted -/
  reports : Nat
  gtbase : BitVec 64
  spillbase : BitVec 64
  gtDone : BitVec 32
  gtIssued : BitVec 19
  /-- group invalidations in progress: every group, or one -/
  gtPending : List (Option Nat)
  porters : List Porter
  /-- packets on their way to their home porter -/
  packets : List (Nat × Packet)
  counts : List CmplCount
  spills : List Slot
  pbars : List (Nat × PkgBar)
  graphs : List Graph
  round : Option Round
  parts : List Part
  fgrp : BitVec 6
  pkg : BitVec 10
  /-- the other packages of the fabric domain with their groups, which the secure firmware loads (R452, notes/assumptions/6.md) -/
  peers : List (Nat × Nat)
  plMap : BitVec 8
  plDead : BitVec 4
  plQsc : BitVec 4
  portsUp : List Bool
  exa : List (BitVec 64)
  exc : List (BitVec 64)
  out : List RemoteOut
  /-- per target package: the next SO sequence number (R459) -/
  sendSeq : List (Nat × Nat)
  /-- per source package: the next SO sequence number to perform; the requests held, with the cause of a refused one, else 0 -/
  recvSeq : List (Nat × Nat)
  reorder : List (RemoteReq × Nat)
  /-- regions that were ready under an export window's earlier value: the window, source package and region (R457) -/
  excHold : List (Nat × Nat × Nat)
  /-- dead planes whose requests have not been moved yet, with the targets whose close is outstanding (R455) -/
  closing : List (Nat × List Nat)
  staging : List Staging
  /-- what has been sent, with the package or host, newest last -/
  sent : List (Nat × SentMsg)
  deriving DecidableEq, Repr

/-- What moves next, the model's own input (notes/assumptions/3.md): a gang of a core by its place in the gang table, a handler of a
porter by its place, a machine event, idle cycles of a die, the landing of a fibre's known results, or what is given from outside
(notes/assumptions/6.md): a context, or the other packages of the fabric domain with their groups. -/
inductive Act where
  | gang (core idx : Nat)
  | porter (p idx : Nat)
  | event (i : Instr) (p : Params)
  | idle (die n : Nat)
  | land (core slot fid : Nat)
  | context (x : Context)
  | peers (l : List (Nat × Nat))
  deriving DecidableEq, Repr

/-- On whose behalf an instruction runs: a gang of a core, by team slot and fibres. -/
structure Issuer where
  core : Nat
  slot : Nat
  fids : List Nat
  deriving DecidableEq, Repr

/-- The whole package. -/
structure State where
  mem : List Host.Cell
  /-- poisoned sectors of device memory, by sector address (R405) -/
  poison : List Nat
  /-- cores by cluster * 256 + core; a core not listed is as at reset -/
  cores : List (Nat × Core)
  cbars : List (Nat × ClusBar)
  dies : List Die
  contexts : List Context
  launches : List Launch
  saved : List SavedTeam
  spOps : List SpOp
  netArr : List NetArr
  reports : List Report
  qops : List QOp
  /-- invalidations in progress, in the order accepted: the die written, first address, granules (none: everything), context (none: all) -/
  invPending : List (Nat × Nat × Option Nat × Option Nat)
  forum : Forum
  /-- the model's own fields (log 3): the agenda, the hardware steps in flight, whose turn it is, the issuer of the current
  instruction, and the counters that name items and free values -/
  agenda : List Act
  work : List (Instr × Params)
  turn : Bool
  cur : Issuer
  /-- the parameters of the machine event that runs -/
  par : Params
  curPorter : Nat × Nat
  uid : Nat
  freeCount : Nat
  deriving DecidableEq, Repr

/-- Why a run stops with a fault. -/
inductive Fault where
  /-- Raised by no meaning: every trap of the spec is a next state. Kept for a step that names a core, die or porter that the package
  does not have (safe: no such step exists). -/
  | noSuchAgent
  deriving DecidableEq, Repr

/-- Why a step is refused. -/
inductive Refusal where
  /-- Raised by an arm of the dispatch that has no meaning yet (safe). -/
  | notModelled (mnemonic : String)
  deriving DecidableEq, Repr

/-- A core right after reset: 64 KiB of L1 (R174), no last context (R176), everything else empty. -/
def Core.reset : Core where
  teams := []
  gangs := []
  spad := []
  l1kib := 64
  fused := false
  lastCtx := none
  l1 := []
  sb := []
  sidelog := []
  seq := 0
  ranges := []
  eqmx := []
  eqcp := []
  eqgx := []
  bankq := []
  portq := []
  loads := []
  atomics := []
  unis := []
  acks := []
  tlb := []
  walkFail := []
  ifetch := []
  rrecs := []
  notices := []
  carve := []
  marked := false
  banksMarked := []
  issued := (0, 0)
  yielded := none

/-- A die right after reset (R13, R359, R390, R401). -/
def Die.reset : Die where
  cycle := 0
  cqbase := 0
  cqlog := 0
  queues := [[], [], [], []]
  firing := []
  nexts := []
  altQueue := List.replicate 4 false
  serial := 0
  dbars := []
  dispq := []
  tokens := []
  tokAcks := []
  marks := []
  kdown := List.replicate 8 0
  kup := List.replicate 8 0
  wmreg := 0
  wmcore := List.replicate 8 0
  wmkiosk := 0
  clearing := []
  invaddr := 0
  invIssued := 0
  invDone := 0

/-- The registers of a master right after reset (R395, R400). -/
def MasterRegs.reset : MasterRegs where
  attached := false
  crva := 0
  crval := 0
  crnote := 0
  crsts := 0
  swsel := 0
  swdata := 0
  swerr := false
  answer := none

/-- A porter right after reset (R429, R430): every word of the program store is 0. -/
def Porter.reset : Porter where
  words := []
  running := false
  hlt := false
  err := 0
  fpc := 0
  psaddr := 0
  dup := 0
  refused := 0
  spill := 0
  drop := 0
  handlers := []
  slots := []
  marks := []
  held := []
  input := []
  groups := []

/-- The Forum right after reset (R396, R400, R401, R408, R416, R441, R451, R455, R457). -/
def Forum.reset : Forum where
  pkgstate := 0
  ownState := 0
  owner := 0
  ownTgt := 0
  epoch := 0
  masters := List.replicate 4 MasterRegs.reset
  hostWins := List.replicate 16 MasterRegs.reset
  crier := []
  wakeSerial := 0
  wmbulk := 0
  wmport := 0
  clearing := []
  watts := 0
  temps := 0
  thrcyc := 0
  softcnt := 0
  uecnt := 0
  refusedHost := 0
  sparesUsed := []
  remap := []
  boundary := true
  meshFailed := []
  reports := 0
  gtbase := 0
  spillbase := 0
  gtDone := 0
  gtIssued := 0
  gtPending := []
  porters := List.replicate 51 Porter.reset
  packets := []
  counts := []
  spills := []
  pbars := []
  graphs := []
  round := none
  parts := []
  fgrp := 0
  pkg := 0
  peers := []
  plMap := 0xE4
  plDead := 0
  plQsc := 0
  portsUp := List.replicate 36 false
  exa := List.replicate 64 0
  exc := List.replicate 64 0
  out := []
  sendSeq := []
  recvSeq := []
  reorder := []
  excHold := []
  closing := []
  staging := []
  sent := []

/-- The package right after reset: bring-up stage 0, no team anywhere, nothing in flight. -/
def State.reset : State where
  mem := []
  poison := []
  cores := []
  cbars := []
  dies := List.replicate 8 Die.reset
  contexts := []
  launches := []
  saved := []
  spOps := []
  netArr := []
  reports := []
  qops := []
  invPending := []
  forum := Forum.reset
  agenda := []
  work := []
  turn := false
  cur := ⟨0, 0, []⟩
  par := {}
  curPorter := (0, 0)
  uid := 0
  freeCount := 0

end Sys2Proof.Machine
end

