-- ==== Sys2Proof/Machine/Mem.lean ====
section
/-!
DEFINITION. Sparse storage in one canonical form, byte order, and keyed lists: the small operations that memory, scratchpad, tiles,
descriptor tables and program stores are built on.
-/
namespace Sys2Proof.Machine

open Sys2Proof

variable {α : Type}

/-- The value at a key of a sparse list: the listed value, `d` where none is listed. -/
def sparseGet (d : α) : List (Nat × α) → Nat → α
  | [], _ => d
  | (a, v) :: r, k => if k = a then v else if k < a then d else sparseGet d r k

/-- Store at a key: keys stay strictly rising and no listed value is `d`. -/
def sparsePut [DecidableEq α] (d : α) : List (Nat × α) → Nat → α → List (Nat × α)
  | [], k, v => if v = d then [] else [(k, v)]
  | (a, w) :: r, k, v =>
    if k = a then (if v = d then r else (k, v) :: r)
    else if k < a then (if v = d then (a, w) :: r else (k, v) :: (a, w) :: r)
    else (a, w) :: sparsePut d r k v

/-- The canonical form above a bound: strictly rising keys, no listed value `d`. -/
def sparseWfFrom [DecidableEq α] (d : α) : Nat → List (Nat × α) → Bool
  | _, [] => true
  | lo, (a, v) :: r => decide (lo ≤ a) && decide (v ≠ d) && sparseWfFrom d (a + 1) r

def sparseWf [DecidableEq α] (d : α) (l : List (Nat × α)) : Bool := sparseWfFrom d 0 l

/-- What a byte that nothing has written reads as (notes/assumptions/1.md). DESIGN CHOICE: the spec gives memory no reset contents. -/
def unwrittenByte : Byte := 0

/-- The canonical form of a memory: addresses strictly rising, no entry equal to what an unlisted address reads as. -/
abbrev Memory.wf (m : List Host.Cell) : Bool := sparseWf unwrittenByte m

def Memory.get (m : List Host.Cell) (a : Nat) : Byte := sparseGet unwrittenByte m a

def Memory.put (m : List Host.Cell) (a : Nat) (b : Byte) : List Host.Cell := sparsePut unwrittenByte m a b

/-- `n` bytes from address `a` upward. -/
def Memory.bytes (m : List Host.Cell) (a : Nat) : Nat → List Byte
  | 0 => []
  | n + 1 => Memory.get m a :: Memory.bytes m (a + 1) n

/-- Store bytes from address `a` upward. -/
def Memory.putBytes (m : List Host.Cell) (a : Nat) : List Byte → List Host.Cell
  | [] => m
  | b :: r => Memory.putBytes (Memory.put m a b) (a + 1) r

/-- The little-endian number of a byte string (R4). -/
def leNat : List Byte → Nat
  | [] => 0
  | b :: r => b.toNat + 256 * leNat r

/-- The `n` low bytes of a number, lowest first (R4). -/
def leBytes (v : Nat) : Nat → List Byte
  | 0 => []
  | n + 1 => BitVec.ofNat 8 v :: leBytes (v / 256) n

/-- `n` bytes at `a` as a little-endian number. -/
def Memory.read (m : List Host.Cell) (a n : Nat) : Nat := leNat (Memory.bytes m a n)

/-- Store the `n` low bytes of `v` at `a`. -/
def Memory.write (m : List Host.Cell) (a n v : Nat) : List Host.Cell := Memory.putBytes m a (leBytes v n)

/-- Store the bytes of `v` whose bit of `mask` is set. -/
def Memory.writeMasked (m : List Host.Cell) (a : Nat) (mask v : Nat) : Nat → List Host.Cell
  | 0 => m
  | n + 1 =>
    Memory.writeMasked (if mask.testBit 0 then Memory.put m a (BitVec.ofNat 8 v) else m) (a + 1) (mask / 2) (v / 256) n

/-- A part of a byte string as a number. -/
def field (bs : List Byte) (off n : Nat) : Nat := leNat ((bs.drop off).take n)

/-- Bytes `[off, off + n)` of a byte string replaced by the bytes of `v`. -/
def putField (bs : List Byte) (off n v : Nat) : List Byte := bs.take off ++ leBytes v n ++ bs.drop (off + n)

/-- Bits `[lo, lo + n)` of a number. -/
def bits (v lo n : Nat) : Nat := v / 2 ^ lo % 2 ^ n

/-- A number read as signed in `n` bits. -/
def toSigned (n v : Nat) : Int := if v % 2 ^ n < 2 ^ (n - 1) then (v % 2 ^ n : Nat) else ((v % 2 ^ n : Nat) : Int) - 2 ^ n

/-- The number of set bits of a value, counted in `n` bits. -/
def popCount (v : Nat) : Nat → Nat
  | 0 => 0
  | n + 1 => (if v.testBit n then 1 else 0) + popCount v n

/-- The numbers below `n` whose bit is set. -/
def setBits (v n : Nat) : List Nat := (List.range n).filter v.testBit

/-- A number with the given bits set. -/
def maskOf (l : List Nat) : Nat := l.foldl (fun m i => m ||| 2 ^ i) 0

/-- The value of a keyed list, `d` where the key is absent. -/
def assocGet (d : α) : List (Nat × α) → Nat → α
  | [], _ => d
  | (a, v) :: r, k => if a = k then v else assocGet d r k

/-- Replace the value of a key, or add the key at the end. -/
def assocPut : List (Nat × α) → Nat → α → List (Nat × α)
  | [], k, v => [(k, v)]
  | (a, w) :: r, k, v => if a = k then (k, v) :: r else (a, w) :: assocPut r k v

/-- Apply `f` to the entries that `p` selects. -/
def modWhere (p : α → Bool) (f : α → α) (l : List α) : List α := l.map fun x => if p x then f x else x

/-- Element `n` replaced. -/
def setAt (l : List α) (n : Nat) (v : α) : List α := l.set n v

/-- Element `n` changed by `f`. -/
def modAt (l : List α) (n : Nat) (f : α → α) : List α := l.modify n f

/-- Element `n`, `d` beyond the end. -/
def nth (d : α) (l : List α) (n : Nat) : α := l.getD n d

/-- Insert by a rising key, after equal keys. -/
def insertBy (key : α → Nat) (x : α) : List α → List α
  | [] => [x]
  | y :: r => if key x < key y then x :: y :: r else y :: insertBy key x r

/-- Sort by a rising key, equal keys in their order. -/
def sortBy (key : α → Nat) (l : List α) : List α := l.foldl (fun acc x => insertBy key x acc) []

end Sys2Proof.Machine
end

