-- ==== Sys2Proof/Machine/Access.lean ====
section
/-!
DEFINITION. Reading and changing the parts of the state by name: cores, teams, fibres, dies, and the lists of work and input.
-/
namespace Sys2Proof.Machine

open Sys2Proof

def State.core (s : State) (c : Nat) : Core := assocGet Core.reset s.cores c

def State.setCore (s : State) (c : Nat) (k : Core) : State := { s with cores := assocPut s.cores c k }

def State.modCore (s : State) (c : Nat) (f : Core → Core) : State := s.setCore c (f (s.core c))

def Core.team? (k : Core) (slot : Nat) : Option Team := k.teams.find? (·.slot == slot)

def Core.modTeam (k : Core) (slot : Nat) (f : Team → Team) : Core := { k with teams := modWhere (·.slot == slot) f k.teams }

def Team.fibre? (t : Team) (fid : Nat) : Option Fibre := t.fibres.find? (·.fid == fid)

def Team.modFibre (t : Team) (fid : Nat) (f : Fibre → Fibre) : Team := { t with fibres := modWhere (·.fid == fid) f t.fibres }

/-- The fibres of a team that `fids` names, changed. -/
def Team.modGang (t : Team) (fids : List Nat) (f : Fibre → Fibre) : Team :=
  { t with fibres := modWhere (fun g => fids.contains g.fid) f t.fibres }

def State.team? (s : State) (c slot : Nat) : Option Team := (s.core c).team? slot

def State.modTeam (s : State) (c slot : Nat) (f : Team → Team) : State := s.modCore c (·.modTeam slot f)

def State.fibre? (s : State) (c slot fid : Nat) : Option Fibre := (s.team? c slot).bind (·.fibre? fid)

def State.modFibre (s : State) (c slot fid : Nat) (f : Fibre → Fibre) : State := s.modTeam c slot (·.modFibre fid f)

/-- The cluster of a core (R104). -/
def clusOf (c : Nat) : Nat := c / 256

/-- The compute die of a core (R10). -/
def dieOf (c : Nat) : Nat := c / 512

def State.die (s : State) (d : Nat) : Die := nth Die.reset s.dies d

def State.modDie (s : State) (d : Nat) (f : Die → Die) : State := { s with dies := modAt s.dies d f }

/-- The cycle counter of the die of a core (R13). -/
def State.now (s : State) (c : Nat) : Nat := (s.die (dieOf c)).cycle

/-- The parts of the Forum, by one update. -/
def State.modForum (s : State) (f : Forum → Forum) : State := { s with forum := f s.forum }

def State.modPorter (s : State) (p : Nat) (f : Porter → Porter) : State :=
  s.modForum fun g => { g with porters := modAt g.porters p f }

def State.porter (s : State) (p : Nat) : Porter := nth Porter.reset s.forum.porters p

/-- A step of the hardware that becomes possible (notes/assumptions/3.md). -/
def State.spawn (s : State) (i : Instr) (p : Params) : State := { s with work := s.work ++ [(i, p)] }

/-- A step of the hardware that becomes possible, once. -/
def State.spawnOnce (s : State) (i : Instr) (p : Params) : State := if s.work.contains (i, p) then s else s.spawn i p

/-- A fresh number for an item in flight. -/
def State.fresh (s : State) : Nat × State := (s.uid, { s with uid := s.uid + 1 })

/-- A report through the management telemetry. -/
def State.report (s : State) : State := s.modForum fun g => { g with reports := g.reports + 1 }

/-- The next free value (notes/assumptions/12.md). -/
def State.free (s : State) : BitVec 64 × State := (Config.freeValue s.freeCount, { s with freeCount := s.freeCount + 1 })

/-- The context of a number; one not listed is a non-secure user context without a root table (notes/assumptions/6.md). -/
def State.context (s : State) (n : Nat) : Context := (s.contexts.find? (·.num == n)).getD ⟨n, false, false, 0⟩

/-- The lowest-numbered core of a die's clusters, and every core of the package, in number order. -/
def coresOfDie (d : Nat) : List Nat := (List.range 512).map (512 * d + ·)

/-- The cores that hold anything, in number order. -/
def State.coreNums (s : State) : List Nat := sortBy id (s.cores.map (·.1))

/-- The teams of the package with their cores. -/
def State.allTeams (s : State) : List (Nat × Team) := s.coreNums.flatMap fun c => (s.core c).teams.map (c, ·)

/-- A fibre of a role in a team. -/
def Team.roleFibres (t : Team) (r : Role) : List Fibre := t.fibres.filter (·.role == r)

/-- `ROLE` of R94. -/
def roleNum : Role → Nat
  | .copy => 0
  | .matrix => 1
  | .vector => 2
  | .general => 3

def roleOf (n : Nat) : Role := if n = 0 then .copy else if n = 1 then .matrix else if n = 2 then .vector else .general

/-- The landed value of uniform register `k` of a role (R102). -/
def Team.ureg (t : Team) (r : Role) (k : Nat) : BitVec 32 := nth 0 t.uregs (64 * roleNum r + k)

def Team.setUreg (t : Team) (r : Role) (k : Nat) (v : BitVec 32) : Team := { t with uregs := setAt t.uregs (64 * roleNum r + k) v }

/-- The landed value of `v`n; 0 beyond the window. -/
def Fibre.reg (f : Fibre) (n : Nat) : BitVec 32 := nth 0 f.regs n

def Fibre.setReg (f : Fibre) (n : Nat) (v : BitVec 32) : Fibre := { f with regs := setAt f.regs n v }

/-- `p`n; `p0` reads as 1 (R95). -/
def Fibre.pred? (f : Fibre) (n : Nat) : Bool := n == 0 || f.pred.getLsbD n

/-- A write of `p`n; a write of `p0` is discarded (R95). -/
def Fibre.setPred (f : Fibre) (n : Nat) (v : Bool) : Fibre :=
  if n = 0 then f else { f with pred := if v then f.pred ||| (1#16 <<< n) else f.pred &&& ~~~(1#16 <<< n) }

/-- A write of the predicate word; bit 0 stays 1 (R95). -/
def Fibre.setPredWord (f : Fibre) (v : BitVec 16) : Fibre := { f with pred := v ||| 1#16 }

/-- A fibre at its creation (R94, R95, R98, R148). -/
def Fibre.blank : Fibre where
  fid := 0
  role := .copy
  pc := 0
  pred := 1
  wbase := 0
  wsize := 8
  lane := 0
  rc := 0
  srstep := 0
  regs := List.replicate 8 0
  inh := false
  msp := false
  mspm := 0
  bmem := 0
  barr := 0
  bpar := 0
  bwait := false
  unack := 0
  pend := []
  rep := none
  wait := none
  run := .running
  bpskip := false
  pendTrap := none
  region := none
  stepping := false
  ready := 0
  logWait := 0
  sending := none
  bond := 0

/-- A team slot with nothing set up: tariff, counters, barriers and uniform registers 0, row lists all ones (R70, R87, R102, R235, R270,
R278, R299, R378). -/
def Team.blank : Team where
  slot := 0
  ctx := 0
  world := false
  launch := 0
  cont := false
  teamNo := 0
  lvidx := List.replicate 8 0
  frame := 0
  matrix := false
  join := 0
  ranges := []
  spadBase := 0
  spadSize := 0
  bars := List.replicate 16 ⟨0, 0, 0, 0, 0, 0, false⟩
  uregs := List.replicate 256 0
  upend := []
  tariff := List.replicate 48 0
  qsets := List.replicate 4 ⟨0, 0, 0, 0, 0⟩
  qadds := []
  tdesc := []
  tiles := []
  rowLists := List.replicate 8 (List.replicate 32 0xFFFFFFFF)
  cpfill := 0
  sbchk := false
  nantrap := false
  nanseen := false
  stopped := false
  tvec := 0
  tmask := 0
  srseed := 0
  fmbox := 0
  dbg := ⟨List.replicate 4 0, List.replicate 4 0, List.replicate 4 0, 0, false⟩
  nextFid := 0
  fibres := []
  preempt := none
  terminating := false
  killedAny := false
  cursor := ⟨0, 0, false, false, 0, 0, 0xFFFFFFFF, List.replicate 8 0, 0⟩

def Cause.code : Cause → Nat
  | .illegalOpcode => 1 | .reservedField => 2 | .stallShort => 3 | .nonuniform => 4 | .windowRange => 5 | .masksyncMismatch => 6
  | .roleViolation => 7 | .tariffIllegal => 8 | .descriptorIllegal => 9 | .nanFirst => 10 | .pageFault => 11 | .permitDenied => 12
  | .worldViolation => 13 | .queueCorrupt => 14 | .pinRevoked => 15 | .doubleFault => 16 | .regionAbort => 17 | .hostLost => 18
  | .misaligned => 19 | .breakpoint => 20 | .watchpoint => 21 | .step => 22 | .softwareTrap => 23 | .terminated => 24

/-- The causes that an outcome code of a translation or refusal stands for. -/
def Cause.ofCode (n : Nat) : Cause :=
  if n = 12 then .permitDenied else if n = 13 then .worldViolation else if n = 15 then .pinRevoked else if n = 19 then .misaligned
  else .pageFault

end Sys2Proof.Machine
end

