-- ==== Sys2Proof/Machine/Fp.lean ====
section
/-!
DEFINITION. Numbers and the format tariff (R70-R89): the fields and legality of an entry, exact values, decoding, encoding with one
rounding, the functions of R139, the generator of R82, and quantisation with scale selection (R86).
-/
namespace Sys2Proof.Machine

open Sys2Proof

/-- The fields of a tariff entry (R71); `w` is the width that `WID` codes, 0 for a reserved code. -/
structure Fmt where
  cls : Nat
  sgn : Bool
  w : Nat
  exw : Nat
  frw : Nat
  bias : Int
  spv : Nat
  ovf : Nat
  subn : Bool
  bsk : Nat
  ifl : Bool
  rfl : Bool
  rsv : Nat
  deriving DecidableEq, Repr

def Fmt.of (e : BitVec 64) : Fmt where
  cls := (e.extractLsb' 0 2).toNat
  sgn := e.getLsbD 2
  w := match (e.extractLsb' 3 5).toNat with
    | 1 => 4 | 2 => 6 | 3 => 8 | 4 => 16 | 5 => 32 | 6 => 64 | _ => 0
  exw := (e.extractLsb' 8 5).toNat
  frw := (e.extractLsb' 13 5).toNat
  bias := (e.extractLsb' 18 9).toInt
  spv := (e.extractLsb' 27 3).toNat
  ovf := (e.extractLsb' 30 2).toNat
  subn := e.getLsbD 32
  bsk := (e.extractLsb' 33 3).toNat
  ifl := e.getLsbD 36
  rfl := e.getLsbD 37
  rsv := (e.extractLsb' 38 26).toNat

def Fmt.sbit (t : Fmt) : Nat := if t.sgn then 1 else 0

/-- R73, negated. -/
def Fmt.legal (t : Fmt) : Bool :=
  t.rsv == 0 && t.cls != 3 && t.w != 0 && decide (t.spv ≤ 4) && decide (t.ovf ≤ 2) && decide (t.bsk ≤ 3) &&
  (if t.cls = 1 then
    t.exw == 0 && t.frw == 0 && t.bias == 0 && t.spv == 0 && t.ovf == 0 && !t.subn && !t.ifl && !t.rfl &&
      (t.bsk == 0 || decide (t.w ≤ 8))
  else
    decide (t.w ≤ 32) && t.sbit + t.exw + t.frw == t.w && decide (1 ≤ t.exw) && decide (t.exw ≤ 8) && decide (t.frw ≤ 23) &&
    !((t.spv == 3 || t.spv == 4) && (decide (t.exw < 2) || t.frw == 0)) &&
    !(t.ovf == 1 && t.spv != 2 && t.spv != 3) && !(t.ovf == 2 && t.spv == 0) &&
    (if t.cls = 0 then t.bsk == 0 || decide (t.w ≤ 8) else t.bsk == 0 && !t.ifl && !t.rfl && !(t.subn && t.frw == 0)))

/-- A format whose exponent 0 is an ordinary exponent, such as E8M0 (R77): it has no zero. -/
def Fmt.noZero (t : Fmt) : Bool := t.cls == 2 && t.frw == 0

/-- The bits of a magnitude, and the magnitude whose bits are all one. -/
def Fmt.magBits (t : Fmt) : Nat := t.w - t.sbit
def Fmt.magOnes (t : Fmt) : Nat := 2 ^ t.magBits - 1

/-- An exact value (R77): NaN, an infinity, or a signed fraction; the fraction 0 keeps its sign. -/
inductive Val where
  | nan
  | inf (s : Bool)
  | fin (s : Bool) (n d : Nat)
  deriving DecidableEq, Repr

/-- m * 2^k as a fraction. -/
def pow2Frac (m : Nat) (k : Int) : Nat × Nat := if 0 ≤ k then (m * 2 ^ k.toNat, 1) else (m, 2 ^ (-k).toNat)

def Val.pow2 (s : Bool) (m : Nat) (k : Int) : Val := .fin s (pow2Frac m k).1 (pow2Frac m k).2

def Val.isNan : Val → Bool
  | .nan => true
  | _ => false

def Val.neg : Val → Val
  | .nan => .nan
  | .inf s => .inf !s
  | .fin s n d => .fin (!s) n d

/-- The sign bit of a code. -/
def Fmt.signOf (t : Fmt) (c : Nat) : Bool := t.sgn && c.testBit (t.w - 1)

/-- The NaN codes of R76. -/
def Fmt.isNan (t : Fmt) (c : Nat) : Bool :=
  let mag := c % 2 ^ t.magBits
  match t.spv with
  | 1 | 2 => if t.sgn then c == 2 ^ (t.w - 1) else mag == t.magOnes
  | 3 => decide (mag / 2 ^ t.frw = 2 ^ t.exw - 1) && mag % 2 ^ t.frw != 0
  | 4 => mag == t.magOnes
  | _ => false

/-- The infinities of R76. -/
def Fmt.isInf (t : Fmt) (c : Nat) : Bool :=
  let mag := c % 2 ^ t.magBits
  match t.spv with
  | 2 => if t.sgn then mag == t.magOnes else mag == t.magOnes - 1
  | 3 => decide (mag / 2 ^ t.frw = 2 ^ t.exw - 1) && mag % 2 ^ t.frw == 0
  | _ => false

/-- The value of a finite magnitude code (R77). -/
def Fmt.magnitude (t : Fmt) (s : Bool) (mag : Nat) : Val :=
  let e := mag / 2 ^ t.frw
  let f := mag % 2 ^ t.frw
  if e = 0 && !t.noZero then
    if !t.subn || f = 0 then .fin s 0 1 else Val.pow2 s f (1 - t.bias - t.frw)
  else Val.pow2 s (2 ^ t.frw + f) (e - t.bias - t.frw)

/-- `Decode` of R77. -/
def Fmt.decode (t : Fmt) (code : Nat) : Val :=
  let c := code % 2 ^ t.w
  if t.cls = 1 then
    if t.sgn && c.testBit (t.w - 1) then .fin true (2 ^ t.w - c) 1 else .fin false c 1
  else if t.isNan c then .nan
  else if t.isInf c then .inf (t.signOf c)
  else t.magnitude (t.signOf c) (c % 2 ^ t.magBits)

/-- Counts of an instruction for a counter set (R87). -/
structure Cnt where
  ufl : Nat
  fls : Nat
  ovr : Nat
  nls : Nat
  deriving DecidableEq, Repr

def Cnt.zero : Cnt := ⟨0, 0, 0, 0⟩

def Cnt.add (a b : Cnt) : Cnt := ⟨a.ufl + b.ufl, a.fls + b.fls, a.ovr + b.ovr, a.nls + b.nls⟩

/-- The format has a code for negative zero (R76). -/
def Fmt.hasNegZero (t : Fmt) : Bool := t.sgn && !t.noZero && t.spv != 1 && t.spv != 2 && t.cls != 1

/-- A subnormal code (R78). -/
def Fmt.subnormal (t : Fmt) (c : Nat) : Bool :=
  let mag := c % 2 ^ t.magBits
  t.cls != 1 && t.subn && !t.isNan c && !t.isInf c && mag / 2 ^ t.frw == 0 && mag % 2 ^ t.frw != 0

/-- `DecodeIn` of R78 with its count. -/
def Fmt.decodeIn (t : Fmt) (code : Nat) : Val × Cnt :=
  let c := code % 2 ^ t.w
  if t.ifl && t.subnormal c then (.fin (t.signOf c && t.hasNegZero) 0 1, ⟨0, 1, 0, 0⟩) else (t.decode c, .zero)

/-- The magnitude code of `MaxF` (R76). -/
def Fmt.maxMag (t : Fmt) : Nat :=
  match t.spv with
  | 1 => if t.sgn then t.magOnes else t.magOnes - 1
  | 2 => if t.sgn then t.magOnes - 1 else t.magOnes - 2
  | 3 => (2 ^ t.exw - 1) * 2 ^ t.frw - 1
  | 4 => t.magOnes - 1
  | _ => t.magOnes

/-- `MaxF` (R79); the greatest value of an integer entry (R86). -/
def Fmt.maxF (t : Fmt) : Val := if t.cls = 1 then .fin false t.magOnes 1 else t.magnitude false t.maxMag

/-- `ZeroCode` (R79). -/
def Fmt.zeroCode (t : Fmt) (s : Bool) : Nat := if s && t.hasNegZero then 2 ^ (t.w - 1) else 0

/-- `NaNOut` (R81) with its count. -/
def Fmt.nanOut (t : Fmt) : Nat × Cnt :=
  match t.spv with
  | 1 | 2 => (if t.sgn then 2 ^ (t.w - 1) else t.magOnes, .zero)
  | 3 => ((2 ^ t.exw - 1) * 2 ^ t.frw + 2 ^ (t.frw - 1), .zero)
  | 4 => (t.magOnes, .zero)
  | _ => (t.zeroCode false, ⟨0, 0, 0, 1⟩)

/-- The code of a sign and a finite magnitude. -/
def Fmt.signed (t : Fmt) (s : Bool) (mag : Nat) : Nat := if s then 2 ^ (t.w - 1) + mag else mag

/-- The code of an infinity (R76). -/
def Fmt.infCode (t : Fmt) (s : Bool) : Nat :=
  match t.spv with
  | 2 => if t.sgn then t.signed s t.magOnes else t.magOnes - 1
  | _ => t.signed s ((2 ^ t.exw - 1) * 2 ^ t.frw)

/-- The mode as it acts on a magnitude (R79): RM codes of R48, `.rup` and `.rdn` turned by the sign. -/
inductive Dir where
  | nearest | zero | away | stochastic
  deriving DecidableEq, Repr

def dirOf (mode : Nat) (s : Bool) : Dir :=
  match mode with
  | 0 => .nearest
  | 1 => .zero
  | 2 => if s then .zero else .away
  | 3 => if s then .away else .zero
  | _ => .stochastic

/-- Whether `RoundOn` (R79) takes the greater neighbour, for a remainder `r` of `d` between two neighbours whose codes have bit 0 clear
or not. -/
def roundsUp (d : Dir) (sr r den : Nat) (loEven hiEven : Bool) : Bool :=
  if r = 0 then false
  else match d with
    | .nearest => decide (den < 2 * r) || (2 * r == den && (!loEven || hiEven))
    | .zero => false
    | .away => true
    | .stochastic => decide (sr < r * 2 ^ 32 / den)

/-- The fraction n/d in units of 2^k: whole units, and the remainder over a denominator. -/
def inUnits (n d : Nat) (k : Int) : Nat × Nat × Nat :=
  let x := if 0 ≤ k then (n, d * 2 ^ k.toNat) else (n * 2 ^ (-k).toNat, d)
  (x.1 / x.2, x.1 % x.2, x.2)

/-- floor(log2(n/d)). -/
def floorLog2 (n d : Nat) : Int :=
  let e : Int := (Nat.log2 n : Int) - Nat.log2 d
  if (inUnits n d e).1 = 0 then e - 1 else e

/-- `RoundOn` over the integers. -/
def roundInt (n d : Nat) (dir : Dir) (sr : Nat) : Nat :=
  let q := n / d
  if roundsUp dir sr (n % d) d (q % 2 == 0) (q % 2 == 1) then q + 1 else q

/-- The exponent of the smallest normal value, and that of the top binade. -/
def Fmt.minExp (t : Fmt) : Int := if t.noZero then -t.bias else 1 - t.bias
def Fmt.maxExp (t : Fmt) : Int := (t.maxMag / 2 ^ t.frw : Nat) - t.bias

/-- `RoundOn` over the extended magnitudes of an entry (R79), as a magnitude code, 0 standing for zero, and whether it is zero. -/
def Fmt.roundMag (t : Fmt) (n d : Nat) (dir : Dir) (sr : Nat) : Nat × Bool :=
  let e := min (max (floorLog2 n d) t.minExp) t.maxExp
  let first := if t.noZero then 0 else 2 ^ t.frw
  let below := (inUnits n d t.minExp).1 = 0
  if below && (!t.subn || t.noZero) then
    let u := inUnits n d t.minExp
    if roundsUp dir sr u.2.1 u.2.2 true (first % 2 == 0) then (first, false) else (0, true)
  else
    let u := inUnits n d (e - t.frw)
    let lo := if below then u.1 else (e - t.minExp).toNat * 2 ^ t.frw + first + u.1 - 2 ^ t.frw
    let r := if roundsUp dir sr u.2.1 u.2.2 (lo % 2 == 0) (lo % 2 == 1) then lo + 1 else lo
    (r, r == 0 && !t.noZero)

/-- `Overflow` (R80) with its count: an infinite input counts `OVR` only when the result is no infinity. -/
def Fmt.overflow (t : Fmt) (s : Bool) (mode : Nat) (fromInf : Bool) : Nat × Cnt :=
  let one : Cnt := ⟨0, 0, 1, 0⟩
  let toInf := match mode with
    | 0 | 4 => true
    | 2 => !s
    | 3 => s
    | _ => false
  if t.ovf = 2 then
    let r := t.nanOut
    (r.1, r.2.add one)
  else if t.ovf = 1 && toInf then (t.infCode s, if fromInf then .zero else one)
  else (t.signed s t.maxMag, one)

/-- `Encode` of R79; `sr` is `SrBits` of the element's coordinate. -/
def Fmt.encode (t : Fmt) (x : Val) (mode sr : Nat) : Nat × Cnt :=
  if t.cls = 1 then
    let lo : Int := if t.sgn then -((2 ^ (t.w - 1) : Nat) : Int) else 0
    let hi : Int := if t.sgn then (2 ^ (t.w - 1) : Nat) - 1 else (2 ^ t.w : Nat) - 1
    match x with
    | .nan => (0, ⟨0, 0, 0, 1⟩)
    | .inf s => (((if s then lo else hi) % (2 ^ t.w : Nat)).toNat, ⟨0, 0, 1, 0⟩)
    | .fin s n d =>
      let m := roundInt n d (dirOf mode s) sr
      let v : Int := if s then -(m : Int) else m
      if v < lo ∨ hi < v then (((if v < lo then lo else hi) % (2 ^ t.w : Nat)).toNat, ⟨0, 0, 1, 0⟩)
      else ((v % (2 ^ t.w : Nat)).toNat, .zero)
  else match x with
    | .nan => t.nanOut
    | .inf s =>
      if !t.sgn && s then (t.zeroCode false, ⟨0, 0, 1, 0⟩) else t.overflow s mode true
    | .fin s n d =>
      if !t.sgn && s then (t.zeroCode false, if n = 0 then (if t.noZero then ⟨1, 0, 0, 0⟩ else .zero) else ⟨0, 0, 1, 0⟩)
      else if n = 0 then (t.zeroCode s, if t.noZero then ⟨1, 0, 0, 0⟩ else .zero)
      else
        let r := t.roundMag n d (dirOf mode s) sr
        if r.2 then (t.zeroCode s, ⟨1, 0, 0, 0⟩)
        else if t.maxMag < r.1 then t.overflow s mode false
        else if t.rfl && decide (r.1 < 2 ^ t.frw) && !t.noZero then (t.zeroCode s, ⟨0, 1, 0, 0⟩)
        else (t.signed s r.1, .zero)

-- exact arithmetic under the rules of IEEE 754 (R135)

/-- The sign of an exact zero sum of opposite-signed values: negative under `.rdn` alone. -/
def Val.add (a b : Val) (mode : Nat) : Val :=
  match a, b with
  | .nan, _ | _, .nan => .nan
  | .inf s, .inf r => if s == r then .inf s else .nan
  | .inf s, _ => .inf s
  | _, .inf s => .inf s
  | .fin s n d, .fin r m e =>
    let x : Int := (if s then -((n * e : Nat) : Int) else (n * e : Nat)) + (if r then -((m * d : Nat) : Int) else (m * d : Nat))
    if x = 0 then .fin (if n = 0 ∧ m = 0 then (if s == r then s else mode == 3) else mode == 3) 0 1
    else .fin (decide (x < 0)) x.natAbs (d * e)

def Val.mul (a b : Val) : Val :=
  match a, b with
  | .nan, _ | _, .nan => .nan
  | .inf s, .inf r => .inf (s != r)
  | .inf s, .fin r m _ | .fin r m _, .inf s => if m = 0 then .nan else .inf (s != r)
  | .fin s n d, .fin r m e => .fin (s != r) (n * m) (d * e)

def Val.div (a b : Val) : Val :=
  match a, b with
  | .nan, _ | _, .nan => .nan
  | .inf _, .inf _ => .nan
  | .inf s, .fin r _ _ => .inf (s != r)
  | .fin s _ _, .inf r => .fin (s != r) 0 1
  | .fin s n d, .fin r m e =>
    if m = 0 then (if n = 0 then .nan else .inf (s != r)) else .fin (s != r) (n * e) (d * m)

/-- Exponents beyond every format: a power of two farther out rounds alike. -/
def farExp : Int := 4096

/-- x * 2^n, exact but for exponents beyond every format (R142). -/
def Val.scale (x : Val) (n : Int) : Val :=
  match x with
  | .fin s m d =>
    let k := min (max n (-farExp)) farExp
    if 0 ≤ k then .fin s (m * 2 ^ k.toNat) d else .fin s m (d * 2 ^ (-k).toNat)
  | _ => x

/-- The order of two values, none where one is NaN; zeros are equal. -/
def Val.cmp (a b : Val) : Option Ordering :=
  let num (s : Bool) (n : Nat) : Int := if s then -(n : Int) else n
  match a, b with
  | .nan, _ | _, .nan => none
  | .inf s, .inf r => some (compare (num s 1) (num r 1))
  | .inf s, _ => some (if s then .lt else .gt)
  | _, .inf s => some (if s then .gt else .lt)
  | .fin s n d, .fin r m e => some (compare (num s (n * e)) (num r (m * d)))

/-- `fmin` and `fmax` (R137): -0 is less than +0, a single NaN yields the other operand. -/
def Val.minMax (a b : Val) (takeMax : Bool) : Val :=
  let lt := match a, b with
    | .fin s n _, .fin r m _ => if n = 0 ∧ m = 0 then s && !r else a.cmp b == some .lt
    | _, _ => a.cmp b == some .lt
  match a, b with
  | .nan, _ => b
  | _, .nan => a
  | _, _ => if lt != takeMax then a else b

/-- |x| as a fraction, for the greatest of a block. -/
def Val.absLt (a b : Val) : Bool :=
  match a, b with
  | .fin _ n d, .fin _ m e => decide (n * e < m * d)
  | .fin .., .inf _ => true
  | _, _ => false

-- the functions of R139, to a precision beyond every rounding boundary (notes/assumptions/7.md)

/-- Fraction bits of the fixed-point numbers of this section. -/
def fxBits : Nat := 640

/-- The greatest r with r * r at most x, bit by bit from bit `k` - 1. -/
def isqrtGo (x : Nat) : Nat → Nat → Nat
  | 0, r => r
  | k + 1, r => isqrtGo x k (if (r + 2 ^ k) * (r + 2 ^ k) ≤ x then r + 2 ^ k else r)

def isqrt (x : Nat) : Nat := isqrtGo x (Nat.log2 x / 2 + 1) 0

/-- √(n d) 2^640 doubled, its last bit telling that it is not exact. -/
def rootSticky (n d : Nat) : Nat :=
  let x := n * d * 4 ^ fxBits
  let r := isqrt x
  if r * r = x then 2 * r else 2 * r + 1

/-- The terms of e^r for a fixed-point r below 1. -/
def expTerms (r : Nat) : Nat → Nat → Nat → Nat → Nat
  | 0, _, _, acc => acc
  | f + 1, k, t, acc => expTerms r f (k + 1) (t * r / 2 ^ fxBits / (k + 1)) (acc + t)

def fxExp (r : Nat) : Nat := expTerms r 160 0 (2 ^ fxBits) 0

/-- The terms of artanh z for a fixed-point z at most 1/3. -/
def artanhTerms (z2 : Nat) : Nat → Nat → Nat → Nat → Nat
  | 0, _, _, acc => acc
  | f + 1, k, t, acc => artanhTerms z2 f (k + 2) (t * z2 / 2 ^ fxBits) (acc + t / k)

def fxArtanh (z : Nat) : Nat := artanhTerms (z * z / 2 ^ fxBits) 230 1 z 0

def fxLn2 : Nat := 2 * fxArtanh (2 ^ fxBits / 3)

/-- The terms of arctan 1/n in `bits` fraction bits, positive and negative apart. -/
def arctanTerms (n : Nat) : Nat → Nat → Nat → Nat × Nat → Nat × Nat
  | 0, _, _, acc => acc
  | f + 1, k, t, acc => arctanTerms n f (k + 2) (t / (n * n)) (if k % 4 = 1 then (acc.1 + t / k, acc.2) else (acc.1, acc.2 + t / k))

/-- π with 2 * 640 fraction bits. -/
def fxPi : Nat :=
  let one := 2 ^ (2 * fxBits)
  let a := arctanTerms 5 290 1 (one / 5) (0, 0)
  let b := arctanTerms 239 90 1 (one / 239) (0, 0)
  16 * (a.1 - a.2) - 4 * (b.1 - b.2)

/-- The terms of sin r (from k = 1, t = r) or cos r (from k = 0, t = 1), positive and negative apart. -/
def trigTerms (r2 : Nat) : Nat → Nat → Nat → Bool → Nat × Nat → Nat × Nat
  | 0, _, _, _, acc => acc
  | f + 1, k, t, minus, acc =>
    trigTerms r2 f (k + 2) (t * r2 / 2 ^ fxBits / ((k + 1) * (k + 2))) (!minus)
      (if minus then (acc.1, acc.2 + t) else (acc.1 + t, acc.2))

def fxSin (r : Nat) : Nat :=
  let a := trigTerms (r * r / 2 ^ fxBits) 90 1 r false (0, 0)
  a.1 - a.2

def fxCos (r : Nat) : Nat :=
  let a := trigTerms (r * r / 2 ^ fxBits) 90 0 (2 ^ fxBits) false (0, 0)
  a.1 - a.2

/-- A fixed-point number as a value. -/
def fxVal (s : Bool) (v : Nat) : Val := .fin s v (2 ^ fxBits)

/-- 2^x for a fraction. -/
def exp2Of (s : Bool) (n d : Nat) : Val :=
  if farExp.toNat * d ≤ n then Val.pow2 false 1 (if s then -farExp else farExp)
  else
    let q := n / d
    let r := n % d
    -- floor and fraction of the signed value
    let whole : Int := if s then (if r = 0 then -(q : Int) else -(q : Int) - 1) else q
    let frac := if s && r != 0 then d - r else r
    let m := if frac = 0 then 2 ^ fxBits else fxExp (frac * fxLn2 / d)
    (fxVal false m).scale whole

/-- log2 x for a positive fraction. -/
def log2Of (n d : Nat) : Val :=
  let e := floorLog2 n d
  let x := if 0 ≤ e then (n, d * 2 ^ e.toNat) else (n * 2 ^ (-e).toNat, d)
  if x.1 = x.2 then .fin (decide (e < 0)) e.natAbs 1
  else
    let z := (x.1 - x.2) * 2 ^ fxBits / (x.1 + x.2)
    let frac := 2 * fxArtanh z * 2 ^ fxBits / fxLn2
    let v : Int := e * (2 ^ fxBits : Nat) + frac
    fxVal (decide (v < 0)) v.natAbs

/-- |x| below 2^-100, where the first terms of a series decide every rounding. -/
def tiny (n d : Nat) : Bool := decide (n * 2 ^ 100 < d)

/-- sin or cos of a nonzero fraction. -/
def trigOf (cos : Bool) (s : Bool) (n d : Nat) : Val :=
  if tiny n d then
    if cos then .fin false (2 * d * d - n * n) (2 * d * d) else .fin s (n * (6 * d * d - n * n)) (6 * d * d * d)
  else
    let a := n * 2 ^ (2 * fxBits) / d
    let half := fxPi / 2
    let q := a / half % 4
    let r := a % half / 2 ^ fxBits
    let v := if (q % 2 == 0) != cos then fxSin r else fxCos r
    let minus := if cos then q == 1 || q == 2 else decide (2 ≤ q)
    fxVal ((!cos && s) != minus) v

/-- tanh of a nonzero fraction. -/
def tanhOf (s : Bool) (n d : Nat) : Val :=
  if tiny n d then .fin s (n * (3 * d * d - n * n)) (3 * d * d * d)
  else if 128 * d ≤ n then .fin s (2 ^ 300 - 1) (2 ^ 300)
  else
    let a := 2 * n * 2 ^ fxBits / d
    let q := a / fxLn2
    let e := 2 ^ (2 * fxBits) / fxExp (a % fxLn2) / 2 ^ q
    .fin s (2 ^ fxBits - e) (2 ^ fxBits + e)

/-- The functions of R139. -/
inductive Fun where
  | rcp | rsq | sqrt | exp2 | log2 | sin | cos | tanh
  deriving DecidableEq, Repr

def Fun.eval (f : Fun) (a : Val) : Val :=
  match f, a with
  | _, .nan => .nan
  | .rcp, _ => Val.div (.fin false 1 1) a
  | .rsq, .inf s => if s then .nan else .fin false 0 1
  | .rsq, .fin s n d => if n = 0 then .inf s else if s then .nan else .fin false (rootSticky n d) (2 * n * 2 ^ fxBits)
  | .sqrt, .inf s => if s then .nan else .inf false
  | .sqrt, .fin s n d => if n = 0 then a else if s then .nan else .fin false (rootSticky n d) (2 * d * 2 ^ fxBits)
  | .exp2, .inf s => if s then .fin false 0 1 else .inf false
  | .exp2, .fin s n d => exp2Of s n d
  | .log2, .inf s => if s then .nan else .inf false
  | .log2, .fin s n d => if n = 0 then .inf true else if s then .nan else log2Of n d
  | .sin, .inf _ | .cos, .inf _ => .nan
  | .sin, .fin s n d => if n = 0 then a else trigOf false s n d
  | .cos, .fin s n d => if n = 0 then .fin false 1 1 else trigOf true s n d
  | .tanh, .inf s => .fin s 1 1
  | .tanh, .fin s n d => if n = 0 then a else tanhOf s n d

-- stochastic rounding and the generator (R82)

def crngGo (key : BitVec 64) : Nat → Nat → BitVec 32 → BitVec 32
  | 0, _, x => x
  | k + 1, i, x =>
    let h : BitVec 32 := if i % 2 = 0 then key.extractLsb' 0 32 else key.extractLsb' 32 32
    let y := (x ^^^ h) * 0x9E3779B1#32
    crngGo key k (i + 1) (y ^^^ (y >>> 15))

/-- `Crng` of R82. -/
def crngOf (key : BitVec 64) (ctr : BitVec 32) (rounds : Nat) : BitVec 32 := crngGo key rounds 0 ctr

/-- `SrBits` of R82. -/
def srBits (seed : BitVec 64) (q : BitVec 32) : Nat := (crngOf seed q 4).toNat

-- quantisation with scale selection (R86)

def fmtF32 : Fmt := Fmt.of 0x159FEE82C
def fmtE4M3 : Fmt := Fmt.of 0x1201C641E
def fmtE8M0 : Fmt := Fmt.of 0x009FC081A

/-- The greatest magnitude of a block. -/
def amaxOf (ys : List Val) : Val := ys.foldl (fun m y => if m.absLt y then y else m) (.fin false 0 1)

/-- The scale code of a block and its value. -/
def selectScale (elem : Fmt) (e8m0 : Bool) (amax : Val) : Nat × Val :=
  let absMax := match amax with
    | .fin _ n d => Val.fin false n d
    | .inf _ => .inf false
    | .nan => .nan
  match absMax with
  | .fin _ 0 _ => (if e8m0 then 127 else 0x38, .fin false 1 1)
  | _ =>
    if e8m0 then
      let top := match elem.maxF with
        | .fin _ n d => floorLog2 n d
        | _ => 0
      let k : Int := match absMax with
        | .fin _ n d => min (max (floorLog2 n d - top) (-127)) 127
        | _ => 127
      ((k + 127).toNat, Val.pow2 false 1 k)
    else
      let c := (fmtE4M3.encode (absMax.div elem.maxF) 2 0).1
      (c, fmtE4M3.decode c)

/-- `QuantBlock` of R86: the scale code, the element codes and their counts; `sr` gives the bits of each element's coordinate. -/
def quantBlock (elem : Fmt) (e8m0 : Bool) (v : List Val) (t : Val) (mode : Nat) (sr : List Nat) : Nat × List Nat × Cnt :=
  let y := v.map (·.div t)
  if y.any (·.isNan) then
    let r := elem.nanOut
    ((if e8m0 then 0xFF else 0x7F), v.map fun _ => r.1, v.foldl (fun c _ => c.add r.2) .zero)
  else
    let sc := selectScale elem e8m0 (amaxOf y)
    let es := (y.zip (sr ++ List.replicate y.length 0)).map fun p => elem.encode (p.1.div sc.2) mode p.2
    (sc.1, es.map (·.1), es.foldl (fun c e => c.add e.2) .zero)

end Sys2Proof.Machine
end

