-- ==== Sys2Proof/Machine/Flags.lean ====
section
/-!
DEFINITION. What instructions compute beside a result: conditions (R127, R138), saturation (R124), and the quantisation counters with
their sticky bits (R87).
-/
namespace Sys2Proof.Machine

open Sys2Proof

/-- The condition of `cmp` by its RM code (R127). -/
def intCond (rm : Nat) (a b : Int) : Bool :=
  match rm with
  | 0 => a == b
  | 1 => a != b
  | 2 => decide (a < b)
  | 3 => decide (a ≤ b)
  | 4 => decide (b < a)
  | _ => decide (b ≤ a)

/-- The condition of `fcmp` by its code (R138); with a NaN only `.ne` and `.un` hold. -/
def floatCond (cond : Nat) (a b : Val) : Bool :=
  match a.cmp b with
  | none => cond == 1 || cond == 7
  | some o =>
    match cond with
    | 0 => o == .eq
    | 1 => o != .eq
    | 2 => o == .lt
    | 3 => o != .gt
    | 4 => o == .gt
    | 5 => o != .lt
    | 6 => true
    | _ => false

/-- A value clamped between two bounds (R124). -/
def clampInt (lo hi x : Int) : Int := if x < lo then lo else if hi < x then hi else x

/-- One counter of a set: it saturates at 0xFFFF_FFFF, and an increment lost there sets its sticky bit (R87). -/
def countTo (c n : Nat) : Nat × Bool := if c + n ≤ 0xFFFFFFFF then (c + n, false) else (0xFFFFFFFF, true)

/-- The counts of an instruction added to a set (R87). -/
def QSet.tally (q : QSet) (n : Cnt) : QSet :=
  let a := countTo q.ufl n.ufl
  let b := countTo q.fls n.fls
  let c := countTo q.ovr n.ovr
  let d := countTo q.nls n.nls
  ⟨a.1, b.1, c.1, d.1,
   q.sticky ||| BitVec.ofBool d.2 ++ BitVec.ofBool c.2 ++ BitVec.ofBool b.2 ++ BitVec.ofBool a.2⟩

/-- Counts that are visible at once, as engines make them. -/
def Team.count (t : Team) (set : Nat) (n : Cnt) : Team := { t with qsets := modAt t.qsets set (·.tally n) }

/-- Counts that become visible when the instruction's result lands. -/
def Team.countLater (t : Team) (due : Nat) (n : Cnt) (fids : List Nat) : Team :=
  if n = .zero then t else { t with qadds := t.qadds ++ [⟨due, 0, n.ufl, n.fls, n.ovr, n.nls, fids⟩] }

/-- The counts that `p` selects become visible (R87). -/
def Team.landCountsIf (t : Team) (p : QAdd → Bool) : Team :=
  (t.qadds.filter p).foldl (fun t a => t.count a.set ⟨a.ufl, a.fls, a.ovr, a.nls⟩) { t with qadds := t.qadds.filter (!p ·) }

/-- The counts due by a cycle become visible (R87). -/
def Team.landCounts (t : Team) (now : Nat) : Team := t.landCountsIf fun a => decide (a.due ≤ now)

end Sys2Proof.Machine
end

