-- ==== Sys2Proof/Machine/Translate.lean ====
section
/-!
DEFINITION. Translation (R192-R198): the page-table walk, the causes of a translation in their order, the TLB, and the regions of the
physical map with their worlds (R324, R325, R401-R403).
-/
namespace Sys2Proof.Machine

open Sys2Proof

/-- The near stack of an address of a compute die (R325): `ns(2d + PA[12])`. -/
def stackOf (pa : Nat) : Nat := 2 * (pa / 2 ^ 38) + bits pa 12 1

/-- Kinds of access as a translation sees them; `flush` and `query` judge only what R216 and R226 say. -/
inductive Access where
  | read | write | atomic | fetch | flush
  deriving DecidableEq, Repr

/-- How a walk ends (R197): at an entry with `V` = 0, at a malformed entry, or at a leaf. -/
inductive Walk where
  | absent
  | malformed
  | leaf (l : Leaf)
  deriving DecidableEq, Repr

/-- A physical address of near memory, of the bulk tier, or of host memory (R324). -/
def isNear (pa : Nat) : Bool := pa < 2 ^ 41
def isBulk (pa : Nat) : Bool := decide (2 ^ 42 ≤ pa) && decide (pa < 2 ^ 43)
def isHost (pa : Nat) : Bool := decide (2 ^ 48 ≤ pa) && decide (pa < 2 ^ 49)

/-- A region of the world map that holds an address: the die (none for the bulk tier) and its number (R401). -/
def regionOf (pa : Nat) : Option (Option Nat × Nat) :=
  if isNear pa then some (some (pa / 2 ^ 38), pa % 2 ^ 38 / 2 ^ 32)
  else if isBulk pa then some (none, (pa - 2 ^ 42) / 2 ^ 36)
  else none

/-- The region is secure (R401). -/
def State.regionSecure (s : State) (r : Option Nat × Nat) : Bool :=
  match r.1 with
  | some d => (s.die d).wmreg.getLsbD r.2
  | none => s.forum.wmbulk.getLsbD r.2

/-- The region is being cleared for a change of world (R402). -/
def State.regionClearing (s : State) (r : Option Nat × Nat) : Bool :=
  match r.1 with
  | some d => (s.die d).clearing.contains r.2
  | none => s.forum.clearing.contains r.2

/-- An access to a physical address by an agent of a world is refused by R402 or R403. -/
def State.worldRefuses (s : State) (secure : Bool) (pa : Nat) : Bool :=
  match regionOf pa with
  | some r => s.regionClearing r || (s.regionSecure r && !secure)
  | none => false

/-- Bytes of a leaf's page, by the level at which the walk found it (R194). -/
def pageSize (level : Nat) : Nat := if level = 0 then 2 ^ 16 else if level = 1 then 2 ^ 21 else 2 ^ 29

/-- A frame lies in the region that its aperture names (R196, R324, R432). -/
def frameOk (apt pa : Nat) : Bool :=
  if apt = 0 || apt = 1 then isNear pa
  else if apt = 2 then isBulk pa
  else if apt = 3 then isHost pa
  else if apt = 4 then true
  else decide (pa < 2 ^ 32)

/-- `TGT` is allowed for its aperture (R196, R456). -/
def tgtOk (pkg apt tgt : Nat) : Bool :=
  if apt = 4 then decide (tgt < 1024) && tgt != pkg else if apt ≥ 5 then true else tgt == 0

/-- A leaf entry at a level (R196), none where it is malformed (R197, order 2). -/
def leafOf (pkg level e : Nat) : Option Leaf :=
  let pa := bits e 16 36 * 2 ^ 16
  let apt := bits e 6 3
  let tgt := bits e 52 12
  if bits e 13 2 ≠ 0 || bits e 11 2 = 3 || bits e 4 2 = 3 || pa % pageSize level ≠ 0 || !tgtOk pkg apt tgt || !frameOk apt pa then none
  else some { tgt := tgt, pa := pa, size := pageSize level, cp := bits e 11 2, pin := e.testBit 10, rap := e.testBit 9, apt := apt,
              ord := bits e 4 2, wld := e.testBit 3, ex := e.testBit 2, wr := e.testBit 1 }

/-- The index of a virtual address in the table of a level (R194). -/
def walkIndex (level va : Nat) : Nat :=
  if level = 3 then bits va 42 14 else if level = 2 then bits va 29 13 else if level = 1 then bits va 21 8 else bits va 16 5

/-- The bytes of the table of a level, which are its alignment (R194). -/
def tableBytes (level : Nat) : Nat := if level = 3 then 2 ^ 17 else if level = 2 then 2 ^ 16 else if level = 1 then 2 ^ 11 else 2 ^ 8

/-- The walk from the table of a level downward (R194, R195, R197). -/
def walkFrom (mem : List Host.Cell) (pkg va : Nat) : Nat → Nat → Walk
  | level, table =>
    let e := Memory.read mem (table + 8 * walkIndex level va) 8
    if !e.testBit 0 then .absent
    else if e.testBit 15 then
      if level = 3 then .malformed
      else match leafOf pkg level e with
        | some l => .leaf l
        | none => .malformed
    else match level with
      | 0 => .malformed
      | n + 1 =>
        let nxt := bits e 16 44 * 2 ^ 8
        if bits e 60 4 ≠ 0 || bits e 1 14 ≠ 0 || nxt % tableBytes n ≠ 0 then .malformed else walkFrom mem pkg va n nxt

/-- The walk of a context's tables, which `PTROOT` roots (R194, R278). -/
def State.walk (s : State) (ctx va : Nat) : Walk :=
  walkFrom s.mem s.forum.pkg.toNat va 3 (bits (s.context ctx).ptroot.toNat 17 35 * 2 ^ 17)

/-- The physical address of a virtual one under a leaf. -/
def Leaf.phys (l : Leaf) (va : Nat) : Nat := l.pa + va % l.size

/-- The causes of orders 3 to 6 of R197 on a leaf, with the world of the physical region (R403) and the
apertures that take no atomic (R224). -/
def State.permit (s : State) (secure : Bool) (k : Access) (va : Nat) (l : Leaf) : Option Cause :=
  if (l.wld && !secure) || (l.apt < 4 && s.worldRefuses secure (l.phys va)) then some .worldViolation
  else if k == .fetch && (!l.ex || 5 ≤ l.apt) then some .permitDenied
  else if (k == .write || k == .atomic) && !l.wr then some .permitDenied
  else if k == .atomic && (((l.apt == 1 || l.apt == 4) && !l.rap) || 5 ≤ l.apt) then some .permitDenied
  else none

/-- Host memory of a master that is not attached (R395): the access completes as `PAGE_FAULT` with `INFO` bit 3. -/
def State.hostGone (s : State) (l : Leaf) (va : Nat) : Bool :=
  l.apt == 3 && !(nth MasterRegs.reset s.forum.masters (bits (l.phys va) 46 2)).attached

/-- What a lookup answers. -/
inductive Look where
  | miss
  | fault (c : Cause)
  | ok (l : Leaf)
  deriving DecidableEq, Repr

/-- A TLB entry that translates an address of a context (R193). -/
def TlbEnt.covers (e : TlbEnt) (ctx va : Nat) : Bool := e.ctx == ctx && decide (e.va ≤ va) && decide (va < e.va + e.leaf.size)

/-- A lookup with an immediate walk (R193): what engines, the scheduler and the Forum do, which the core's TLB does not serve. -/
def State.lookWalk (s : State) (ctx : Nat) (secure : Bool) (k : Access) (va : Nat) : Look :=
  if 2 ^ 56 ≤ va then .fault .pageFault
  else match s.walk ctx va with
    | .absent | .malformed => .fault .pageFault
    | .leaf l => match s.permit secure k va l with
      | some c => .fault c
      | none => .ok l

/-- A lookup of a fibre in its core's TLB: a miss waits for the walk (R193), and a
revoking page waits until its entry is removed (R383); a walk that failed answers once. -/
def State.look (s : State) (c ctx : Nat) (secure : Bool) (k : Access) (va : Nat) : Look :=
  if 2 ^ 56 ≤ va then .fault .pageFault
  else match (s.core c).tlb.find? (·.covers ctx va) with
    | some e =>
      if e.revoking then .miss
      else match s.permit secure k va e.leaf with
        | some x => .fault x
        | none => .ok e.leaf
    | none =>
      if (s.core c).walkFail.any fun w => w.1 == ctx && w.2.1 == va / 2 ^ 16 then .fault .pageFault else .miss

/-- The walk that a miss begins (R193). -/
def State.beginWalk (s : State) (c ctx va : Nat) : State :=
  s.spawnOnce .tableWalkEnd { core := c, ctx := ctx, addr := va / 2 ^ 16 * 2 ^ 16 }

/-- The failed walks of a page have been taken by the accesses that waited. -/
def State.takeFail (s : State) (c ctx va : Nat) : State :=
  s.modCore c fun k => { k with walkFail := k.walkFail.filter fun w => !(w.1 == ctx && w.2.1 == va / 2 ^ 16) }

/-- Enter a leaf (R193): at most 64 pinned entries, a further one ordinary and counted; at most 128 entries, an ordinary one replaced
where all are in use. -/
def State.enterTlb (s : State) (c ctx va : Nat) (l : Leaf) : State :=
  let k := s.core c
  let full := l.pin && decide (64 ≤ (k.tlb.filter (·.leaf.pin)).length)
  let l' := if full then { l with pin := false } else l
  let tlb := if k.tlb.length < 128 then k.tlb
    else match k.tlb.findIdx? (!·.leaf.pin) with
      | some i => k.tlb.eraseIdx i
      | none => k.tlb
  let s := s.setCore c { k with tlb := tlb ++ [⟨ctx, va / l.size * l.size, l', false, []⟩] }
  if full then s.report else s

end Sys2Proof.Machine
end

