-- ==== Sys2Proof/Machine/Operands.lean ====
section
/-!
DEFINITION. Operands: which registers and predicates an instruction reads and writes, in which of its fields (R43-R51, R122), which of
them must be uniform (R112), who may issue it (R66), and the values that operands read (R41-R45, R104, R105).
-/
namespace Sys2Proof.Machine

open Sys2Proof

/-- A use of an operand field: its number as R168 counts them (1 G, 2 D, 3 A, 4 B, 5 C), how many registers it names, whether it is
read, written, or must be uniform, and whether only its first register is checked against the window at check 7 (R141, R145). -/
structure Use where
  opnd : Nat
  x : Operand
  len : Nat
  src : Bool
  dst : Bool
  uni : Bool
  soft : Bool
  deriving DecidableEq, Repr

namespace Use

def regs (wide : Bool) : Nat := if wide then 2 else 1
def s (n : Nat) (x : Operand) (wide : Bool := false) : Use := ⟨n, x, regs wide, true, false, false, false⟩
def u (n : Nat) (x : Operand) (wide : Bool := false) : Use := ⟨n, x, regs wide, true, false, true, false⟩
def d (x : Operand) (wide : Bool := false) : Use := ⟨2, x, regs wide, false, true, false, false⟩
def sd (x : Operand) (wide : Bool := false) : Use := ⟨2, x, regs wide, true, true, false, false⟩
def r2 (w : Bool) (f : FR) : List Use := [d f.d w, s 3 f.a w, s 4 f.b w]
def i1 (w : Bool) (f : FI) : List Use := [d f.d w, s 3 f.a w]
def f1 (f : FR) : List Use := [d f.d, s 3 f.a]
def f2 (f : FR) : List Use := [d f.d, s 3 f.a, s 4 f.b]
def f3 (f : FR) : List Use := [d f.d, s 3 f.a, s 4 f.b, s 5 f.c]

/-- Uniform registers `k`(A) to `k`(A + n - 1). -/
def ks (x : Operand) (n : Nat) : Use := ⟨3, x, n, true, false, false, false⟩

end Use

/-- The fixed entries `t0` to `t15` of R74. -/
def fixedTariff : List (BitVec 64) :=
  [0x159FEE82C, 0x159FCE824, 0x1583D4524, 0x1D, 0x19, 0x25, 0x2D, 0x0D, 0x15040451C, 0x10820641C, 0x10810831C, 0x50004220C, 0x5000C4314,
   0x1201C641E, 0x009FC081A, 0x35]

/-- Entry `t`n of a team's tariff (R70). -/
def Team.tar (t : Team) (n : Nat) : BitVec 64 := if n < 16 then nth 0 fixedTariff n else nth 0 t.tariff (n - 16)

/-- The width in bits that a tariff entry codes (R72), 0 for a reserved code. -/
def tarWidth (e : BitVec 64) : Nat :=
  match (e.extractLsb' 3 5).toNat with
  | 1 => 4 | 2 => 6 | 3 => 8 | 4 => 16 | 5 => 32 | 6 => 64
  | _ => 0

/-- The block length of an element entry (R84): 32 for kinds 1 and 2, 16 for kind 3, 0 for none. -/
def tarBlock (e : BitVec 64) : Nat :=
  match (e.extractLsb' 33 3).toNat with
  | 1 | 2 => 32
  | 3 => 16
  | _ => 0

open Use in
/-- What an encoded instruction reads and writes, in the order D, A, B, C; `tar` is the team's tariff, which gives `cvt`, `cvti` and
`sclq` their register widths (R141, R145). -/
def uses (tar : Nat → BitVec 64) : Instr → List Use
  | .add f | .sub f | .mul f | .mulhi f | .min f | .max f | .and f | .or f | .xor f => r2 (Wf.tyWide f.t1) f
  | .addI f | .subI f | .mulI f | .mulhiI f | .minI f | .maxI f | .andI f | .orI f | .xorI f => i1 (Wf.tyWide f.t1) f
  | .shl f | .shr f | .sar f | .rot f => [d f.d (Wf.tyWide f.t1), s 3 f.a (Wf.tyWide f.t1), s 4 f.b]
  | .shlI f | .shrI f | .sarI f | .rotI f => i1 (Wf.tyWide f.t1) f
  | .mad f => r2 (Wf.tyWide f.t1) f ++ [s 5 f.c (Wf.tyWide f.t1)]
  | .madw f => [d f.d true, s 3 f.a, s 4 f.b, s 5 f.c true]
  | .abs f | .neg f | .not f | .brev f | .mov f | .gets f => [d f.d (Wf.tyWide f.t1), s 3 f.a (Wf.tyWide f.t1)]
  | .clz f | .popc f => [d f.d, s 3 f.a (Wf.tyWide f.t1)]
  | .bfx f => [d f.d (Wf.tyWide f.t1), s 3 f.a (Wf.tyWide f.t1), s 4 f.b, s 5 f.c]
  | .bfi f => [sd f.d (Wf.tyWide f.t1), s 3 f.a (Wf.tyWide f.t1), s 4 f.b, s 5 f.c]
  | .sel f => r2 (Wf.tyWide f.t1) f ++ [s 5 f.c]
  | .cmp f => [d f.d, s 3 f.a (Wf.tyWide f.t1), s 4 f.b (Wf.tyWide f.t1)]
  | .cmpI f => [d f.d, s 3 f.a (Wf.tyWide f.t1)]
  | .lea f => [d f.d true, s 3 f.a true, s 4 f.b (Wf.tyWide f.t1)]
  | .leaI f => [d f.d true, s 3 f.a true]
  | .movk f => [sd f.d (Wf.tyWide f.t1)]
  | .ldi f => [d f.d (Wf.tyWide f.t1)]
  | .ldiHi f => [d f.d true]
  | .pand f | .por f | .pxor f => f2 f
  | .pnot f | .pmov f => f1 f
  | .pmovWRead f => [d f.d, ⟨3, .p 0, 16, true, false, false, false⟩]
  | .pmovWWrite f => [⟨2, .p 0, 16, false, true, false, false⟩, s 3 f.a]
  | .fadd f | .fsub f | .fmul f | .fmin f | .fmax f | .faddPk f | .fsubPk f | .fmulPk f | .fminPk f | .fmaxPk f => f2 f
  | .ffma f | .ffmaPk f => f3 f
  | .fcmp f => f2 f
  | .frcp f | .frsq f | .fsqrt f | .fexp2 f | .flog2 f | .fsin f | .fcos f | .ftanh f | .frnd f => f1 f
  | .frcpPk f | .frsqPk f | .fsqrtPk f | .fexp2Pk f | .flog2Pk f | .fsinPk f | .fcosPk f | .ftanhPk f | .frndPk f | .cvtPk f => f1 f
  | .cvt f =>
    [⟨2, f.d, regs (tarWidth (tar f.t2.toNat) == 64), false, true, false, true⟩,
     ⟨3, f.a, regs (tarWidth (tar f.t1.toNat) == 64), true, false, false, true⟩]
  | .cvti f =>
    [⟨2, f.d, regs (tarWidth (tar f.t2.toNat) == 64), false, true, false, true⟩,
     ⟨3, f.a, regs (tarWidth (tar f.t1.toNat) == 64), true, false, false, true⟩, s 4 f.b]
  | .pk f => [sd f.d, s 3 f.a, s 4 f.b, s 5 f.c]
  | .upk f => [d f.d true, s 3 f.a, s 4 f.b]
  | .sclq f =>
    let n := tarBlock (tar f.t2.toNat)
    [⟨2, f.d, n * tarWidth (tar f.t2.toNat) / 32, false, true, false, true⟩, ⟨3, f.a, n, true, false, false, true⟩,
     ⟨4, f.b, 1, false, true, false, false⟩, s 5 f.c]
  | .sclget f | .sclgetClr f => [d f.d]
  | .crng f => [d f.d, s 3 f.a true, s 4 f.b]
  | .shflPick f | .shflShift f | .shflRot f | .shflMir f => [d f.d (Wf.tyWide f.t1), s 3 f.a (Wf.tyWide f.t1), s 4 f.b]
  | .voteEvery f | .voteSome f | .voteMask f | .voteCount f => f1 f
  | .redux _ f | .scan _ f | .scanEx _ f => [d f.d (Wf.tyWide f.t1), s 3 f.a (Wf.tyWide f.t1)]
  | .matchPeers f | .matchFirst f | .matchSame f => [d f.d, s 3 f.a (Wf.tyWide f.t1)]
  | .lsync f => [s 3 f.a]
  | .brx f => [s 3 f.a true]
  | .call f => [sd f.d true]
  | .calli f => [sd f.d true, s 3 f.a true]
  | .ret f => [sd f.d true]
  | .retTrap _ => [⟨2, .p 0, 16, false, true, false, false⟩]
  | .fork f => [d f.d, s 3 f.a, s 4 f.b]
  | .rep f => [s 3 f.a]
  | .ld f | .ldAcq f => [d f.d (Wf.tyWide f.t1), s 3 f.a true]
  | .st f | .stRel f => [s 2 f.d (Wf.tyWide f.t1), s 3 f.a true]
  | .lds f | .ldx f => [d f.d (Wf.tyWide f.t1), s 3 f.a]
  | .sts f | .stx f => [s 2 f.d (Wf.tyWide f.t1), s 3 f.a]
  | .prfL1 f | .prfL2 f | .flushWb f | .flushInv f => [s 3 f.a true]
  | .carve f => [d f.d, u 3 f.a]
  | .tlbq f => [d f.d true, s 3 f.a true]
  | .atom op f | .atomAcq op f | .atomRel op f | .atomAr op f =>
    [if op == .cas then sd f.d (Wf.atomWide op f.t1) else d f.d (Wf.atomWide op f.t1), s 3 f.a true, s 4 f.b (Wf.atomWide op f.t1)]
  | .red op f | .redRel op f => [s 2 f.d (Wf.atomWide op f.t1), s 3 f.a true]
  | .mxloop f | .mxloopG f => [u 2 f.d, u 3 f.a] ++ (if f.ev.getLsbD 0 then [u 4 f.b true] else [])
  | .mxdrain f => [u 3 f.a]
  | .mxdrainQ f => [u 2 f.d, u 3 f.a]
  | .gxrows f => [s 3 f.a]
  | .cpyLd f | .cpyLdNf f | .cpySt f | .cpyRed _ f => [u 2 f.d, ks f.a 5] ++ (if f.ev == 2 then [u 4 f.b] else [])
  | .cpyMc f | .cpyMcNf f => [u 2 f.d true, ks f.a 5] ++ (if f.ev == 2 then [u 4 f.b] else [])
  | .cpyPf f => [ks f.a 5]
  | .tdset f | .tdget f => [s 3 f.a]
  | .tset f => [u 4 f.b true]
  | .tget f => [d f.d true]
  | .tgetFill f | .tgetFillc f => [d f.d]
  | .barvB f => [s 4 f.b]
  | .bars f | .barsClr f | .barsB f => [d f.d true]
  | .cbarA f | .dbarA f | .pbarA f => [d f.d, u 3 f.a]
  | .cbarW f | .dbarW f | .pbarW f => [d f.d, u 3 f.a, u 4 f.b]
  | .cbarAw f | .dbarAw f | .pbarAw f => [sd f.d, u 3 f.a]
  | .qinit f => [u 2 f.d true, u 3 f.a true, u 4 f.b]
  | .qpush f | .qtpush f =>
    match f.d with
    | .k _ => [s 2 f.d (Wf.tyWide f.t1), u 3 f.a true, ⟨4, f.b, 1, false, true, false, false⟩]
    | _ => [s 2 f.d (Wf.tyWide f.t1), s 3 f.a true, ⟨4, f.b, 1, false, true, false, false⟩]
  | .qpop f | .qtpop f | .qpeek f =>
    match f.d with
    | .k _ => [d f.d (Wf.tyWide f.t1), u 3 f.a true, ⟨4, f.b, 1, false, true, false, false⟩]
    | _ => [d f.d (Wf.tyWide f.t1), s 3 f.a true, ⟨4, f.b, 1, false, true, false, false⟩]
  | .qstat f => [d f.d true, u 3 f.a true]
  | .qclose f | .qdrain f => [u 3 f.a true]
  | .launch f => [d f.d, u 3 f.a true, u 4 f.b]
  | .spawn f | .spawnr f | .jdec f => [d f.d, s 3 f.a true, s 4 f.b]
  | .lquery f => [d f.d true, u 3 f.a]
  | .xsel f => [d f.d true, s 3 f.a, u 4 f.b true]
  | .xdisp f => [u 2 f.d, ks f.a 4]
  | .xcurRd f | .xcurWr f => [u 3 f.a]
  | .xhist f => [u 2 f.d true, u 3 f.a true, u 4 f.b]
  | .regrp f => f1 f
  | .wwait f => [d f.d, s 3 f.a true, s 4 f.b (Wf.tyWide f.t1)]
  | .wwake f => [d f.d, s 3 f.a true, s 4 f.b]
  | .rmtOpen f => [d f.d, ⟨3, f.a, 1, false, true, false, false⟩]
  | .sysrd f => [d f.d true]
  | .syswr f => [u 3 f.a true]
  | .fcancel f => [d f.d, u 3 f.a true, u 4 f.b, u 5 f.c]
  | .ctxsave f => [d f.d, u 3 f.a true, u 4 f.b]
  | .ctxload f => [d f.d, u 3 f.a true]
  | .dbgrd f => [d f.d true, u 3 f.a, u 4 f.b]
  | _ => []

/-- Who may issue an instruction (R66). -/
inductive Rights where
  | any
  /-- vector and general fibres -/
  | compute
  | matrix
  /-- the gang that holds the streamer issue right (R110) -/
  | copyLeader
  deriving DecidableEq, Repr

/-- The role rights of R66. -/
def rights : Instr → Rights
  | .fadd _ | .faddPk _ | .fsub _ | .fsubPk _ | .fmul _ | .fmulPk _ | .ffma _ | .ffmaPk _ | .fmin _ | .fminPk _ | .fmax _ | .fmaxPk _
  | .fcmp _ | .frcp _ | .frcpPk _ | .frsq _ | .frsqPk _ | .fsqrt _ | .fsqrtPk _ | .fexp2 _ | .fexp2Pk _ | .flog2 _ | .flog2Pk _
  | .fsin _ | .fsinPk _ | .fcos _ | .fcosPk _ | .ftanh _ | .ftanhPk _ | .frnd _ | .frndPk _ => .compute
  | .cvt _ | .cvtPk _ | .cvti _ | .pk _ | .upk _ | .sclq _ | .sclget _ | .sclgetClr _ | .crng _ => .compute
  | .ld _ | .ldAcq _ | .st _ | .stRel _ | .lds _ | .sts _ | .ldx _ | .stx _ | .prfL1 _ | .prfL2 _ | .flushWb _ | .flushInv _
  | .carve _ => .compute
  | .atom _ _ | .atomAcq _ _ | .atomRel _ _ | .atomAr _ _ | .red _ _ | .redRel _ _ => .compute
  | .xsel _ | .xdisp _ | .xcurRd _ | .xcurWr _ | .xhist _ | .regrp _ => .compute
  | .mxzero _ | .mxloop _ | .mxloopG _ | .mxwait _ | .mxdrain _ | .mxdrainQ _ | .gxrows _ => .matrix
  | .cpyLd _ | .cpyLdNf _ | .cpySt _ | .cpyRed _ _ | .cpyMc _ | .cpyMcNf _ | .cpyPf _ => .copyLeader
  | _ => .any

/-- The value of a special value for a fibre (R104, R105); `gang` is the issuing gang's lane set, `now` the die's cycle. -/
def specialValue (s : State) (c : Nat) (t : Team) (f : Fibre) (gang : BitVec 32) (now : Nat) : SpecialValue → BitVec 64
  | .fid => BitVec.ofNat 64 f.fid
  | .lane => BitVec.ofNat 64 f.lane
  | .team => BitVec.ofNat 64 (t.teamNo % 2 ^ 32)
  | .role => BitVec.ofNat 64 (roleNum f.role)
  | .core => BitVec.ofNat 64 (c % 256)
  | .clus => BitVec.ofNat 64 (clusOf c)
  | .die => BitVec.ofNat 64 (dieOf c)
  | .pkg => s.forum.pkg.setWidth 64
  | .lvidx n => BitVec.ofNat 64 (nth 0 t.lvidx n.toNat)
  | .cycles => BitVec.ofNat 64 now
  | .gmask => gang.setWidth 64
  | .win => BitVec.ofNat 64 f.wsize
  | .rc => f.rc.setWidth 64
  | .nfib => BitVec.ofNat 64 t.fibres.length
  | .ctx => BitVec.ofNat 64 t.ctx
  | .world => if t.world then 1 else 0
  | .srstep => f.srstep.setWidth 64
  | .spad => BitVec.ofNat 64 t.spadBase
  | .spsz => BitVec.ofNat 64 t.spadSize

/-- Two words as a 64-bit value, the even register low (R44). -/
def pair (hi lo : BitVec 32) : BitVec 64 := hi ++ lo

/-- What an operand reads (R41-R45): a register or, where wide, a pair; a special value; an immediate, sign-extended; a predicate as 0
or 1. A narrow read is zero-extended here, but for an immediate. -/
def readOperand (s : State) (c : Nat) (t : Team) (f : Fibre) (gang : BitVec 32) (now : Nat) (wide : Bool) : Operand → BitVec 64
  | .v i => if wide then pair (f.reg (i.toNat + 1)) (f.reg i.toNat) else (f.reg i.toNat).setWidth 64
  | .k i => if wide then pair (t.ureg f.role (i.toNat + 1)) (t.ureg f.role i.toNat) else (t.ureg f.role i.toNat).setWidth 64
  | .sv v => specialValue s c t f gang now v
  | .imm i => i.signExtend 64
  | .p n => if f.pred? n.toNat then 1 else 0
  | .b n => n.setWidth 64

end Sys2Proof.Machine
end

