-- ==== Sys2Proof/Machine/Home.lean ====
section
/-!
DEFINITION. The places where memory accesses are performed: the home of an address, the L1 of a core or of a fused cluster, and the
acknowledgement of stores (R180, R188-R190, R210-R213, R321, R326, R327).
-/
namespace Sys2Proof.Machine

open Sys2Proof

/-- The sector of an address (R180). -/
def sectorOf (pa : Nat) : Nat := pa / 32 * 32

/-- The fibres of a store-buffer entry. -/
def SBKind.fids : SBKind → List Nat
  | .store o _ _ => o.map (·.1)
  | .red _ _ _ _ lanes => lanes.map (·.1)

/-- The same without what one fibre wrote. -/
def SBKind.without (k : SBKind) (fid : Nat) : SBKind :=
  match k with
  | .store o m d => .store (o.filter (·.1 != fid)) m d
  | .red op t1 tar len lanes => .red op t1 tar len (lanes.filter (·.1 != fid))

/-- A byte range touches a poisoned sector (R405). -/
def State.poisoned (s : State) (pa n : Nat) : Bool := s.poison.any fun p => decide (p < pa + n) && decide (pa < p + 32)

/-- A line that a ready remote region has staged writes to: other requests wait there (R463). -/
def State.lineStaged (s : State) (pa : Nat) : Bool :=
  s.forum.staging.any fun g => g.ready && g.writes.any fun w => w.pa / 64 == pa / 64

/-- A write at the home; a write of a whole sector clears its poison (R405). -/
def State.homeWrite (s : State) (pa n v : Nat) : State :=
  { s with mem := Memory.write s.mem pa n v, poison := s.poison.filter fun p => !(decide (pa ≤ p) && decide (p + 32 ≤ pa + n)) }

/-- A write at the home of the bytes of a sector that a mask selects. -/
def State.homeWriteMasked (s : State) (pa mask v : Nat) : State :=
  { s with mem := Memory.writeMasked s.mem pa mask v 32, poison := if mask = 2 ^ 32 - 1 then s.poison.filter (· != pa) else s.poison }

/-- A sector is poisoned at its home (R405). -/
def State.poisonSector (s : State) (sa : Nat) : State := if s.poison.contains sa then s else { s with poison := s.poison ++ [sa] }

/-- The core whose L1 slice holds a line for a core (R321). -/
def State.l1Slice (s : State) (c pa : Nat) : Nat :=
  if (s.core c).fused then 256 * clusOf c + (bits pa 6 8 ^^^ bits pa 14 8) else c

def Core.sector? (k : Core) (sa : Nat) : Option L1Sector := k.l1.find? (·.pa == sa)

def Core.modSector (k : Core) (sa : Nat) (f : L1Sector → L1Sector) : Core := { k with l1 := modWhere (·.pa == sa) f k.l1 }

/-- An acknowledgement on its way to the fibres that a write belongs to (R190). -/
def State.sendAck (s : State) (c : Nat) (owners : List (Nat × Nat)) : State :=
  if owners.isEmpty then s
  else
    let (id, s) := s.fresh
    (s.modCore c fun k => { k with acks := k.acks ++ [⟨id, owners⟩] }).spawn .storeAck { core := c, id := id }

/-- The fibres of a fused L1 may lie on any core of the cluster: owners are kept with their core. -/
def ownerOf (c slot fid : Nat) : Nat × Nat := (16 * c + slot, fid)

/-- Acknowledge owners, each on its own core. -/
def State.ackOwners (s : State) (owners : List (Nat × Nat)) : State :=
  (owners.map (·.1 / 16)).eraseDups.foldl
    (fun s c => s.sendAck c ((owners.filter (·.1 / 16 == c)).map fun o => (o.1 % 16, o.2))) s

/-- Write a sector's dirty bytes back to the home and acknowledge the stores it held; the sector stays, clean (R190, R212, R327). -/
def State.writeBack (s : State) (c sa : Nat) : State :=
  match (s.core c).sector? sa with
  | none => s
  | some x =>
    if x.dirty == 0 && x.owners.isEmpty then s
    else
      let s := s.homeWriteMasked sa x.dirty.toNat x.data.toNat
      let s := if x.poison && x.dirty != 0 then s.poisonSector sa else s
      (s.modCore c (·.modSector sa fun y => { y with dirty := 0, owners := [] })).ackOwners x.owners

/-- Stores of a team's fibres that still lie dirty in an L1 are written back (R212). -/
def State.writeBackTeam (s : State) (c slot : Nat) : State :=
  s.coreNums.foldl (fun s x => (s.core x).l1.foldl (fun s e =>
    if e.owners.any (·.1 == 16 * c + slot) then s.writeBack x e.pa else s) s) s

/-- Write a sector back and drop it. -/
def State.evict (s : State) (c sa : Nat) : State :=
  (s.writeBack c sa).modCore c fun k => { k with l1 := k.l1.filter (·.pa != sa) }

/-- Write back and invalidate every sector of a core's L1. -/
def State.evictAll (s : State) (c : Nat) : State := (s.core c).l1.foldl (fun s x => s.evict c x.pa) s

/-- The cores whose L1s form the sharing domain of a core (R213, R321). -/
def State.l1Domain (s : State) (c : Nat) : List Nat :=
  if (s.core c).fused then (s.coreNums.filter fun x => clusOf x == clusOf c) else [c]

/-- Whether a scope is wider than the L1's sharing domain (R213, R333). -/
def State.widerThanL1 (s : State) (c : Nat) (scope : BitVec 3) : Bool :=
  if (s.core c).fused then decide (3 < scope.toNat) else decide (2 < scope.toNat)

/-- The further effect of an acquire (R213): later loads fetch every sector again. -/
def State.acquire (s : State) (c : Nat) (scope : BitVec 3) : State :=
  if s.widerThanL1 c scope then (s.l1Domain c).foldl (fun s x => s.evictAll x) s else s

/-- Make room for a line in its set of a core's L1 (R180): replacement is not architectural; the line held longest goes. -/
def State.l1Room (s : State) (c sa : Nat) : State :=
  let line := sa / 64
  let inSet := ((s.core c).l1.filter fun x => x.pa / 64 % 256 == line % 256).map (·.pa / 64)
  let lines := inSet.eraseDups
  if lines.contains line || decide (lines.length < (s.core c).l1kib / 16) then s
  else match lines with
    | [] => s
    | l :: _ => (s.evict c (64 * l)).evict c (64 * l + 32)

/-- Have the sector of an address in the L1 slice, filling it from the home on a miss (R211). -/
def State.l1Fill (s : State) (c sa : Nat) : State :=
  match (s.core c).sector? sa with
  | some _ => s
  | none =>
    let s := s.l1Room c sa
    s.modCore c fun k => { k with l1 := k.l1 ++ [⟨sa, BitVec.ofNat 256 (Memory.read s.mem sa 32), 0, [], s.poisoned sa 32⟩] }

/-- A load of a byte reads poison (R405): in the sector of the L1 that gives it, which took it from its home, or at the home. -/
def State.loadPoisoned (s : State) (c pa n : Nat) (inL1 : Bool) : Bool :=
  match (if inL1 then (s.core (s.l1Slice c pa)).sector? (sectorOf pa) else none) with
  | some x => x.poison
  | none => s.poisoned pa n

/-- Bytes of the home that an access past the L1 has read or written, as the core's L1 shows them from then on (R338); it copies no
other byte (R327). -/
def State.l1Show (s : State) (c pa : Nat) (bs : List Byte) : State :=
  let sas := ((List.range bs.length).map fun i => sectorOf (pa + i)).eraseDups
  sas.foldl (fun s sa =>
    let h := s.l1Slice c sa
    if ((s.core h).sector? sa).isNone then s
    else s.modCore h (·.modSector sa fun x =>
      let idx := (List.range 32).filter fun i => decide (pa ≤ sa + i) && decide (sa + i < pa + bs.length)
      { x with data := BitVec.ofNat 256 (leNat ((List.range 32).map fun i =>
                  if idx.contains i then nth 0 bs (sa + i - pa) else BitVec.ofNat 8 (bits x.data.toNat (8 * i) 8))),
               dirty := x.dirty &&& ~~~(BitVec.ofNat 32 (maskOf idx)) })) s

/-- An access under a leaf that the L1 holds (R211). -/
def Leaf.cached (l : Leaf) : Bool := l.cp == 0 && l.ord != 0 && decide (l.apt < 4)

/-- The bytes that one fibre's older stores in the store buffer give a sector (R210): mask and data, later entries over earlier ones. -/
def Core.forward (k : Core) (slot fid before sa : Nat) : Nat × Nat :=
  k.sb.foldl (fun acc e =>
    match e.kind with
    | .store owners _ data =>
      if e.slot == slot && decide (e.id < before) && e.leaf.apt < 4 && sectorOf (e.leaf.phys e.va) == sa then
        match owners.find? (·.1 == fid) with
        | some o => (List.range 32).foldl (fun acc i =>
            if o.2.getLsbD i then (acc.1 ||| 2 ^ i, acc.2 - (bits acc.2 (8 * i) 8) * 2 ^ (8 * i) + (bits data.toNat (8 * i) 8) * 2 ^ (8 * i))
            else acc) acc
        | none => acc
      else acc
    | .red .. => acc) (0, 0)

/-- The sector that a fibre's load reads (R210, R211): from the L1, filling it, or from the home; its own older stores laid over. -/
def State.loadSector (s : State) (c slot fid before : Nat) (l : Leaf) (sa : Nat) : Nat × State :=
  let (base, s) :=
    if l.cached then
      let h := s.l1Slice c sa
      let s := s.l1Fill h sa
      (match (s.core h).sector? sa with | some x => x.data.toNat | none => 0, s)
    else
      let s := s.writeBack (s.l1Slice c sa) sa
      (Memory.read s.mem sa 32, s)
  let fw := (s.core c).forward slot fid before sa
  (leNat ((List.range 32).map fun i => BitVec.ofNat 8 (bits (if fw.1.testBit i then fw.2 else base) (8 * i) 8)), s)

/-- A write by the hardware to physical memory, which a core's own L1 then shows as well (R168). -/
def State.coherentWrite (s : State) (c pa : Nat) (bs : List Byte) : State :=
  State.l1Show { s with mem := Memory.putBytes s.mem pa bs } c pa bs

/-- A write by the hardware to a virtual address of a context, page by page of 64 KiB; a page that does not translate takes none. -/
def State.writeVirt (s : State) (c ctx : Nat) (secure : Bool) (va : Nat) (bs : List Byte) : State :=
  match s.lookWalk ctx secure .write va with
  | .ok l => s.coherentWrite c (l.phys va) bs
  | _ => s

/-- Bytes at a virtual address of a context, read at the home; none where the page does not translate. -/
def State.readVirt (s : State) (ctx : Nat) (secure : Bool) (va n : Nat) : Option (List Byte) :=
  match s.lookWalk ctx secure .read va with
  | .ok l => if l.apt < 4 then some (Memory.bytes s.mem (l.phys va) n) else none
  | _ => none

/-- Bytes that may cross pages, read one page of 64 KiB at a time. -/
def State.readVirtLong (s : State) (ctx : Nat) (secure : Bool) : Nat → Nat → Nat → Option (List Byte)
  | 0, _, _ => some []
  | fuel + 1, va, n =>
    if n = 0 then some []
    else
      let m := min n (2 ^ 16 - va % 2 ^ 16)
      match s.readVirt ctx secure va m, State.readVirtLong s ctx secure fuel (va + m) (n - m) with
      | some a, some b => some (a ++ b)
      | _, _ => none

/-- A fibre has nothing unacknowledged and nothing in the side log (R190). -/
def State.released (s : State) (c slot fid : Nat) : Bool :=
  (match s.fibre? c slot fid with | some f => f.unack == 0 | none => true) &&
    !((s.core c).sidelog.any fun e => e.slot == slot && e.fid == fid)

/-- What a waiting release brings about (R212): the write-back of the sectors that hold the fibre's stores; the L1 keeps them (R327). -/
def State.releaseWork (s : State) (c slot fid : Nat) : State :=
  (s.l1Domain c).foldl (fun s x =>
    (s.core x).l1.foldl (fun s e => if e.owners.contains (ownerOf c slot fid) then s.writeBack x e.pa else s) s) s

/-- The team's scratchpad word and byte access (R175, R181), physical to the core. -/
def State.spadRead (s : State) (c off n : Nat) : Nat := Memory.read (s.core c).spad off n

def State.spadWrite (s : State) (c off n v : Nat) : State := s.modCore c fun k => { k with spad := Memory.write k.spad off n v }

end Sys2Proof.Machine
end

