-- ==== Sys2Proof/Machine/QueueBlock.lean ====
section
/-!
DEFINITION. The control block of a queue object (R250-R253): its fields, its check code, where it lies, and the withdrawal of operations
(R269).
-/
namespace Sys2Proof.Machine

open Sys2Proof

def Block.base (b : List Byte) : Nat := field b 0x00 8
def Block.head (b : List Byte) : Nat := field b 0x08 4
def Block.tail (b : List Byte) : Nat := field b 0x0C 4
def Block.free (b : List Byte) : Nat := field b 0x10 4
def Block.log2 (b : List Byte) : Nat := field b 0x14 1
def Block.esz (b : List Byte) : Nat := field b 0x15 1
def Block.scope (b : List Byte) : Nat := field b 0x16 1
def Block.state (b : List Byte) : Nat := field b 0x17 1
def Block.wsum (b : List Byte) : Nat := field b 0x18 8
def Block.phase (b : List Byte) : Nat := field b 0x20 8
def Block.drops (b : List Byte) : Nat := field b 0x2C 2
def Block.chk (b : List Byte) : Nat := field b 0x2E 2

/-- Slots `N` (R253). -/
def Block.slots (b : List Byte) : Nat := 2 ^ Block.log2 b

/-- Elements held, `occ` (R253). -/
def Block.occ (b : List Byte) : Nat := (Block.tail b + 2 ^ 32 - Block.head b) % 2 ^ 32

/-- A 16-bit value rotated left (R252). -/
def rotl16 (h n : Nat) : Nat := (h * 2 ^ (n % 16) % 2 ^ 16) ||| (h / 2 ^ (16 - n % 16))

/-- `Chk` of R252 over the other 31 halfwords. -/
def Block.check (b : List Byte) : Nat :=
  (List.range 32).foldl (fun c j => if j = 23 then c else c ^^^ rotl16 (field b (2 * j) 2) (j % 16)) 0x5A5A

/-- The block with its check code rewritten (R252). -/
def Block.sealed (b : List Byte) : List Byte := putField b 0x2E 2 (Block.check b)

/-- Whether a block is a stage ring's (R250). -/
def QTgt.ring? : QTgt → Bool
  | .ring .. => true
  | .global .. => false

/-- The inconsistency of R253, less the phase of the slot that an operation touches. -/
def Block.inconsistent (ring : Bool) (b : List Byte) : Bool :=
  Block.chk b != Block.check b ||
  (b.length != 64 || field b 0x28 4 != 0 || field b 0x30 16 != 0 || decide (32 ≤ Block.log2 b) || decide (2 ≤ Block.esz b) ||
    decide (8 ≤ Block.scope b) || decide (4 ≤ Block.state b) || bits (Block.wsum b) 48 16 != 0) ||
  (Block.scope b == 0 || Block.scope b == 7) ||
  decide ((if ring then 6 else 24) < Block.log2 b) ||
  (decide (Block.slots b < Block.occ b) || Block.occ b + Block.free b != Block.slots b) ||
  (if ring then decide (2 ^ Block.slots b ≤ Block.phase b) else Block.phase b != 0)

/-- `lap` of R267. -/
def Block.lap (b : List Byte) (count : Nat) : Nat := count / 2 ^ Block.log2 b % 2

/-- The slot that a push touches has the wrong phase (R267). -/
def Block.pushPhaseBad (b : List Byte) : Bool :=
  bits (Block.phase b) (Block.tail b % Block.slots b) 1 != 1 - Block.lap b (Block.tail b)

/-- The slot that a pop touches has the wrong phase (R267). -/
def Block.popPhaseBad (b : List Byte) : Bool :=
  bits (Block.phase b) (Block.head b % Block.slots b) 1 != Block.lap b (Block.head b)

def State.readBlock (s : State) : QTgt → List Byte
  | .global pa _ _ => Memory.bytes s.mem pa 64
  | .ring c off => Memory.bytes (s.core c).spad off 64

/-- The keeper's write of a block, its check code rewritten in the same step (R252). -/
def State.writeBlock (s : State) (t : QTgt) (b : List Byte) : State :=
  match t with
  | .global pa _ _ => { s with mem := Memory.putBytes s.mem pa (Block.sealed b) }
  | .ring c off => s.modCore c fun k => { k with spad := Memory.putBytes k.spad off (Block.sealed b) }

/-- Two addresses name one block: by its home or its bank, whatever address reached it. -/
def QTgt.same : QTgt → QTgt → Bool
  | .global a _ _, .global b _ _ => a == b
  | .ring a x, .ring b y => a == b && x == y
  | _, _ => false

/-- The element at a slot, and a write of it (R251). -/
def State.slotRead (s : State) (t : QTgt) (b : List Byte) (i : Nat) : Nat :=
  let n := if Block.esz b = 1 then 8 else 4
  match t with
  | .global pa va _ => Memory.read s.mem (pa + Block.base b + i * n - va) n
  | .ring c _ => Memory.read (s.core c).spad (Block.base b % 2 ^ 32 + i * n) n

def State.slotWrite (s : State) (t : QTgt) (b : List Byte) (i v : Nat) : State :=
  let n := if Block.esz b = 1 then 8 else 4
  match t with
  | .global pa va _ => s.homeWrite (pa + Block.base b + i * n - va) n v
  | .ring c _ => s.spadWrite c (Block.base b % 2 ^ 32 + i * n) n v

/-- The waiter-summary lane of an operation (R251): pushes 0, pops 1, drains 2. -/
def QKind.lane : QKind → Nat
  | .push .. => 0
  | .pop .. => 1
  | _ => 2

/-- The operation writes its block: `qpeek` and `qstat` only read it (R262, R263). -/
def QKind.writes : QKind → Bool
  | .peek _ | .stat => false
  | _ => true

/-- The parked operations on a block, in park order. -/
def State.parkedOn (s : State) (t : QTgt) : List QOp := s.qops.filter fun o => o.parked && o.tgt.same t

/-- Change the count of parked operations of a kind in the block's `WSUM` (R251). -/
def wsumAdd (b : List Byte) (k : QKind) (up : Bool) : List Byte :=
  let n := field b (0x18 + 2 * k.lane) 2
  putField b (0x18 + 2 * k.lane) 2 (if up then n + 1 else n - 1)

/-- Withdraw an operation (R269): a parked one leaves `WSUM`, one not yet received is gone. -/
def State.withdrawOp (s : State) (o : QOp) : State :=
  let s := { s with qops := s.qops.filter (·.id != o.id) }
  if o.parked then s.writeBlock o.tgt (wsumAdd (s.readBlock o.tgt) o.kind false) else s

/-- Withdraw a fibre's queue operation: the operation goes when no other fibre of a gang form waits for it. -/
def State.withdrawFibre (s : State) (c slot fid : Nat) : State :=
  s.qops.foldl (fun s o =>
    match o.who with
    | .fibres c' slot' fids =>
      if c' == c && slot' == slot && fids.contains fid then
        let rest := fids.filter (· != fid)
        if rest.isEmpty then s.withdrawOp o
        else { s with qops := modWhere (fun x => x.id == o.id) (fun x => { x with who := QWho.fibres c slot rest }) s.qops }
      else s
    | _ => s) s

end Sys2Proof.Machine
end

