-- ==== Sys2Proof/Machine/Ops.lean ====
section
/-!
DEFINITION. The shared operations of every fibre instruction: the landing of results (R54-R57, R60, R103), gangs (R106-R111), team
barriers (R272), the end of a fibre (R115-R117), taking a trap and returning from one (R167-R170, R289), and the issue of an instruction
through the checks of R68.
-/
namespace Sys2Proof.Machine

open Sys2Proof

-- results and their landing

def Fibre.write (f : Fibre) (w : PendW) : Fibre :=
  match w.loc with
  | .v n => f.setReg n w.val
  | .p n => f.setPred n (w.val != 0)

/-- Land the results that `p` selects, in issue order: a result behind an earlier one of the same place that has not landed is held
(R56). -/
def landList (p : PendW → Bool) : List PendW → List Loc → Fibre → Fibre
  | [], _, f => f
  | w :: r, held, f =>
    if p w && !held.contains w.loc then landList p r held (f.write w)
    else landList p r (w.loc :: held) { f with pend := f.pend ++ [w] }

def Fibre.land (f : Fibre) (p : PendW → Bool) : Fibre := landList p f.pend [] { f with pend := [] }

/-- Due by cycle `now` (R54). -/
def Due.dueBy (d : Due) (now : Nat) : Bool :=
  match d with
  | .at c => decide (c ≤ now)
  | _ => false

/-- A variable-latency result, known or not (R54). -/
def Due.variable (d : Due) : Bool :=
  match d with
  | .at _ => false
  | _ => true

/-- Land what a fibre's issued instructions write to its registers and predicates by fixed latency, whenever it is due (R60). -/
def Fibre.settle (f : Fibre) : Fibre := f.land fun w => !w.due.variable

/-- The cycle at which a pending uniform write lands, none while it is not known; `force` selects known writes that land now; an earlier
write of one of its fibres to the same register holds it (R56, R103). -/
def uniformDues (now : Nat) (force : PendU → Bool) : List PendU → List (PendU × Option Nat) → List (PendU × Option Nat)
  | [], acc => acc
  | w :: r, acc =>
    let own := match w.due with
      | .at c => some (if force w then min c now else c)
      | .ready => if force w then some now else none
      | .out => none
    let due := acc.foldl (fun d x =>
      if x.1.role == w.role && x.1.k == w.k && x.1.fids.any w.fids.contains then
        match d, x.2 with
        | some a, some b => some (max a b)
        | _, _ => none
      else d) own
    uniformDues now force r (acc ++ [(w, due)])

/-- Land the uniform writes due by `now`, in the order of their cycles (R103). -/
def Team.landUniform (t : Team) (now : Nat) (force : PendU → Bool) : Team :=
  let ds := uniformDues now force t.upend []
  let isDue (x : PendU × Option Nat) : Bool := match x.2 with | some d => decide (d ≤ now) | none => false
  let go := sortBy (fun x : PendU × Option Nat => x.2.getD 0) (ds.filter isDue)
  go.foldl (fun t x => t.setUreg x.1.role x.1.k x.1.val) { t with upend := (ds.filter fun x => !isDue x).map (·.1) }

/-- Everything that issued instructions of some fibres write by fixed latency lands (R60): registers, predicates, uniform registers, and
the counts that come with them. -/
def Team.settle (t : Team) (now : Nat) (p : Nat → Bool) : Team :=
  let t := (t.landUniform now fun w => !w.due.variable && w.fids.any p).landCountsIf fun a => a.fids.any p
  { t with fibres := modWhere (fun f => p f.fid) (·.settle) t.fibres }

def State.settle (s : State) (c slot : Nat) (p : Nat → Bool) : State := s.modTeam c slot (·.settle (s.now c) p)

/-- Everything of a team that is due at the core's cycle lands. -/
def State.landTeam (s : State) (c slot : Nat) : State :=
  let now := s.now c
  s.modTeam c slot fun t =>
    let t := (t.landUniform now fun _ => false).landCounts now
    { t with fibres := t.fibres.map fun f => f.land fun w => w.due.dueBy now }

/-- A result for a place of a fibre. -/
def Fibre.owe (f : Fibre) (loc : Loc) (hi : Bool) (v : BitVec 32) (due : Due) (id : Nat) : Fibre :=
  { f with pend := f.pend ++ [⟨loc, hi, v, due, id⟩] }

/-- The results of a destination operand other than a uniform register: one register, a pair, or a predicate. -/
def Fibre.oweOperand (f : Fibre) (x : Operand) (wide : Bool) (v : BitVec 64) (due : Due) (id : Nat) : Fibre :=
  match x with
  | .v i =>
    let f := f.owe (.v i.toNat) false (v.extractLsb' 0 32) due id
    if wide then f.owe (.v (i.toNat + 1)) true (v.extractLsb' 32 32) due id else f
  | .p n => f.owe (.p n.toNat) false (v.extractLsb' 0 32) due id
  | _ => f

/-- The results of a uniform destination, written once for the fibres given (R103). -/
def Team.oweUniform (t : Team) (role : Role) (k : Nat) (wide : Bool) (v : BitVec 64) (due : Due) (id : Nat) (fids : List Nat) : Team :=
  let lo : PendU := ⟨role, k, false, v.extractLsb' 0 32, due, id, fids⟩
  let hi : PendU := ⟨role, k + 1, true, v.extractLsb' 32 32, due, id, fids⟩
  { t with upend := t.upend ++ (if wide then [lo, hi] else [lo]) }

/-- A variable-latency result whose value has become known, by its number. -/
def State.known (s : State) (c slot fid id : Nat) (v : BitVec 64) : State :=
  s.modFibre c slot fid fun f =>
    { f with pend := modWhere (·.id == id)
               (fun w => { w with val := if w.hi then v.extractLsb' 32 32 else v.extractLsb' 0 32, due := .ready }) f.pend }

-- gangs

/-- The next instruction's address of a fibre that completes the one at its PC; a repetition counts (R153), and one that was interrupted
goes back to its prefix (R154). -/
def Fibre.advance (f : Fibre) : Fibre :=
  match f.rep with
  | none => { f with pc := f.pc + 12, bpskip := false }
  | some r =>
    if r.n = 0 then { f with rc := f.rc + 1, rep := none, bpskip := false }
    else if f.rc.toNat + 1 < r.n then { f with rc := f.rc + 1, bpskip := false }
    else { f with rc := 0, rep := none, pc := f.pc + 24, bpskip := false }

def Fibre.jump (f : Fibre) (pc : BitVec 56) : Fibre := { f with pc := pc, bpskip := false }

/-- A repetition is interrupted (R154): the prefix is performed again, after the iteration in which the fibre still waits. -/
def Fibre.interrupt (f : Fibre) : Fibre :=
  { f with rep := match f.wait with | some _ => f.rep.map ({ · with n := 0 }) | none => none }

/-- The fibre `g` has become has completed the instruction of `f` in a wait that ends; a stepped fibre stops before its next one (R114,
R302). -/
def Fibre.goesOn (f g : Fibre) : Fibre :=
  let g := { g with wait := none }
  if f.stepping && f.run == .running then
    { g with pendTrap := g.pendTrap <|> some { cause := .step, next := true, ipc := some f.pc, inrep := some f.rep.isSome } }
  else g

/-- A fibre's wait ends, and it goes on in sequence. -/
def Fibre.released (f : Fibre) : Fibre := f.goesOn f.advance

/-- A fibre that a gang may hold: it runs, and waits for no other party, nor for room in the side log (R284). -/
def Fibre.runnable (f : Fibre) : Bool := f.run == .running && f.wait.isNone && f.logWait == 0

/-- What the fibres of one gang have in common (R107). -/
def Fibre.sameCourse (f g : Fibre) : Bool := f.pc == g.pc && f.rc == g.rc && f.rep.isSome == g.rep.isSome && f.role == g.role

/-- Split a list of fibres into parts of one course, each in its order (R107). -/
def courseParts : List Fibre → List (List Fibre)
  | [] => []
  | f :: r =>
    let rest := courseParts r
    match rest.findIdx? (fun p => p.any (f.sameCourse ·)) with
    | some i => modAt rest i (f :: ·)
    | none => [f] :: rest

/-- Runs of fibres that may form one gang (R106): up to 32, of one course, in distinct lanes. -/
def gangRuns : List Fibre → List Fibre → List (List Fibre)
  | [], cur => if cur.isEmpty then [] else [cur]
  | f :: r, cur =>
    match cur with
    | [] => gangRuns r [f]
    | g :: _ =>
      if cur.length < 32 && f.sameCourse g && !(cur.any (·.lane == f.lane)) then gangRuns r (cur ++ [f])
      else cur :: gangRuns r [f]

/-- The gangs that fibres without an entry form when they get one (R111): each alone, but the fibres of one `lsync` release together
(R164). -/
def Core.loose (k : Core) (listed : List Gang) : List Gang :=
  k.teams.flatMap fun t =>
    let fs := t.fibres.filter fun f => f.runnable && !(listed.any fun g => g.slot == t.slot && g.fids.contains f.fid)
    let gang (p : List Fibre) : Gang := ⟨t.slot, (sortBy (·.lane) p).map (·.fid), (p.map (·.ready)).foldl max 0⟩
    let bonds := ((fs.map (·.bond)).filter (· != 0)).eraseDups
    ((fs.filter (·.bond == 0)).map fun f => gang [f]) ++ bonds.flatMap fun b => (gangRuns (fs.filter (·.bond == b)) []).map gang

/-- The gang table made good (R107, R111): fibres that cannot issue leave, gangs split by course, empty ones go, and fibres without an
entry take free ones. -/
def Core.regang (k : Core) : Core :=
  let parts : List (List Gang) := k.gangs.map fun g =>
    match k.team? g.slot with
    | none => []
    | some t =>
      (courseParts ((g.fids.filterMap t.fibre?).filter (·.runnable))).map fun p => ⟨g.slot, p.map (·.fid), g.readyAt⟩
  let listed := (parts.filterMap List.head? ++ parts.flatMap (·.drop 1)).take 64
  { k with gangs := listed ++ (sortBy (·.readyAt) (k.loose listed)).take (64 - listed.length) }

def State.regang (s : State) (c : Nat) : State :=
  let s := s.modCore c (·.regang)
  let k := s.core c
  if k.gangs.length = 64 && !(k.loose k.gangs).isEmpty then s.spawnOnce .gangEntryFree { core := c } else s

/-- The fibres given may not issue before a cycle, nor before the end of a stall that they have still to wait out (R55). The cycle is the
one from which a fibre's readiness counts (R118). -/
def Core.holdUntil (k : Core) (slot : Nat) (fids : List Nat) (readyAt : Nat) : Core :=
  k.modTeam slot fun t => { t with fibres := modWhere (fun f => fids.contains f.fid) (fun f => { f with ready := max f.ready readyAt }) t.fibres }

/-- The latest of the cycles before which fibres may not issue. -/
def Core.readyFrom (k : Core) (slot : Nat) (fids : List Nat) : Nat :=
  match k.team? slot with
  | none => 0
  | some t => ((fids.filterMap t.fibre?).map (·.ready)).foldl max 0

/-- The gang table with some fibres taken out of their gangs; a gang that loses its last one gives its entry up. -/
def Core.leaveGangs (k : Core) (slot : Nat) (fids : List Nat) : Core :=
  { k with gangs := (k.gangs.map fun g => if g.slot == slot then { g with fids := g.fids.filter (!fids.contains ·) } else g).filter (!·.fids.isEmpty) }

/-- Take fibres out of their gangs, and give them a gang of their own with a cycle before which it may not issue. A gang that consists of
just these keeps its entry. -/
def Core.splitOff (k : Core) (slot : Nat) (fids : List Nat) (readyAt : Nat) : Core :=
  if fids.isEmpty then k
  else
    let k := k.holdUntil slot fids readyAt
    let g : Gang := ⟨slot, fids, k.readyFrom slot fids⟩
    if k.gangs.any fun h => h.slot == slot && h.fids == fids then
      { k with gangs := modWhere (fun h => h.slot == slot && h.fids == fids) (fun _ => g) k.gangs }
    else { k.leaveGangs slot fids with gangs := (k.leaveGangs slot fids).gangs ++ [g] }

/-- The stall of the gangs that hold the fibres given (R55). -/
def Core.stall (k : Core) (slot : Nat) (fids : List Nat) (readyAt : Nat) : Core :=
  { k.holdUntil slot fids readyAt with
    gangs := modWhere (fun g => g.slot == slot && g.fids.any fids.contains) (fun g => { g with readyAt := max g.readyAt readyAt }) k.gangs }

/-- Fibres that may issue from a cycle on, whatever stall they had: a repeat prefix gives its gang back the cycle it took (R153). -/
def Core.restart (k : Core) (slot : Nat) (fids : List Nat) (readyAt : Nat) : Core :=
  { k.modTeam slot (·.modGang fids fun f => { f with ready := readyAt }) with
    gangs := modWhere (fun g => g.slot == slot && g.fids.any fids.contains) (fun g => { g with readyAt := readyAt }) k.gangs }

/-- Gangs for fibres that come to run together (R106, R164), while the table has room; without room they wait for an entry (R111). -/
def State.formGangs (s : State) (c slot : Nat) (fids : List Nat) (readyAt : Nat) : State :=
  match s.team? c slot with
  | none => s
  | some t =>
    let runs := gangRuns ((fids.filterMap t.fibre?).filter (·.runnable)) []
    let s := runs.foldl (fun s p =>
      s.modCore c fun k =>
        let ids := (sortBy (·.lane) p).map (·.fid)
        let rest := k.leaveGangs slot ids
        if rest.gangs.length < 64 then k.splitOff slot ids readyAt else rest.holdUntil slot ids readyAt) s
    s.regang c

-- notices and the fault mailbox (R282)

def State.notice (s : State) (c : Nat) (t : Team) (kind payload : Nat) : State :=
  let w := BitVec.ofNat 64 (kind * 2 ^ 60 + t.ctx * 2 ^ 44 + payload % 2 ^ 40)
  (s.modCore c fun k => { k with notices := k.notices ++ [(t.ctx, t.fmbox.toNat, w)] }).spawn .noticePush { core := c }

-- team barriers (R270-R273)

/-- `Check` of R272: a completed phase, and the fibres that it wakes. -/
def Team.checkBarrier (t : Team) (n : Nat) : Team × List Nat :=
  match t.bars[n]? with
  | none => (t, [])
  | some b =>
    if b.cnt < b.exp then (t, [])
    else
      let ph := b.ph + 1
      let b' : Barrier := { b with ph := ph, lbyt := b.byt, byt := 0, cnt := 0, exp := b.exp - b.dec, dec := 0 }
      let wakes (f : Fibre) : Bool := f.wait == some (.barrier n) && f.bpar.getLsbD n != ph.getLsbD 0
      let bit := 1#16 <<< n
      let fs := t.fibres.map fun f =>
        let f := { f with barr := f.barr &&& ~~~bit }
        if wakes f then { f.released with bwait := false, bpar := if ph.getLsbD 0 then f.bpar ||| bit else f.bpar &&& ~~~bit }
        else f
      ({ t with bars := setAt t.bars n b', fibres := fs }, (t.fibres.filter wakes).map (·.fid))

/-- `Arrive` of R272, by a fibre or by none. -/
def Team.arrive (t : Team) (n bytes : Nat) (fid : Option Nat) : Team × List Nat :=
  let bit := 1#16 <<< n
  let t := { t with bars := modAt t.bars n fun b => { b with byt := min (b.byt + bytes) 0xFFFFFFFF, cnt := (b.cnt + 1) % 2048 } }
  let t := match fid with
    | some i => t.modFibre i fun f => if f.bmem &&& bit != 0 then { f with barr := f.barr ||| bit } else f
    | none => t
  t.checkBarrier n

/-- `MemberEnds` of R272. -/
def Team.memberEnds (t : Team) (fid n : Nat) (killed : Bool) : Team × List Nat :=
  let t := if killed then { t with bars := modAt t.bars n fun b => { b with loss := true } } else t
  match t.fibre? fid with
  | none => (t, [])
  | some f =>
    if f.barr.getLsbD n then ({ t with bars := modAt t.bars n fun b => { b with dec := (b.dec + 1) % 2048 } }, [])
    else Team.checkBarrier { t with bars := modAt t.bars n fun b => { b with exp := b.exp - 1 } } n

/-- A barrier operation on a team of a core; the woken fibres issue no sooner than 6 cycles later (R275). -/
def State.barrierOp (s : State) (c slot : Nat) (op : Team → Team × List Nat) : State :=
  match s.team? c slot with
  | none => s
  | some t =>
    let (t', woken) := op t
    let s := s.modTeam c slot fun _ => t'
    if woken.isEmpty then s else s.formGangs c slot woken (s.now c + 6)

def State.arrive (s : State) (c slot n bytes : Nat) (fid : Option Nat) : State := s.barrierOp c slot (·.arrive n bytes fid)

def State.memberEnds (s : State) (c slot fid n : Nat) (killed : Bool) : State := s.barrierOp c slot (·.memberEnds fid n killed)

-- cluster and die barriers as teams end (R316, R369)

/-- `Complete` of R316. -/
def ClusBar.complete (b : ClusBar) : ClusBar × Bool :=
  if !b.msk.isEmpty && b.msk.all b.rpt.contains then ({ b with ph := b.ph + 1, rpt := [] }, true) else (b, false)

/-- `DieComplete` of R369. -/
def DieBar.complete (b : DieBar) : DieBar × Bool :=
  if !b.memb.isEmpty && b.rep.length == b.memb.length then ({ b with ph := b.ph + 1, rep := [] }, true) else (b, false)

def ClusBar.reset : ClusBar := ⟨0, 0, [], [], false, none⟩

def DieBar.reset : DieBar := ⟨0, 0, [], [], false, none⟩

def PkgBar.reset : PkgBar := ⟨0, 0, 0, none, 0, false, none, none, false, []⟩

def State.clusBar (s : State) (cl n : Nat) : ClusBar := assocGet ClusBar.reset s.cbars (64 * cl + n)

def State.setClusBar (s : State) (cl n : Nat) (b : ClusBar) : State := { s with cbars := assocPut s.cbars (64 * cl + n) b }

def State.dieBar (s : State) (d n : Nat) : DieBar := assocGet DieBar.reset (s.die d).dbars n

def State.setDieBar (s : State) (d n : Nat) (b : DieBar) : State := s.modDie d fun x => { x with dbars := assocPut x.dbars n b }

/-- A change of a cluster barrier with its `Complete`; a completion sends the release. -/
def State.clusBarOp (s : State) (cl n : Nat) (f : ClusBar → ClusBar) : State :=
  let r := (f (s.clusBar cl n)).complete
  let s := s.setClusBar cl n r.1
  if r.2 then s.spawn .clusterBarrierRelease { clus := cl, n := n } else s

def State.dieBarOp (s : State) (d n : Nat) (f : DieBar → DieBar) : State :=
  let r := (f (s.dieBar d n)).complete
  let s := s.setDieBar d n r.1
  if r.2 then s.spawn .dieBarrierRelease { die := d, n := n } else s

/-- The launch of a team. -/
def State.launchOf? (s : State) (num : Nat) : Option Launch := s.launches.find? (·.num == num)

/-- A team as the member of its launch's die barriers: no two teams of a launch have one frame. -/
def Team.member (t : Team) : Nat × Nat := (t.launch, t.frame)

/-- A saved team as the member of its cluster barriers, in place of a core (R316). -/
def Team.saved (t : Team) : Nat := 2 ^ 20 + t.frame

/-- The launch's root domain is its die (R347). -/
def Launch.oneDie (l : Launch) : Bool :=
  match (l.record.levels.take l.record.nlv).getLast? with
  | some w => decide ((w.extractLsb' 0 4).toNat ≤ 4)
  | none => true

/-- The cluster and die barriers of which a team of core `c` is a member (R315, R368): those of its launch, which are reserved on the dies
of the root domain. -/
def State.teamBarriers (s : State) (c : Nat) (t : Team) : List Nat × List Nat :=
  match s.launchOf? t.launch with
  | none => ([], [])
  | some l =>
    if l.oneDie && dieOf c != l.die then ([], [])
    else ((List.range l.record.cbn).map (l.cbase + ·), (List.range l.record.dbn).map (l.dbase + ·))

/-- The last fibre of a team has ended: it leaves its barriers and waits to be freed (R116, R316, R369). -/
def State.teamEnds (s : State) (c : Nat) (t : Team) : State :=
  let (cs, ds) := s.teamBarriers c t
  let killed := t.killedAny
  let s := cs.foldl (fun s n => s.clusBarOp (clusOf c) n fun b =>
    if b.msk.contains c then { b with loss := b.loss || killed, msk := b.msk.filter (· != c), rpt := b.rpt.filter (· != c) } else b) s
  let me := t.member
  let s := ds.foldl (fun s n => s.dieBarOp (dieOf c) n fun b =>
    if b.memb.contains me then { b with loss := b.loss || killed, memb := b.memb.filter (· != me), rep := b.rep.filter (· != me) }
    else b) s
  s.spawn .teamFree { core := c, slot := t.slot }

-- masked synchronisation (R163-R166)

/-- The fibres that a mask of fibre `fid` names (R163). -/
def lsyncNames (fid : Nat) (m : BitVec 32) : List Nat := (setBits m.toNat 32).map (32 * (fid / 32) + ·)

/-- A waiting fibre's mask. -/
def Fibre.lsyncMask? (f : Fibre) : Option (BitVec 32) :=
  match f.wait with
  | some (.lsync m) => some m
  | _ => none

/-- Every fibre that a waiting fibre's mask names has arrived with the same mask, or is not live (R163, R164). -/
def Team.lsyncComplete (t : Team) (f : Fibre) (m : BitVec 32) : Bool :=
  (lsyncNames f.fid m).all fun n =>
    match t.fibre? n with
    | some g => g.role != f.role || g.lsyncMask? == some m
    | none => true

/-- Complete what can complete at `lsync` in a team: the fibres of one mask issue next as one gang (R164). -/
def State.lsyncCheck (s : State) (c slot : Nat) : State :=
  match s.team? c slot with
  | none => s
  | some t =>
    t.fibres.foldl (fun s f =>
      match (s.fibre? c slot f.fid).bind (·.lsyncMask?) with
      | none => s
      | some m =>
        if t.lsyncComplete f m then
          let fs := (lsyncNames f.fid m).filter fun n => match t.fibre? n with | some g => g.role == f.role | none => false
          let (id, s) := s.fresh
          let s := s.modTeam c slot fun t =>
            { t with fibres := modWhere (fun g => fs.contains g.fid) (fun g => { g.released with bond := id + 1 }) t.fibres }
          s.formGangs c slot fs (s.now c + 1)
        else s) s

-- engine commands given up

/-- A command leaves its queue: its range entries go, and so do its captures of translations (R187, R383). -/
def State.dropCmd (s : State) (id : Nat) : State :=
  s.coreNums.foldl (fun s c => s.modCore c fun k =>
    { k with eqmx := k.eqmx.filter (·.id != id), eqcp := k.eqcp.filter (·.id != id), eqgx := k.eqgx.filter (·.id != id),
             ranges := k.ranges.filter (·.cmd != id),
             tlb := (k.tlb.map fun e => { e with users := e.users.filter (· != id) }).filter
               fun e => !(e.revoking && e.users.isEmpty) }) s

/-- A copy given up (R117, R287): it writes nothing more, performs no completion action, and frees its range entries; it retires. -/
def State.cancelCopy (s : State) (c id : Nat) : State :=
  let s := s.modCore c fun k =>
    { k with eqcp := modWhere (·.id == id) (fun q => { q with moved := true, acted := true, stopped := false, targets := [] }) k.eqcp }
  let s := s.coreNums.foldl (fun s c => s.modCore c fun k => { k with ranges := k.ranges.filter (·.cmd != id) }) s
  s.spawn .rangeEntryRetire { core := c, id := id }

/-- Cancel the side-log entries of a fibre, its writes that wait for room there, and the copies of it that stand stopped (R117). DESIGN
CHOICE: a cancelled entry gives its place up at once, so that `STAT` 1 is never seen (notes/assumptions/63.md). -/
def State.cancelSideLog (s : State) (c slot fid : Nat) : State :=
  let cmds := (s.core c).eqcp.filter fun q => q.stopped && q.slot == slot && q.fid == fid
  let s := cmds.foldl (fun s q => s.cancelCopy c q.id) s
  s.modCore c fun k =>
    { k with sidelog := k.sidelog.filter fun e => !(e.slot == slot && e.fid == fid),
             sb := (k.sb.map fun e => if e.toLog.isSome && e.slot == slot then { e with kind := e.kind.without fid } else e).filter
               fun e => e.toLog.isNone || !e.kind.fids.isEmpty }

/-- A waiter leaves the crier table (R393). -/
def State.withdrawCrier (s : State) (c slot fid : Nat) : State :=
  s.modForum fun g => { g with crier := g.crier.filter fun e => e.2.2 != .fibre c slot fid }

/-- Carve-out requests for which no fibre waits any more are withdrawn (R225). -/
def State.dropOrphans (s : State) (c slot : Nat) : State :=
  let waits (id : Nat) : Bool := match s.team? c slot with
    | some t => t.fibres.any fun f => match f.wait with | some (.carve i _) => i == id | _ => false
    | none => false
  s.modCore c fun k => { k with carve := k.carve.filter fun e => e.2.1 != slot || waits e.1 }

/-- A fibre that has not performed the access it waits for: no watchpoint has matched (R300). -/
def Fibre.unmatched (f : Fibre) : Fibre := { f with pendTrap := if f.pendTrap.any (·.cause == .watchpoint) then none else f.pendTrap }

/-- Withdraw what a fibre waits for at another party (R117, R166, R225, R269, R393); its PC stays at the instruction. The other lanes of a
queue instruction wait for it no more (R257). -/
def State.withdraw (s : State) (c slot fid : Nat) : State :=
  let s := (((s.withdrawFibre c slot fid).withdrawCrier c slot fid).modFibre c slot fid fun f =>
    { (match f.wait with | some (.queue _) => f.unmatched | _ => f) with wait := none }).dropOrphans c slot
  let answered := match s.team? c slot with
    | some t => t.fibres.any fun f => match f.wait with | some (.answered ..) => true | _ => false
    | none => false
  if answered then s.spawn .queueOpAtKeeper { core := c, slot := slot } else s

-- remote regions as they end without a commit (R461-R464)

/-- An outstanding message of a fibre's region before its apply. -/
def RemoteOut.ofRegion (o : RemoteOut) (c slot fid : Nat) : Bool :=
  match o.what with
  | .stage c' s' f' _ | .prepare c' s' f' => c' == c && s' == slot && f' == fid
  | _ => false

/-- The number of a region (R460): the core, and the region slot. -/
def regionNumber (c rgn : Nat) : Nat := c * 256 + rgn

/-- A fibre's region is discarded at every target (R463), unless its apply has been sent; a staged write on its way counts no more. -/
def State.discardRegion (s : State) (c slot fid : Nat) : State :=
  match (s.fibre? c slot fid).bind (·.region) with
  | none => s
  | some r =>
    if r.applying then s
    else
      let open_ := s.forum.out.filter fun o => o.ofRegion c slot fid
      let n := (open_.filter fun o => match o.what with | .stage .. => true | _ => false).length
      let s := s.modForum fun g =>
        { g with out := g.out.filter (fun o => !o.ofRegion c slot fid),
                 sent := g.sent ++ ((r.staged.map (·.1)).eraseDups).map fun p => (p, .discard (regionNumber c r.rgn)) }
      s.modFibre c slot fid fun f => { f with unack := f.unack - n }

/-- `Rollback` (R461, R464): the checkpoint is restored, `p`D is 0, `v`S the status, and the fibre continues after its `rmt.open`. -/
def State.rollback (s : State) (c slot fid status : Nat) : State :=
  (s.discardRegion c slot fid).modFibre c slot fid fun f =>
    match f.region with
    | none => f
    | some r =>
      let keep (w : PendW) : Bool := match w.loc with | .v n => decide (32 ≤ n) | .p _ => false
      let f := { f with pred := r.pred, srstep := r.srstep, regs := r.regs ++ f.regs.drop r.regs.length, pend := f.pend.filter keep,
                        pc := r.resume, region := none, wait := none, rep := none }
      (f.setPred r.pd.toNat false).setReg r.vs.toNat (BitVec.ofNat 32 status)

-- the end of a fibre

/-- The first cause that a fibre's end leaves to others: barriers it belongs to, fibres that wait for it (R115, R163, R272, R382). -/
def State.endFibre (s : State) (c slot fid : Nat) (killed : Bool) : State :=
  match s.fibre? c slot fid with
  | none => s
  | some f =>
    let s := (setBits f.bmem.toNat 16).foldl (fun s n => s.memberEnds c slot fid n killed) s
    let s := if f.region.isSome then s.discardRegion c slot fid else s
    let s := s.modTeam c slot fun t =>
      { t with fibres := t.fibres.filter (·.fid != fid), killedAny := t.killedAny || killed }
    let s := (s.lsyncCheck c slot).regang c
    let s := match s.team? c slot with
      | none => s
      | some t =>
        let s := if t.fibres.isEmpty then s.teamEnds c t else s
        if t.fibres.any fun g => match g.wait with | some (.regrp ..) => g.role == f.role | _ => false then
          s.spawnOnce .regroupComplete { core := c, slot := slot, role := f.role } else s
    s

/-- Kill a fibre (R115, R117): what it waits for is withdrawn and its side-log entries are cancelled; what it has sent goes on. -/
def State.kill (s : State) (c slot fid : Nat) : State :=
  (((s.withdraw c slot fid).cancelSideLog c slot fid)).endFibre c slot fid true

-- taking a trap

/-- The trap record of R168 as its 64 bytes. -/
def trapRecord (f : Fibre) (ipc rpc : BitVec 56) (inrep hdl : Bool) (lmask : BitVec 32) (now : Nat) (t : Trap) : List Byte :=
  leBytes ipc.toNat 8 ++ leBytes rpc.toNat 8 ++ leBytes t.addr.toNat 8 ++ leBytes lmask.toNat 4 ++ leBytes f.fid 2 ++
  leBytes t.cause.code 1 ++ leBytes ((if inrep then 1 else 0) + (if hdl then 2 else 0)) 1 ++ leBytes f.rc.toNat 4 ++
  leBytes f.pred.toNat 2 ++ leBytes t.opnd 1 ++ leBytes f.lane 1 ++ leBytes t.info.toNat 8 ++ leBytes now 8 ++ leBytes 0 8

/-- `FRBASE`, the fault-record region in the team frame (R281, R350). -/
def Team.frbase (t : Team) : Nat := t.frame + 0x4000

/-- Where a fibre's trap record lies (R168). -/
def recordAddr (t : Team) (fid : Nat) : Nat := t.frbase + 0x1000 + 64 * fid

def State.writeRecord (s : State) (c : Nat) (t : Team) (f : Fibre) (ipc rpc : BitVec 56) (inrep hdl : Bool) (lmask : BitVec 32)
    (tr : Trap) : State :=
  s.writeVirt c t.ctx t.world (recordAddr t f.fid) (trapRecord f ipc rpc inrep hdl lmask (s.now c) tr)

/-- A debugger takes a stop of this cause (R169, R301). -/
def Cause.debugger : Cause → Bool
  | .breakpoint | .watchpoint | .step => true
  | _ => false

/-- Stop the team for `DOUBLE_FAULT` (R289): the record, every fibre held, `STOPPED`, and a notice. -/
def State.doubleFault (s : State) (c slot : Nat) (f : Fibre) (ipc : BitVec 56) (tr : Trap) : State :=
  match s.team? c slot with
  | none => s
  | some t =>
    let bs := leBytes ipc.toNat 8 ++ leBytes tr.addr.toNat 8 ++ leBytes (s.now c) 8 ++ leBytes f.fid 2 ++ leBytes tr.cause.code 1 ++
      leBytes 0 5
    let s := s.writeVirt c t.ctx t.world (t.frbase + 0x20) bs
    let s := (s.settle c slot fun _ => true).modTeam c slot fun t =>
      { t with stopped := true, fibres := t.fibres.map fun f => { f.interrupt with run := .stopped } }
    (s.notice c t 2 (t.frbase / 2 ^ 12)).regang c

/-- A debugger stop: the record, the fibre halted, its gangmates held, and with `ALLSTOP` every other fibre of the team (R114, R169,
R302). -/
def State.debugStop (s : State) (c : Nat) (t : Team) (f : Fibre) (ipc rpc : BitVec 56) (inrep : Bool) (lmask : BitVec 32) (tr : Trap) :
    State :=
  let s := s.writeRecord c t f ipc rpc inrep false lmask tr
  let mates := match (s.core c).gangs.find? fun g => g.slot == t.slot && g.fids.contains f.fid with
    | some g => g.fids.filter (· != f.fid)
    | none => []
  let hold (p : Fibre → Bool) (who : Option Nat) (s : State) : State := s.modTeam c t.slot fun t =>
    { t with fibres := modWhere (fun g => g.run == RunState.running && p g) (fun g => { g.interrupt with run := .held who }) t.fibres }
  let s := s.modFibre c t.slot f.fid fun g => { g with run := .halted, rep := none, stepping := false }
  let s := hold (fun g => mates.contains g.fid) (some f.fid) s
  (if t.dbg.ctl.getLsbD 1 then hold (fun _ => true) none s else s).regang c

/-- Take a trap (R169). `ipc` is the instruction's address, `inrep` says that it ran in a repetition; a fibre that completed the
instruction has advanced already, so that `RPC` is its PC (R154, R167). A trap inside a remote region rolls it back first (R464). -/
def State.takeTrap (s : State) (c slot fid : Nat) (ipc : BitVec 56) (inrep : Bool) (lmask : BitVec 32) (tr : Trap) : State :=
  match s.team? c slot, s.fibre? c slot fid with
  | some t, some f0 =>
    let stop := tr.cause.debugger && t.dbg.ctl.getLsbD 0
    let ipc := tr.ipc.getD ipc
    let inrep := tr.inrep.getD inrep
    let rolls := f0.region.isSome && !stop && tr.cause != .regionAbort
    let s := s.settle c slot (· == fid)
    let s := if rolls then s.rollback c slot fid 10 else s
    match s.fibre? c slot fid with
    | none => s
    | some f =>
      let rpc := if rolls then f.pc else tr.rpc.getD f.pc
      let lm := tr.lmask.getD lmask
      if stop then s.debugStop c t f ipc rpc inrep lm tr
      else if f.inh then s.doubleFault c slot f ipc tr
      else
        let handled := t.tmask.getLsbD tr.cause.code
        let s := s.writeRecord c t f ipc rpc inrep handled lm tr
        if handled then
          (s.modFibre c slot fid fun f =>
            { f with inh := true, pc := t.tvec.extractLsb' 0 56, rep := none, wait := none, bpskip := false }).regang c
        else s.kill c slot fid
  | _, _ => s

/-- The fields of a trap record that `ret.trap` reads (R170): `RPC`, `RC`, `PRED` and `FLAGS`. -/
def readRecord (bs : List Byte) : BitVec 56 × BitVec 32 × BitVec 16 × Nat :=
  (BitVec.ofNat 56 (field bs 8 8), BitVec.ofNat 32 (field bs 32 4), BitVec.ofNat 16 (field bs 36 2), field bs 31 1)

-- the issue of an instruction

/-- What an instruction's own effect sees: the core and team slot, the gang's fibres and the active ones in ascending lane order, the
cycle, the instruction's address, and the gang's lane set. -/
structure Ctx where
  core : Nat
  slot : Nat
  gang : List Nat
  act : List Nat
  now : Nat
  pc : BitVec 56
  lanes : BitVec 32
  deriving DecidableEq, Repr

/-- What becomes of an active fibre at its instruction: it completes, or completes elsewhere; it stays at the instruction and tries
again, in a wait that another party may prolong or not; it waits for another party, which its state says; it takes a trap; it has ended. -/
inductive LaneRes where
  | done
  | jump (pc : BitVec 56)
  /-- as `jump`, past an instruction breakpoint (R170) -/
  | jumpSkip (pc : BitVec 56)
  | retry
  | waitAgain
  | block
  | trap (t : Trap)
  | ended
  deriving DecidableEq, Repr

/-- The value of an operand for a fibre. -/
def Ctx.rd (x : Ctx) (s : State) (fid : Nat) (wide : Bool) (o : Operand) : BitVec 64 :=
  match s.team? x.core x.slot with
  | none => 0
  | some t => match t.fibre? fid with
    | none => 0
    | some f => readOperand s x.core t f x.lanes x.now wide o

/-- The value that a gang reads once, from its lowest active lane (R112). -/
def Ctx.rdU (x : Ctx) (s : State) (wide : Bool) (o : Operand) : BitVec 64 := x.rd s (x.act.headD 0) wide o

def Ctx.team (x : Ctx) (s : State) : Option Team := s.team? x.core x.slot

def laneMask (t : Team) (fids : List Nat) : BitVec 32 := BitVec.ofNat 32 (maskOf ((fids.filterMap t.fibre?).map (·.lane)))

/-- A pending result touches a use of an operand. -/
def Use.hits (u : Use) (loc : Loc) : Bool :=
  match u.x, loc with
  | .v i, .v n => decide (i.toNat ≤ n) && decide (n < i.toNat + u.len)
  | .p i, .p n => decide (i.toNat ≤ n) && decide (n < i.toNat + u.len)
  | _, _ => false

/-- A pending uniform write of the fibre's own touches a use (R57, R103). -/
def Use.hitsU (u : Use) (f : Fibre) (w : PendU) : Bool :=
  match u.x with
  | .k i => w.role == f.role && decide (i.toNat ≤ w.k) && decide (w.k < i.toNat + u.len) && w.fids.contains f.fid
  | _ => false

/-- The guard as a use (R52). -/
def guardUse (h : Hints) : Use := ⟨1, .p h.g, 1, true, false, false, false⟩

/-- The fibre waits by R57: a variable-latency result to a place that the instruction reads or writes is outstanding. -/
def Fibre.waitsFor (f : Fibre) (t : Team) (us : List Use) : Bool :=
  (f.pend.any fun w => w.due.variable && us.any (·.hits w.loc)) || (t.upend.any fun w => w.due.variable && us.any (·.hitsU f w))

/-- The first stale source of R58, in the order G, D, A, B, C. -/
def Fibre.stale (f : Fibre) (t : Team) (us : List Use) : Option Nat :=
  (us.find? fun u => u.src && ((f.pend.any fun w => u.hits w.loc) || (t.upend.any fun w => u.hitsU f w))).map (·.opnd)

/-- The first operand outside the window (R44). -/
def Fibre.windowFault (f : Fibre) (us : List Use) : Option Nat :=
  (us.find? fun u => match u.x with
    | .v i => decide (f.wsize < i.toNat + (if u.soft then 1 else u.len))
    | _ => false).map (·.opnd)

def Fibre.active (f : Fibre) (h : Hints) : Bool := f.pred? h.g.toNat != h.gn

/-- The copy leader of R110. -/
def Team.copyLeader (t : Team) : Option Nat := ((t.roleFibres .copy).map (·.fid)).min?

/-- Check 5 of R68 (R66, R110). -/
def rightsOk (t : Team) (gang : List Nat) (r : Rights) : Bool :=
  match r, (gang.head?.bind t.fibre?).map (·.role) with
  | .any, _ => true
  | .compute, some x => x == .vector || x == .general
  | .matrix, some x => x == .matrix
  | .copyLeader, some x => x == .copy && (match t.copyLeader with | some l => gang.contains l | none => false)
  | _, none => true

/-- The lanes whose value of a uniform operand differs from that of the lowest active lane (R112). -/
def differing (x : Ctx) (s : State) (u : Use) : List Nat :=
  let v := x.rdU s (u.len == 2) u.x
  x.act.filter fun fid => x.rd s fid (u.len == 2) u.x != v

/-- Traps of some fibres of a gang at one instruction; the record's `LMASK` holds the lanes that took the cause (R113, R168). -/
def State.trapSome (s : State) (c slot : Nat) (ipc : BitVec 56) (inrep : Bool) (traps : List (Nat × Trap)) : State :=
  match s.team? c slot with
  | none => s
  | some t =>
    (traps.foldl (fun s x =>
      let same := (traps.filter (·.2.cause == x.2.cause)).map (·.1)
      s.takeTrap c slot x.1 ipc inrep (laneMask t same) x.2) s).regang c

/-- Known results of the places that an instruction with W = 1 uses land as it awaits them (R57). -/
def State.await (s : State) (c slot : Nat) (fids : List Nat) (us : List Use) : State :=
  let now := s.now c
  s.modTeam c slot fun t =>
    let fs := fids.filterMap t.fibre?
    let t := t.landUniform now fun w => w.due.variable && fs.any fun f => us.any (·.hitsU f w)
    { t with fibres := modWhere (fun f => fids.contains f.fid)
               (fun f => f.land fun w => w.due.dueBy now || (w.due == .ready && us.any (·.hits w.loc))) t.fibres }

/-- A wait that ends without another party's action, so that no pre-emption cuts it short (R103, R458). -/
def Wait.selfEnding : Wait → Bool
  | .uniform _ | .remote _ | .scratch _ | .report _ | .keeper _ | .answered .. => true
  | _ => false

/-- A pre-emption request stands, and a fibre that would wait in a blocking instruction without a recorded point is forced (R293). -/
def State.forceWaiters (s : State) (c slot : Nat) (fids : List Nat) : State :=
  match s.team? c slot with
  | none => s
  | some t =>
    if t.preempt.isNone then s
    else (fids.foldl (fun s fid => ((s.withdraw c slot fid).settle c slot (· == fid)).modFibre c slot fid fun f =>
      { f with run := .point none, rep := none }) s).regang c

/-- Where what has become of a fibre at its instruction takes it. -/
def LaneRes.go (r : LaneRes) (f : Fibre) : Fibre :=
  match r with
  | .done => f.advance
  | .jump pc => f.jump pc
  | .jumpSkip pc => { f.jump pc with bpskip := true }
  | .trap tr => if tr.next then f.advance else f
  | _ => f

/-- The fibre has completed its instruction. -/
def LaneRes.completes : LaneRes → Bool
  | .done | .jump _ | .jumpSkip _ => true
  | .trap t => t.next
  | _ => false

def LaneRes.trap? : LaneRes → Option Trap
  | .trap t => some t
  | _ => none

/-- A lane that waits at issue. -/
def LaneRes.waits (r : LaneRes) : Bool := r == .retry || r == .waitAgain

/-- What follows an instruction's effect: fibres advance, waits stay, traps are taken, stepped fibres stop, gangs split (R55, R107,
R113, R114). -/
def State.finish (s : State) (x : Ctx) (h : Hints) (res : List (Nat × LaneRes)) (inrep : Bool) : State :=
  let c := x.core
  let resOf (fid : Nat) : LaneRes := assocGet .done res fid
  let s := s.modTeam c x.slot (·.modGang x.gang fun f => (resOf f.fid).go f)
  let waits := x.gang.filter fun fid => (resOf fid).waits
  let s := s.modCore c fun k =>
    (k.splitOff x.slot waits (x.now + 1)).stall x.slot (x.gang.filter (!waits.contains ·)) (x.now + max h.s.toNat 1)
  let s := s.trapSome c x.slot x.pc inrep (x.gang.filterMap fun fid => (resOf fid).trap?.map (fid, ·))
  let stepped := x.gang.filter fun fid =>
    (resOf fid).completes && (s.fibre? c x.slot fid).any fun f => f.stepping && f.run == RunState.running
  let s := s.trapSome c x.slot x.pc inrep (stepped.map fun fid => (fid, { cause := .step, next := true }))
  let s := s.forceWaiters c x.slot (x.gang.filter fun fid =>
    resOf fid == .waitAgain || (resOf fid == .block && ((s.fibre? c x.slot fid).bind (·.wait)).any (!·.selfEnding)))
  s.regang c

def isRepPrefix : Instr → Bool
  | .rep _ => true
  | _ => false

/-- The instructions whose effect follows the lanes that issue together (R109, R181, R433): stores, atomics, reductions and scratchpad
accesses. -/
def isMemoryIssue : Instr → Bool
  | .lds _ | .sts _ | .ldx _ | .stx _ | .tdset _ | .tdget _ | .st _ | .stRel _ | .atom .. | .atomAcq .. | .atomRel .. | .atomAr .. | .red .. | .redRel .. => true
  | _ => false

/-- The engine instructions, OP 0x90 to 0xA5 (R227). -/
def isEngineIssue : Instr → Bool
  | .mxzero _ | .mxloop _ | .mxloopG _ | .mxwait _ | .mxdrain _ | .mxdrainQ _ | .gxrows _ | .cpyLd _ | .cpyLdNf _ | .cpySt _ | .cpyRed ..
  | .cpyMc _ | .cpyMcNf _ | .cpyPf _ | .eqfence _ | .eqfenceW _ => true
  | _ => false

/-- The causes of check 7 that active fibres meet: an engine instruction's first is raised in every active fibre (R113, R227). -/
def engineWide (i : Instr) (act : List Nat) (causes : List (Nat × Trap)) : List (Nat × Trap) :=
  match causes with
  | c :: _ => if isEngineIssue i then act.map (·, c.2) else causes
  | [] => []

/-- The fibres of an `lsync` release have issued their next instruction (R164). -/
def State.unbound (s : State) (c slot : Nat) (fids : List Nat) : State :=
  s.modTeam c slot fun t => { t with fibres := modWhere (fun f => fids.contains f.fid) (fun f => { f with bond := 0 }) t.fibres }

/-- Fibres that issue as one gang (R164) wait while some of their lanes do: those lanes' preparations go on, and nothing else happens. -/
def State.holdBound (s : State) (body : Ctx → State → State × List (Nat × LaneRes)) (x : Ctx) (waits : List Nat) : State :=
  let r := body { x with act := waits } s
  if r.2.all (·.2.waits) then r.1 else s

/-- The issue of an instruction by the gang that runs, with the operands that `used` gives: checks 5 to 9 of R68 in their order, then its
effect `body` on the active fibres, then what follows. `chk` gives the causes of check 9. -/
def issueUses (used : (Nat → BitVec 64) → List Use) (i : Instr) (h : Hints) (chk : Ctx → State → List (Nat × Trap))
    (body : Ctx → State → State × List (Nat × LaneRes)) (s : State) : State :=
  let c := s.cur.core
  let slot := s.cur.slot
  let now := s.now c
  let s := s.landTeam c slot
  match s.team? c slot with
  | none => s
  | some t0 =>
    let us := used t0.tar
    let fids := s.cur.fids.filter fun fid => (t0.fibre? fid).isSome
    match fids.head?.bind t0.fibre? with
    | none => s
    | some f0 =>
      let inrep := f0.rep.isSome || isRepPrefix i
      let all := guardUse h :: us
      if !rightsOk t0 fids (rights i) then s.trapSome c slot f0.pc inrep (fids.map fun fid => (fid, { cause := .roleViolation }))
      else
        let s := if h.w then s.await c slot fids all else s
        match s.team? c slot with
        | none => s
        | some t =>
          let late := if h.w then fids.filter fun fid => ((t.fibre? fid).any fun (f : Fibre) => f.waitsFor t all) else []
          let go := fids.filter (!late.contains ·)
          let bound := fids.any fun fid => ((t.fibre? fid).map (·.bond)).getD 0 != 0
          if go.isEmpty || (bound && !late.isEmpty) then s.modCore c (·.stall slot fids (now + 1))
          else
            let s := s.modCore c (·.splitOff slot late (now + 1))
            let stale := if t.sbchk then go.filterMap fun fid =>
                ((t.fibre? fid).bind (·.stale t all)).map fun o => (fid, ({ cause := .stallShort, opnd := o } : Trap)) else []
            if !stale.isEmpty then s.trapSome c slot f0.pc inrep stale
            else
              let act := go.filter fun fid => ((t.fibre? fid).any fun (f : Fibre) => f.active h)
              let x : Ctx := ⟨c, slot, go, act, now, f0.pc, laneMask t go⟩
              let wins := engineWide i act (act.filterMap fun fid =>
                ((t.fibre? fid).bind (·.windowFault us)).map fun o => (fid, ({ cause := .windowRange, opnd := o } : Trap)))
              if !wins.isEmpty then s.trapSome c slot f0.pc inrep wins
              else
                match us.find? fun u => u.uni && !(differing x s u).isEmpty with
                | some u =>
                  let lm := laneMask t (differing x s u)
                  s.trapSome c slot f0.pc inrep (act.map fun fid => (fid, { cause := .nonuniform, opnd := u.opnd, lmask := some lm }))
                | none =>
                  match chk x s with
                  | [] =>
                    let (s', res) := body x (if bound then s.unbound c slot go else s)
                    let waits := res.filter (·.2.waits)
                    if bound && isMemoryIssue i && !waits.isEmpty && decide (waits.length < x.act.length) then
                      (s.holdBound body x (waits.map (·.1))).modCore c (·.stall slot fids (now + 1))
                    else s'.finish x h res inrep
                  | traps => s.trapSome c slot f0.pc inrep traps

/-- The issue of an instruction. -/
def issueState (i : Instr) (h : Hints) (chk : Ctx → State → List (Nat × Trap)) (body : Ctx → State → State × List (Nat × LaneRes))
    (s : State) : State := issueUses (fun tar => uses tar i) i h chk body s

/-- The issue of an instruction as an outcome. -/
def issue (i : Instr) (h : Hints) (chk : Ctx → State → List (Nat × Trap)) (body : Ctx → State → State × List (Nat × LaneRes))
    (s : State) : Host.Outcome State Fault Refusal := .next (issueState i h chk body s)

/-- No cause at check 9. -/
def noCheck : Ctx → State → List (Nat × Trap) := fun _ _ => []

-- results of instructions that compute

/-- One destination of a lane's result: the operand, whether it is a pair, and the value. -/
abbrev Result := Operand × Bool × BitVec 64

def Operand.isUniform : Operand → Bool
  | .k _ => true
  | _ => false

/-- A result in the bits that its destination holds. -/
def Result.cut (r : Result) : Result := (r.1, r.2.1, if r.2.1 then r.2.2 else r.2.2 &&& 0xFFFFFFFF)

/-- The role of a fibre that issues. -/
def State.fibreRole (s : State) (c slot fid : Nat) : Role := ((s.fibre? c slot fid).map (·.role)).getD .copy

/-- A result for a uniform register. -/
def Team.oweResult (t : Team) (role : Role) (due : Due) (id : Nat) (fids : List Nat) (r : Result) : Team :=
  match r.1 with
  | .k i => t.oweUniform role i.toNat r.2.1 r.2.2 due id fids
  | _ => t

/-- Deliver the results that the active lanes computed, due as given (R54, R103): a uniform destination is written once, and lanes that
disagree raise `NONUNIFORM` with nothing written. -/
def State.deliver (s : State) (x : Ctx) (due : Due) (outs : List (Nat × List Result)) : State × List (Nat × LaneRes) :=
  match outs with
  | [] => (s, [])
  | o :: _ =>
    let ks := (o.2.filter fun r => Operand.isUniform r.1).map Result.cut
    let diff := (outs.filter fun p => (p.2.filter fun r => Operand.isUniform r.1).map Result.cut != ks).map (·.1)
    match s.team? x.core x.slot with
    | none => (s, [])
    | some t =>
      if !diff.isEmpty then
        (s, outs.map fun p => (p.1, .trap { cause := .nonuniform, opnd := 2, lmask := some (laneMask t diff) }))
      else
        let (id, s) := s.fresh
        let role := s.fibreRole x.core x.slot o.1
        let s := s.modTeam x.core x.slot fun t =>
          ks.foldl (·.oweResult role due id (outs.map (·.1)) ·) t
        let s := outs.foldl (fun s p =>
          s.modFibre x.core x.slot p.1 fun f => p.2.foldl (fun f r => f.oweOperand r.1 r.2.1 r.2.2 due id) f) s
        (s, [])

/-- The body of an instruction that computes per lane and writes its results `lat` cycles later. -/
def computeBody (lat : Nat) (f : Ctx → State → Nat → List Result) (x : Ctx) (s : State) : State × List (Nat × LaneRes) :=
  s.deliver x (.at (x.now + lat)) (x.act.map fun fid => (fid, f x s fid))

/-- One value for every active fibre, of variable latency (R257, R275): written once for a uniform destination. -/
def State.deliverAll (s : State) (x : Ctx) (dst : Operand) (wide : Bool) (v : BitVec 64) : State × List (Nat × LaneRes) :=
  s.deliver x .ready (x.act.map fun fid => (fid, [(dst, wide, v)]))

/-- Perform a body in each active lane in ascending lane order, each on the state that the one before left. -/
def laneFold (x : Ctx) (f : Ctx → Nat → State → State × LaneRes) (s : State) : State × List (Nat × LaneRes) :=
  x.act.foldl (fun acc fid =>
    let r := f x fid acc.1
    (r.1, acc.2 ++ [(fid, r.2)])) (s, [])

/-- As `laneFold`, where no lane acts before those below it have (R156): with one that waits, all after it wait. -/
def laneFoldInOrder (x : Ctx) (f : Ctx → Nat → State → State × LaneRes) (s : State) : State × List (Nat × LaneRes) :=
  x.act.foldl (fun acc fid =>
    if acc.2.any (·.2.waits) then (acc.1, acc.2 ++ [(fid, .waitAgain)])
    else
      let r := f x fid acc.1
      (r.1, acc.2 ++ [(fid, r.2)])) (s, [])

-- answers to fibres that wait for another party

/-- Fibres whose operation has been answered complete their instruction: they advance and run on, or stay halted or held; a stepped one
stops (R302). -/
def State.complete (s : State) (c slot : Nat) (fids : List Nat) (readyAt : Nat) : State :=
  (s.modTeam c slot (·.modGang fids Fibre.released)).formGangs c slot fids readyAt

/-- The variable-latency result of an answered operation, for one fibre or, in a uniform register, for all of them. -/
def State.answer (s : State) (c slot : Nat) (fids : List Nat) (dst : Operand) (wide : Bool) (v : BitVec 64) : State :=
  let (id, s) := s.fresh
  match dst with
  | .k i =>
    let role := match fids.head?.bind (s.fibre? c slot) with | some f => f.role | none => .copy
    s.modTeam c slot fun t => t.oweUniform role i.toNat wide v .ready id fids
  | _ => s.modTeam c slot fun t =>
    { t with fibres := modWhere (fun f => fids.contains f.fid) (fun f => f.oweOperand dst wide v .ready id) t.fibres }

/-- A cause found while a fibre waits for another party: it traps at its instruction (R257, R310, R458). The fibre is in no gang: its
record's `LMASK` holds its own lane (notes/assumptions/41.md). -/
def State.failWaiting (s : State) (c slot fid : Nat) (tr : Trap) : State :=
  match s.fibre? c slot fid, s.team? c slot with
  | some f, some t =>
    let s := s.modFibre c slot fid fun f => { f.unmatched with wait := none }
    (s.takeTrap c slot fid f.pc f.rep.isSome (laneMask t [fid]) tr).regang c
  | _, _ => s

end Sys2Proof.Machine
end

