-- ==== Sys2Proof/Machine/Group.lean ====
section
/-!
DEFINITION. The group table of collectives as it stands in device memory (R413-R416), and what an access through an alias page names
(R432, R434).
-/
namespace Sys2Proof.Machine

open Sys2Proof

/-- The address of the group table (R416). -/
def State.groupBase (s : State) : Nat := bits s.forum.gtbase.toNat 24 28 * 2 ^ 24

/-- A group-table entry, header and members (R413, R414). -/
def State.readGroup (s : State) (g : Nat) : Group :=
  let base := s.groupBase
  let h := Memory.bytes s.mem (base + 64 * g) 64
  let n := field h 0 2
  { nmem := n
    kind := field h 2 1
    efmt := BitVec.ofNat 8 (field h 3 1)
    ver := field h 4 2
    ctx := field h 6 2
    prog := field h 8 2
    home := field h 0x0A 1
    tmo := field h 0x0C 4
    rbase := field h 0x10 8
    gstr := field h 0x18 4
    nsec := field h 0x1C 4
    pgrp := bits (field h 0x20 2) 0 12
    pv := (field h 0x20 2).testBit 15
    pmem := bits (field h 0x22 2) 0 9
    ppkg := bits (field h 0x24 2) 0 10
    cmpl := BitVec.ofNat 64 (field h 0x28 8)
    rsvZero := bits (field h 3 1) 5 3 == 0 && field h 0x0B 1 == 0 && bits (field h 0x20 2) 12 3 == 0 && bits (field h 0x22 2) 9 7 == 0 &&
      bits (field h 0x24 2) 10 6 == 0 && field h 0x26 2 == 0 && field h 0x30 16 == 0
    members := (List.range (min n 512)).map fun i => BitVec.ofNat 32 (Memory.read s.mem (base + 0x40000 + 0x800 * g + 4 * i) 4) }

/-- The fields of a member word (R414). -/
def mAbs (m : BitVec 32) : Bool := m.getLsbD 17
def mPart (m : BitVec 32) : Bool := m.getLsbD 16
def mPort (m : BitVec 32) : Nat := (m.extractLsb' 10 6).toNat
def mPkg (m : BitVec 32) : Nat := (m.extractLsb' 0 10).toNat

/-- Of the words of present members, two share package, port and kind (R415). -/
def membersClash : List (BitVec 32) → Bool
  | [] => false
  | m :: r => r.contains m || membersClash r

/-- A malformed entry (R415); `KIND` 0 is an unused one. -/
def Group.malformed (g : Group) : Bool :=
  !g.rsvZero || g.nmem == 0 || decide (512 < g.nmem) || decide (3 < g.kind) || decide (2 < (g.efmt.extractLsb' 1 3).toNat) ||
  decide (50 < g.home) || (g.members.any fun m => m.extractLsb' 18 14 != 0 || decide (50 < mPort m)) || g.members.all mAbs ||
  membersClash (g.members.filter (!mAbs ·)) || (g.kind == 2 && g.nsec == 0)

def Group.unusable (g : Group) : Bool := g.kind == 0 || g.malformed

def Group.wld (g : Group) : Bool := g.efmt.getLsbD 4

/-- Two bytes for each element of a BF16 group, four for FP32 (R413). -/
def Group.bf16 (g : Group) : Bool := g.efmt.getLsbD 0

/-- The sector offset of an alias access (R432): the window base with the byte offset in the page, its low five bits cleared. -/
def Leaf.aliasOff (l : Leaf) (va : Nat) : Nat := l.phys va / 32 * 32

/-- What a load through an alias page reads (R434): the byte at `RBASE` + *o*, at its home; none where it raises `PERMIT_DENIED`. -/
def State.aliasRead (s : State) (secure : Bool) (l : Leaf) (va : Nat) : Option Leaf :=
  let g := s.readGroup l.tgt
  if g.unusable || (g.wld && !secure) then none
  else some { l with apt := 0, cp := 2, size := 32, pa := g.rbase + l.aliasOff va, tgt := 0 }

/-- The contribution packet of an alias store (R417, R433): compute die `d` reaches the Forum by port `d`. -/
def State.aliasPacket (s : State) (d : Nat) (l : Leaf) (va mask : Nat) (data : Nat) : Packet :=
  { kind := 0, grp := l.tgt, off := l.aliasOff va, member := 0, ver := 0, srcPkg := s.forum.pkg.toNat, srcPort := d, mask := mask,
    data := (List.range 8).map fun i => BitVec.ofNat 32 (bits data (32 * i) 32), poison := 0 }

-- packets at their home porter (R411, R412, R415, R418, R419)

/-- Handler contexts and slots of a porter (R411). -/
def porterContexts (p : Nat) : Nat := if p < 8 then 64 else if p < 44 then 16 else 8
def porterSlots (p : Nat) : Nat := if p < 8 then 1024 else if p < 44 then 128 else 64

/-- A porter belongs to the secure world (R401). -/
def State.porterSecure (s : State) (p : Nat) : Bool := s.forum.wmport.getLsbD p

/-- A porter's copy of a group, read when it first needs it (R415). -/
def State.porterGroup (s : State) (p g : Nat) : Group × State :=
  match (s.porter p).groups.find? (·.1 == g) with
  | some e => (e.2, s)
  | none =>
    let e := s.readGroup g
    (e, s.modPorter p fun q => { q with groups := q.groups ++ [(g, e)] })

/-- The member that a stored contribution matches (R418). -/
def Group.memberOf (g : Group) (pkg port : Nat) : Option Nat :=
  (List.range g.members.length).find? fun i =>
    let m := nth 0 g.members i
    !mAbs m && !mPart m && mPkg m == pkg && mPort m == port

/-- Elements of a sector (R417). -/
def Group.elems (g : Group) : Nat := if g.bf16 then 16 else 8

/-- A packet is refused (R418). -/
def Group.refuses (g : Group) (secure : Bool) (p : Packet) : Bool :=
  g.unusable || (g.wld && !secure) || (p.kind == 0 && (g.memberOf p.srcPkg p.srcPort).isNone) ||
  (p.kind == 1 && (match g.members[p.member]? with | some m => mAbs m || !mPart m || p.data.length != g.elems | none => true)) ||
  ((p.kind == 1 || p.kind == 2) && p.ver != g.ver)

/-- A 16-bit counter of `PCNT` (R429). -/
def sat16 (n : Nat) : Nat := min n 0xFFFF

/-- The key of a packet (R419). -/
def packetKey (p : Packet) : Nat × Nat × Nat := (p.grp, p.ver, p.off)

/-- A context takes a packet (R412). -/
def Handler.start (g : Group) (p : Packet) : Handler :=
  let r (n : Nat) : BitVec 64 := BitVec.ofNat 64 n
  { bpc := g.prog % 1024
    g := [0, r p.grp, r p.member, r p.off, r (p.srcPkg * 64 + p.srcPort), r p.kind, r p.ver] ++ List.replicate 9 0
    sl := false, pkt := p, group := g, count := 0, stale := false }

/-- Handlers start on the waiting packets of a porter, in order of arrival: contexts permitting, one at a time for each key (R419). -/
def State.startHandlers (s : State) (p : Nat) : State :=
  if !(s.porter p).running then s
  else
    let r := (s.porter p).input.foldl (fun (acc : State × List Packet) k =>
      let q := acc.1.porter p
      if q.handlers.length < porterContexts p && !(q.handlers.any fun h => packetKey h.pkt == packetKey k) && !(acc.2.any fun x => packetKey x == packetKey k) then
        let (g, s) := acc.1.porterGroup p k.grp
        (s.modPorter p fun q => { q with handlers := q.handlers ++ [Handler.start g k] }, acc.2)
      else (acc.1, acc.2 ++ [k])) (s, [])
    r.1.modPorter p fun q => { q with input := r.2 }

/-- A contribution that a round holds in the input queue (R447). -/
def State.roundHolds (s : State) (p : Packet) : Bool := p.kind == 0 && s.forum.parts.any (·.grp == p.grp)

/-- The home porter takes a packet now (R418, R419, R430): it runs, no round holds the packet, and no earlier packet of its source waits to
be taken. -/
def State.packetReady (s : State) (before : List Packet) (p : Packet) : Bool :=
  let home (x : Packet) : Nat := min (s.readGroup x.grp).home 50
  (s.porter (home p)).running && !s.roundHolds p &&
    !(before.any fun x => x.srcPkg == p.srcPkg && x.srcPort == p.srcPort && x.kind != 3 && home x == home p && !s.roundHolds x)

/-- A packet reaches the home porter of its group (R418): it is accepted, stamped, and waits for a context; or it is refused and
counted. -/
def State.packetAtHome (s : State) (p : Packet) : Bool × State :=
  let home := min (s.readGroup p.grp).home 50
  let (g, s) := s.porterGroup home p.grp
  if g.refuses (s.porterSecure home) p then (false, s.modPorter home fun q => { q with refused := sat16 (q.refused + 1) })
  else
    let p := if p.kind = 0 then { p with ver := g.ver, member := (g.memberOf p.srcPkg p.srcPort).getD 0 } else p
    (true, (s.modPorter home fun q => { q with input := q.input ++ [p] }).startHandlers home)

end Sys2Proof.Machine
end

