-- ==== Sys2Proof/Machine/Reads.lean ====
section
/-!
DEFINITION. Reads of records, images and side tables, granule by granule, through every aperture (R39, R353, R361, R366, R434).
-/
namespace Sys2Proof.Machine

open Sys2Proof

/-- A cause of an access with its address (R168): bit 0 of `INFO` says write for causes 11 to 13. -/
def memTrap (c : Cause) (va : Nat) (wr : Bool) : Trap :=
  { cause := c, addr := BitVec.ofNat 64 va,
    info := if wr && (c == .pageFault || c == .permitDenied || c == .worldViolation) then 1 else 0 }

/-- A read by pieces of 64 KiB granules: the bytes; a cause; bytes of another package that are to be asked for; a walk to wait for. -/
inductive Rd where
  | bytes (bs : List Byte)
  | cause (t : Trap)
  | need (va n : Nat) (l : Leaf)
  | walk (va : Nat)

def Rd.need? : Rd → Bool
  | .need .. => true
  | _ => false

/-- Bytes as a load of a core reads them (R211, R327): in the sectors that its L1 holds, and at their home else. -/
def State.coreBytes (s : State) (c pa n : Nat) : List Byte :=
  (List.range n).map fun i =>
    let a := pa + i
    match (s.core (s.l1Slice c (sectorOf a))).sector? (sectorOf a) with
    | some x => BitVec.ofNat 8 (bits x.data.toNat (8 * (a % 32)) 8)
    | none => Memory.get s.mem a

/-- The bytes of one piece under its leaf: as core `via` reads them, or at the home where the scheduler reads; by the alias read of R434, or
received from another package. -/
def State.readPiece (s : State) (via : Option Nat) (world : Bool) (have? : List (Nat × List Byte)) (l : Leaf) (va n : Nat) : Rd :=
  let poison : Rd := .cause { cause := .pageFault, addr := BitVec.ofNat 64 va, info := 4 }
  let at_ (pa : Nat) : Rd := if s.poisoned pa n then poison else .bytes (Memory.bytes s.mem pa n)
  if l.apt == 4 then
    match have?.find? fun e => decide (e.1 ≤ va) && decide (va + n ≤ e.1 + e.2.length) with
    | some e => .bytes ((e.2.drop (va - e.1)).take n)
    | none => .need va n l
  else if 5 ≤ l.apt then
    match s.aliasRead world l va with
    | some a => if s.worldRefuses world (a.phys va) then .cause (memTrap .worldViolation va false) else at_ (a.pa + va % 32)
    | none => .cause (memTrap .permitDenied va false)
  else if s.hostGone l va then .cause { memTrap .pageFault va false with info := 8 }
  else match via, l.cached with
    | some c, true =>
      if (List.range n).any fun i => s.loadPoisoned c (l.phys va + i) 1 true then poison else .bytes (s.coreBytes c (l.phys va) n)
    | _, _ => at_ (l.phys va)

/-- Bytes at a virtual address, granule by granule. -/
def State.readPieces (s : State) (via : Option Nat) (world : Bool) (look : Nat → Look) (have? : List (Nat × List Byte)) : Nat → Nat → Nat → Rd
  | 0, _, _ => .bytes []
  | fuel + 1, va, n =>
    if n = 0 then .bytes []
    else
      let m := min n (2 ^ 16 - va % 2 ^ 16)
      match look va with
      | .miss => .walk va
      | .fault x => .cause (memTrap x va false)
      | .ok l =>
        match s.readPiece via world have? l va m with
        | .bytes a =>
          match State.readPieces s via world look have? fuel (va + m) (n - m) with
          | .bytes b => .bytes (a ++ b)
          | r => r
        | r => r

/-- A read by the scheduler, which walks for itself. -/
def State.schedRead (s : State) (ctx : Nat) (world : Bool) (have? : List (Nat × List Byte)) (va n : Nat) : Rd :=
  s.readPieces none world (s.lookWalk ctx world .read) have? (n / 2 ^ 16 + 2) va n

-- the side table (R36-R39)

/-- The side-table entry of an address of a team, 16 bytes as a number, read whole (R39). The spec does not say what comes of a read that
meets a cause (a page unmapped since the launch, poison, a host that is not attached): the model takes the entry as absent, so that its
address has no recorded point (notes/assumptions/66.md). -/
def State.pointOf? (s : State) (t : Team) (pc : BitVec 56) : Option Nat :=
  match s.launchOf? t.launch with
  | none => none
  | some l =>
    if pc.toNat < l.record.entry then none
    else (List.range l.record.pptn).findSome? fun i =>
      match s.schedRead t.ctx t.world l.images (l.record.ppt + 16 * i) 16 with
      | .bytes bs => if field bs 0 4 == pc.toNat - l.record.entry then some (leNat bs) else none
      | _ => none

end Sys2Proof.Machine
end

