-- ==== Sys2Proof/Machine/Fetch.lean ====
section
/-!
DEFINITION. What comes before an instruction's own meaning: which agent moves, the pre-emption points and breakpoints that a gang meets
(R293, R300), the fetch of a word (R69), and checks 1 to 4 of R68, with the striding of a repeated word (R153).
-/
namespace Sys2Proof.Machine

open Sys2Proof

/-- What a step comes to before a meaning runs: it is over, or an instruction is to be run. -/
inductive Pick where
  | done (s : State)
  | run (i : Instr) (s : State)

/-- What a fetch answers: it waits, it faults, or the word is there. -/
inductive Fetched where
  | wait (s : State)
  | fault (t : Trap) (s : State)
  | word (w : IWord) (s : State)

/-- Fibres stop at a recorded point, with the side-table entry by which they are saved, or are forced (R39, R293). -/
def State.stopFibres (s : State) (c slot : Nat) (fids : List Nat) (entry : Option Nat) : State :=
  ((s.settle c slot fids.contains).modTeam c slot (·.modGang fids fun f => { f with run := .point entry, rep := none, ready := 0, bond := 0 })).regang c

-- checks 1 and 2

/-- The number of an enabled breakpoint on one of the addresses (R300). -/
def Team.breakpoint? (t : Team) (addrs : List (BitVec 56)) : Option Nat :=
  (List.range 4).find? fun n =>
    let b := nth 0 t.dbg.bpa n
    b.getLsbD 0 && addrs.any fun a => a.extractLsb' 2 54 == b.extractLsb' 2 54

/-- A fetch cause: bit 1 of `INFO` says fetch for causes 11 to 13 (R168). -/
def fetchTrap (c : Cause) (va : Nat) : Trap :=
  { cause := c, addr := BitVec.ofNat 64 va,
    info := if c == .pageFault || c == .permitDenied || c == .worldViolation then 2 else 0 }

/-- `Plane` of R453. -/
def planeOf (t pa : Nat) : Nat :=
  (((List.range 23).map fun i => bits pa (6 + 2 * i) 2) ++ (List.range 5).map fun i => bits t (2 * i) 2).foldl (· ^^^ ·) 0

/-- A request to the package that a leaf names (R453, R458): outstanding until its answer. -/
def State.remoteAsk (s : State) (l : Leaf) (va : Nat) (so : Bool) (what : RemoteFor) : State :=
  let (id, s) := s.fresh
  let pa := l.phys va
  let plane := bits s.forum.plMap.toNat (2 * planeOf l.tgt pa) 2
  s.modForum fun g =>
    let n := assocGet 0 g.sendSeq l.tgt
    { g with out := g.out ++ [⟨id, l.tgt, pa, plane, if so then some n else none, what⟩],
             sendSeq := if so then assocPut g.sendSeq l.tgt (n + 1) else g.sendSeq }

/-- What a fetch finds of the bytes in one page: they have to be asked of another package, a cause, or the bytes. -/
inductive FetchPart where
  | ask
  | fault (t : Trap)
  | bytes (v : Nat)

/-- The `n` bytes of an instruction at `va` under the leaf of their page (R69, R395, R458). -/
def State.fetchPart (s : State) (c : Nat) (t : Team) (l : Leaf) (va n : Nat) : FetchPart :=
  if l.apt = 4 then
    match (s.core c).ifetch.find? fun e => e.ctx == t.ctx && e.va == va && e.n == n with
    | some e =>
      if e.fail = 0 then .bytes e.word.toNat
      else .fault { fetchTrap (Cause.ofCode (e.fail % 32)) va with info := if 32 ≤ e.fail then 18 else (fetchTrap (Cause.ofCode e.fail) va).info }
    | none => .ask
  else if s.hostGone l va then .fault { fetchTrap .pageFault va with info := 10 }
  else .bytes (Memory.read s.mem (l.phys va) n)

/-- Ask for bytes of another package, once. -/
def State.fetchAsk (s : State) (c : Nat) (t : Team) (l : Leaf) (va n : Nat) (p : FetchPart) : State :=
  match p with
  | .ask => if s.forum.out.any fun o => o.what == .fetch c t.ctx va n then s else s.remoteAsk l va (l.ord == 0) (.fetch c t.ctx va n)
  | _ => s

/-- The parts of a fetch that have come are used up. -/
def State.fetchUsed (s : State) (c : Nat) (t : Team) (vas : List Nat) : State :=
  s.modCore c fun k => { k with ifetch := k.ifetch.filter fun e => !(e.ctx == t.ctx && vas.contains e.va) }

/-- The order among the causes of the two pages of a fetch (R68, R197): an absent page first, then the world, then the permit. -/
def fetchRank (x : Cause) : Nat := if x = .pageFault then 0 else if x = .worldViolation then 1 else 2

/-- Fetch the three words of an instruction as one access (R69): check 2 of R68 and the translation of their pages (R193). -/
def State.fetch (s : State) (c : Nat) (t : Team) (pc : BitVec 56) : Fetched :=
  let va := pc.toNat
  let va2 := if (va + 11) / 2 ^ 16 = va / 2 ^ 16 then va else (va + 11) / 2 ^ 16 * 2 ^ 16
  let n := if va2 = va then 12 else va2 - va
  if va % 4 ≠ 0 then .fault (fetchTrap .misaligned va) s
  else
    let fault (x : Cause) (a : Nat) : Fetched := .fault (fetchTrap x a) ((s.takeFail c t.ctx va).takeFail c t.ctx va2)
    match s.look c t.ctx t.world .fetch va, s.look c t.ctx t.world .fetch va2 with
    | .miss, _ => .wait (s.beginWalk c t.ctx va)
    | _, .miss => .wait (s.beginWalk c t.ctx va2)
    | .fault x, .fault y => if fetchRank y < fetchRank x then fault y va2 else fault x va
    | .fault x, .ok _ => fault x va
    | .ok _, .fault y => fault y va2
    | .ok l, .ok l2 =>
      if va2 = va then
        match s.fetchPart c t l va 12 with
        | .bytes v => .word (BitVec.ofNat 96 v) (if l.apt = 4 then s.fetchUsed c t [va] else s)
        | .fault tr => .fault tr (s.fetchUsed c t [va])
        | .ask => .wait (s.fetchAsk c t l va 12 .ask)
      else
        let p := s.fetchPart c t l va n
        let q := s.fetchPart c t l2 va2 (12 - n)
        match p, q with
        | .fault tr, _ => .fault tr (s.fetchUsed c t [va, va2])
        | _, .fault tr => .fault tr (s.fetchUsed c t [va, va2])
        | .bytes v, .bytes w => .word (BitVec.ofNat 96 (v + w * 2 ^ (8 * n))) (s.fetchUsed c t [va, va2])
        | p, q => .wait ((s.fetchAsk c t l va n p).fetchAsk c t l2 va2 (12 - n) q)

-- check 3: privilege (R67)

/-- Access — for user contexts among the registers that `sysrd` and `syswr` reach (R278, R342, R359, R390). -/
def supervisorOnly (n : Nat) : Bool :=
  n == 0x08 || n == 0x1D || (decide (0x20 ≤ n) && decide (n ≤ 0x22)) || (decide (0x30 ≤ n) && decide (n ≤ 0x32)) ||
  (decide (0x40 ≤ n) && decide (n ≤ 0x4F))

/-- The privilege that a word of OP 0xF8 to 0xFD needs (R67). -/
def privileged (sup : Bool) (w : IWord) : Bool :=
  let op := (w.extractLsb' 0 8).toNat
  let xf := (fieldX w).extractLsb' 16 16
  sup || (if op = 0xF8 || op = 0xF9 then !xf.getLsbD 11 && !supervisorOnly (xf.extractLsb' 0 8).toNat
          else !(decide (0xFA ≤ op) && decide (op ≤ 0xFD)))

/-- The bits of a word that a record's `INFO` holds for causes 1 and 2 (R168). -/
def rawInfo (w : IWord) : BitVec 64 := w.extractLsb' 0 64

/-- Checks 3 and 4 of R68 on a word: the instruction, or the cause. -/
def judge (sup : Bool) (w : IWord) : Except Trap Instr :=
  let op := (w.extractLsb' 0 8).toNat
  let sub := (w.extractLsb' 8 4).toNat
  if !opUnassigned op && rows.any (fun r => r.op == op && r.sub == sub) && !privileged sup w then
    .error { cause := .illegalOpcode, info := rawInfo w }
  else match decode w with
    | .ok i => .ok i
    | .error .illegalSub => .error { cause := .illegalOpcode, info := rawInfo w }
    | .error .reservedField => .error { cause := .reservedField, info := rawInfo w }

-- the repeat prefix

/-- A field's index after `n` strides, none where it leaves 0 to 255 (R153). -/
def strideField (x : BitVec 10) (str : BitVec 8) (n : Nat) : Option (BitVec 10) :=
  let i : Int := ((x.extractLsb' 0 8).toNat : Int) + n * str.toInt
  if 0 ≤ i ∧ i ≤ 255 then some (x.extractLsb' 8 2 ++ BitVec.ofInt 8 i) else none

/-- The repeated word of iteration `n` (R153), and the operands whose index leaves 0 to 255: their fields stay as they are encoded. -/
def strideWord (w : IWord) (r : RepRun) (n : Nat) : IWord × List Nat :=
  let d := strideField (w.extractLsb' 17 10) r.dstr n
  let a := strideField (w.extractLsb' 27 10) r.astr n
  let b := strideField (w.extractLsb' 37 10) r.bstr n
  let c := strideField (w.extractLsb' 47 10) r.cstr n
  (w.extractLsb' 57 39 ++ c.getD (w.extractLsb' 47 10) ++ b.getD (w.extractLsb' 37 10) ++ a.getD (w.extractLsb' 27 10) ++
     d.getD (w.extractLsb' 17 10) ++ w.extractLsb' 0 17,
   (if d.isNone then [2] else []) ++ (if a.isNone then [3] else []) ++ (if b.isNone then [4] else []) ++ (if c.isNone then [5] else []))

/-- R62 on the strides of one field: a nonzero stride needs a vector register that the instruction uses, and an even stride where the
width is 64 bits. -/
def strideOk (us : List Use) (opnd : Nat) (kind : BitVec 2) (str : BitVec 8) : Bool :=
  str == 0 || (kind == 0 && us.any (·.opnd == opnd) && !(str.getLsbD 0 && us.any fun u => u.opnd == opnd && u.len == 2 && !u.soft))

/-- R62 and checks 3 to 5 of R68 on the second word of a pair, in the order of R68. -/
def pairCheck (sup : Bool) (t : Team) (gang : List Nat) (pre : FP) (w : IWord) : Option Trap :=
  let op := (w.extractLsb' 0 8).toNat
  let raw := (FP.toWord pre 0x6F 0).extractLsb' 0 64
  if 0x60 ≤ op && op ≤ 0x6F then some { cause := .illegalOpcode, info := raw }
  else match judge sup w with
    | .error tr => some tr
    | .ok (.unassignedOpcode _) => some { cause := .illegalOpcode, info := rawInfo w }
    | .ok i =>
      let us := uses t.tar i
      if !(strideOk us 2 (w.extractLsb' 25 2) pre.dstr && strideOk us 3 (w.extractLsb' 35 2) pre.astr &&
           strideOk us 4 (w.extractLsb' 45 2) pre.bstr && strideOk us 5 (w.extractLsb' 55 2) pre.cstr) then
        some { cause := .reservedField, info := raw }
      else if rightsOk t gang (rights i) then none
      else some { cause := .roleViolation }

-- the gang that runs

/-- The cycle from which the oldest fibre of a gang has been ready (R118). -/
def Core.readySince (k : Core) (g : Gang) : Nat :=
  match (g.fids.filterMap fun fid => (k.team? g.slot).bind (·.fibre? fid)).map (·.ready) with
  | [] => g.readyAt
  | r :: rs => rs.foldl min r

/-- The cycle in which the core next gives an issue slot: two are given in a cycle, to gangs whose stall has passed (R55, R118). -/
def Core.issueCycle (k : Core) (now : Nat) : Nat :=
  let n := if k.issued.1 = now && decide (2 ≤ k.issued.2) then now + 1 else now
  match k.gangs.map (·.readyAt) with
  | [] => n
  | r :: rs => max n (rs.foldl min r)

/-- The gang that gets the next issue slot (R59, R118): of the ready gangs the one whose oldest fibre has been ready longest, a gang that
issued last with Y = 1 after the others; `idx` chooses among equals. -/
def Core.chooseGang (k : Core) (now idx : Nat) : Nat :=
  let n := k.issueCycle now
  let at_ (i : Nat) : Gang := nth ⟨0, [], 0⟩ k.gangs i
  let ready := (List.range k.gangs.length).filter fun i => decide ((at_ i).readyAt ≤ n)
  let yields (i : Nat) : Bool := match k.yielded with
    | some (slot, fid) => (at_ i).slot == slot && (at_ i).fids.contains fid
    | none => false
  let pool := if ready.any (!yields ·) then ready.filter (!yields ·) else ready
  let since (i : Nat) : Nat := k.readySince (at_ i)
  let best := pool.filter fun i => pool.all fun j => decide (since i ≤ since j)
  if best.contains idx then idx else best.headD idx

/-- An issue slot is given to a gang (R118); a repeat prefix takes none (R153). -/
def State.takeSlot (s : State) (c slot fid : Nat) (i : Instr) (y : Bool) : State :=
  if isRepPrefix i then s
  else s.modCore c fun k =>
    { k with issued := (s.now c, if k.issued.1 = s.now c then k.issued.2 + 1 else 1), yielded := if y then some (slot, fid) else none }

/-- A cause at checks 1 to 5, in the fibres given (R113). -/
def State.trapGang (s : State) (c slot : Nat) (fids : List Nat) (ipc : BitVec 56) (inrep : Bool) (tr : Trap) : State :=
  s.trapSome c slot ipc inrep (fids.map fun fid => (fid, tr))

/-- An iteration of which some operands' indices leave 0 to 255: `WINDOW_RANGE` in the active fibres (R153), after checks 1 to 6 on
the other operands. An operand outside stands as a pair that no window holds. -/
def repWindow (w : IWord) (i : Instr) (out : List Nat) (s : State) : State :=
  issueUses (fun tar => (uses tar i).map fun u => if out.contains u.opnd then ⟨u.opnd, .v 255, 2, false, false, false, false⟩ else u)
    i (Hints.ofWord w) noCheck (fun _ s => (s, [])) s

/-- The word of the gang that runs, after checks 1 to 4 of R68. DESIGN CHOICE: where `BPSKIP` meets a `rep` prefix at `RPC`, R170 does not say
how far the skip of check 1 reaches; the model skips it for the prefix's issue and for its first iteration (notes/assumptions/16.md). -/
def State.pickWord (s : State) (c : Nat) (t : Team) (fids : List Nat) (f0 : Fibre) : Pick :=
  let slot := t.slot
  let rep := f0.rep
  match t.breakpoint? (if rep.isSome then [f0.pc, f0.pc + 12] else [f0.pc]),
      fids.filter fun fid => ((t.fibre? fid).any fun (f : Fibre) => !f.bpskip) with
  | some n, x :: r =>
    .done (s.trapGang c slot (x :: r) f0.pc rep.isSome { cause := .breakpoint, info := BitVec.ofNat 64 n })
  | _, _ =>
    match s.fetch c t (if rep.isSome then f0.pc + 12 else f0.pc) with
    | .wait s => .done (s.modCore c (·.stall slot fids (s.now c + 1)))
    | .fault tr s => .done (s.trapGang c slot fids f0.pc rep.isSome tr)
    | .word w s =>
      let sup := (s.context t.ctx).supervisor
      match rep with
      | none =>
        match judge sup w with
        | .ok i => .run i (s.takeSlot c slot f0.fid i (Hints.ofWord w).y)
        | .error tr => .done (s.trapGang c slot fids f0.pc ((w.extractLsb' 0 8).toNat == 0x6F) tr)
      | some r =>
        let (w', out) := strideWord w r f0.rc.toNat
        match judge sup w' with
        | .ok i => if out.isEmpty then .run i (s.takeSlot c slot f0.fid i (Hints.ofWord w').y) else .done (repWindow w' i out s)
        | .error tr => .done (s.trapGang c slot fids f0.pc true tr)

/-- A gang of a core moves, as R118 picks it: its stall has passed, what is due lands, a trap that an engine raised is taken first (R249, R268), a team under
pre-emption stops at its points (R293); then the word. -/
def State.pickGang (s : State) (c idx : Nat) : Pick :=
  match (s.core c).gangs[(s.core c).chooseGang (s.now c) idx]? with
  | none => .done s
  | some g =>
    let s := s.modDie (dieOf c) fun d => { d with cycle := max d.cycle ((s.core c).issueCycle (s.now c)) }
    let s := { s with cur := ⟨c, g.slot, g.fids⟩ }
    let s := s.landTeam c g.slot
    match s.team? c g.slot with
    | none => .done (s.regang c)
    | some t =>
      let fs := g.fids.filterMap t.fibre?
      match fs with
      | [] => .done (s.regang c)
      | f0 :: _ =>
        let fids := fs.map (·.fid)
        let pend := fs.filterMap fun f => f.pendTrap.map (f.fid, ·)
        if !pend.isEmpty then
          let s := s.modTeam c g.slot fun t =>
            { t with fibres := modWhere (fun f => fids.contains f.fid) (fun f => { f with pendTrap := none }) t.fibres }
          .done (s.trapSome c g.slot f0.pc f0.rep.isSome pend)
        else match (if t.preempt.isSome then s.pointOf? t f0.pc else none) with
          | some e => .done (s.stopFibres c g.slot fids (some e))
          | none => s.pickWord c t fids f0

/-- A handler of a porter moves: the word at its BPC (R412, R420). -/
def State.pickPorter (s : State) (p idx : Nat) : Pick :=
  match (s.porter p).handlers[idx]? with
  | none => .done s
  | some h => .run (decodeBoster (sparseGet 0 (s.porter p).words (h.bpc % 1024))) { s with curPorter := (p, idx) }

/-- A machine event happens, with its parameters; one that waited in the work list leaves it. -/
def State.pickEvent (s : State) (i : Instr) (p : Params) : Pick :=
  if isEvent i then .run i { s with work := s.work.erase (i, p), par := p } else .done s

/-- Idle cycles of a die. -/
def State.idle (s : State) (d n : Nat) : State := s.modDie d fun x => { x with cycle := x.cycle + n }

/-- The known results of a fibre land. -/
def State.landFibre (s : State) (c slot fid : Nat) : State :=
  let now := s.now c
  s.modTeam c slot fun t =>
    (t.landUniform now fun w => w.due.variable && w.fids.contains fid).modFibre fid fun f => f.land fun w => w.due.dueBy now || w.due == .ready

/-- A context is made, or given another privilege, world or root table, from outside (notes/assumptions/6.md). -/
def State.giveContext (s : State) (x : Context) : State := { s with contexts := s.contexts.filter (·.num != x.num) ++ [x] }

/-- The secure firmware loads the packages of the fabric domain (R452, notes/assumptions/6.md). -/
def State.givePeers (s : State) (l : List (Nat × Nat)) : State := s.modForum fun f => { f with peers := l }

def State.pickAct (s : State) : Act → Pick
  | .gang c idx => s.pickGang c idx
  | .porter p idx => s.pickPorter p idx
  | .event i p => s.pickEvent i p
  | .idle d n => .done (s.idle d n)
  | .land c slot fid => .done (s.landFibre c slot fid)
  | .context x => .done (s.giveContext x)
  | .peers l => .done (s.givePeers l)

/-- The first gang in core order that may issue soonest. -/
def State.nextGang (s : State) : Option Act :=
  let all := s.coreNums.flatMap fun c => (List.range (s.core c).gangs.length).map fun i => (c, i)
  let due (x : Nat × Nat) : Nat := match (s.core x.1).gangs[x.2]? with | some g => g.readyAt | none => 0
  match all with
  | [] => none
  | a :: r =>
    let m := r.foldl (fun b x => if due x < due b then x else b) a
    some (.gang m.1 m.2)

def State.nextPorter (s : State) : Option Act :=
  ((List.range s.forum.porters.length).find? fun p => !(s.porter p).handlers.isEmpty).map fun p => .porter p 0

def State.nextWork (s : State) : Option Act := s.work.head?.map fun w => .event w.1 w.2

/-- Who moves when the agenda names none (notes/assumptions/3.md): porters and gangs, and the work list, in turn. -/
def State.nextAct (s : State) : Option Act :=
  if s.turn then s.nextWork <|> s.nextPorter <|> s.nextGang else s.nextPorter <|> s.nextGang <|> s.nextWork

/-- What moves: the head of the agenda, or what the state offers; with nothing to do the package stays as it is. -/
def State.pick (s : State) : Pick :=
  match s.agenda with
  | a :: r => State.pickAct { s with agenda := r } a
  | [] =>
    match s.nextAct with
    | some a => State.pickAct { s with turn := !s.turn } a
    | none => .done s

-- placing one instruction where the next step fetches (notes/assumptions/5.md)

/-- The role that may issue an instruction (R66). -/
def roleFor (i : Instr) : Role :=
  match rights i with
  | .matrix => .matrix
  | .copyLeader => .copy
  | _ => .general

/-- A fibre's word as the first of a team of one fibre in slot 0 of core 0, at virtual and physical address 0x10000. -/
def State.loadFibreWord (s : State) (w : IWord) : State :=
  let role := match decode w with | .ok i => roleFor i | .error _ => .general
  let f : Fibre := { Fibre.blank with role := role, pc := 0x10000, wsize := 16, regs := List.replicate 16 0 }
  let t : Team := { Team.blank with ctx := 1, nextFid := 1, fibres := [f] }
  let l : Leaf := ⟨0, 0x10000, 2 ^ 16, 0, false, true, 0, 1, false, true, true⟩
  { s with
    mem := Memory.write s.mem 0x10000 12 w.toNat
    contexts := ⟨1, true, false, 0⟩ :: s.contexts.filter (·.num != 1)
    cores := assocPut s.cores 0 { Core.reset with teams := [t], gangs := [⟨0, [0], 0⟩], tlb := [⟨1, 0x10000, l, false, []⟩] }
    agenda := [.gang 0 0] }

/-- A packet and a group as a handler finds them at its start, all fields 0. -/
def Packet.blank : Packet := ⟨0, 0, 0, 0, 0, 0, 0, 0, List.replicate 8 0, 0⟩

def Group.blank : Group := ⟨1, 0, 0, 0, 0, 0, 0, 1, 0, 0, 1, 0, false, 0, 0, 0, true, [0]⟩

/-- A Boster word as the next of a handler of porter 0. -/
def State.loadBosterWord (s : State) (w : BitVec 32) : State :=
  let h : Handler := ⟨0, List.replicate 16 0, false, Packet.blank, Group.blank, 0, false⟩
  { s with
    forum := { s.forum with porters := modAt s.forum.porters 0 fun p =>
      { p with words := sparsePut 0 p.words 0 w, running := true, hlt := false, handlers := [h] } }
    agenda := [.porter 0 0] }

end Sys2Proof.Machine
end

