-- ==== Sys2Proof/Machine/Integer.lean ====
section
/-!
DEFINITION. The integer, logic, move and predicate instructions (R53, R121-R133).
-/
namespace Sys2Proof.Machine

open Sys2Proof

/-- The width of a type code (R47). -/
def tyBits (t : BitVec 6) : Nat :=
  match t.toNat with
  | 0 | 4 => 8
  | 1 | 5 => 16
  | 2 | 6 | 8 => 32
  | _ => 64

/-- An `.i` type (R47). -/
def tySigned (t : BitVec 6) : Bool := decide (t.toNat ≤ 3)

/-- `ReadInt` of R123. -/
def readInt (t : BitVec 6) (v : BitVec 64) : Int :=
  let u := v.toNat % 2 ^ tyBits t
  if tySigned t then toSigned (tyBits t) u else u

/-- `WriteInt` of R123. -/
def writeInt (t : BitVec 6) (x : Int) : BitVec 64 :=
  let y := (x % (2 ^ tyBits t : Nat)).toNat
  if tySigned t && decide (tyBits t < 32) then ((BitVec.ofInt 32 (toSigned (tyBits t) y)).setWidth 64) else BitVec.ofNat 64 y

/-- `Lo` and `Hi` of a type (R123). -/
def tyLo (t : BitVec 6) : Int := if tySigned t then -((2 ^ (tyBits t - 1) : Nat) : Int) else 0
def tyHi (t : BitVec 6) : Int := if tySigned t then ((2 ^ (tyBits t - 1) : Nat) : Int) - 1 else ((2 ^ tyBits t : Nat) : Int) - 1

/-- The exact result of an arithmetic form, wrapped or saturated by RM (R124). -/
def arithOut (t : BitVec 6) (rm : BitVec 3) (x : Int) : BitVec 64 := writeInt t (if rm == 1 then clampInt (tyLo t) (tyHi t) x else x)

/-- The latency of a form of 0x01 to 0x1C (R54). -/
def intLat (t : BitVec 6) : Nat := if Wf.tyWide t then 6 else 4

/-- A two-operand form whose second operand is a register or the immediate of format I (R122). -/
def binOp (i : Instr) (h : Hints) (d a : Operand) (b : Operand ⊕ BitVec 32) (t : BitVec 6) (lat : Nat) (bWide dWide : Bool)
    (g : BitVec 64 → BitVec 64 → BitVec 64) (s : State) : Host.Outcome State Fault Refusal :=
  issue i h noCheck (computeBody lat fun x s fid =>
    let bv := match b with
      | .inl o => x.rd s fid bWide o
      | .inr imm => imm.signExtend 64
    [(d, dWide, g (x.rd s fid (Wf.tyWide t) a) bv)]) s

/-- An arithmetic form in format R and in format I (R125). -/
def arithR (i : Instr) (f : FR) (lat : Nat) (g : Int → Int → Int) (s : State) : Host.Outcome State Fault Refusal :=
  binOp i f.h f.d f.a (.inl f.b) f.t1 lat (Wf.tyWide f.t1) (Wf.tyWide f.t1)
    (fun a b => arithOut f.t1 f.rm (g (readInt f.t1 a) (readInt f.t1 b))) s

def arithI (i : Instr) (f : FI) (lat : Nat) (g : Int → Int → Int) (s : State) : Host.Outcome State Fault Refusal :=
  binOp i f.h f.d f.a (.inr f.imm) f.t1 lat (Wf.tyWide f.t1) (Wf.tyWide f.t1)
    (fun a b => arithOut f.t1 f.rm (g (readInt f.t1 a) (readInt f.t1 b))) s

/-- A form with one source operand. -/
def unOp (i : Instr) (f : FR) (lat : Nat) (aWide dWide : Bool) (g : BitVec 64 → BitVec 64) (s : State) :
    Host.Outcome State Fault Refusal :=
  issue i f.h noCheck (computeBody lat fun x s fid => [(f.d, dWide, g (x.rd s fid aWide f.a))]) s

/-- A bitwise or shift form on `w` bits (R128): `g` takes the width, the first operand and the second as unsigned numbers. -/
def logicOut (t : BitVec 6) (g : Nat → Nat → Nat → Nat) (a b : BitVec 64) : BitVec 64 :=
  let w := tyBits t
  BitVec.ofNat 64 (g w (a.toNat % 2 ^ w) b.toNat % 2 ^ w)

def logicR (i : Instr) (f : FR) (shift : Bool) (g : Nat → Nat → Nat → Nat) (s : State) : Host.Outcome State Fault Refusal :=
  binOp i f.h f.d f.a (.inl f.b) f.t1 (intLat f.t1) (!shift && Wf.tyWide f.t1) (Wf.tyWide f.t1) (logicOut f.t1 g) s

def logicI (i : Instr) (f : FI) (g : Nat → Nat → Nat → Nat) (s : State) : Host.Outcome State Fault Refusal :=
  binOp i f.h f.d f.a (.inr f.imm) f.t1 (intLat f.t1) false (Wf.tyWide f.t1) (logicOut f.t1 g) s

-- the shifts of R128; the amount is read as 32 bits

def shlOf (w a b : Nat) : Nat := let n := b % 2 ^ 32; if w ≤ n then 0 else a * 2 ^ n
def shrOf (w a b : Nat) : Nat := let n := b % 2 ^ 32; if w ≤ n then 0 else a / 2 ^ n
def sarOf (w a b : Nat) : Nat := (toSigned w a / (2 ^ min (b % 2 ^ 32) (w - 1) : Nat) % (2 ^ w : Nat)).toNat
def rotOf (w a b : Nat) : Nat := let n := b % 2 ^ 32 % w; (a * 2 ^ n) % 2 ^ w + a / 2 ^ (w - n)

/-- Leading zeros of a value of `w` bits. -/
def clzOf (w a : Nat) : Nat := if a = 0 then w else w - 1 - Nat.log2 a

/-- Bits in reverse order. -/
def brevOf (w a : Nat) : Nat := (List.range w).foldl (fun r i => if a.testBit i then r + 2 ^ (w - 1 - i) else r) 0

/-- The position and length of a bit field (R129). -/
def fieldPos (w b c : Nat) : Nat × Nat :=
  let pos := min (b % 2 ^ 32) w
  (pos, min (c % 2 ^ 32) (w - pos))

def bfxOf (t : BitVec 6) (a b c : BitVec 64) : BitVec 64 :=
  let p := fieldPos (tyBits t) b.toNat c.toNat
  let f := bits a.toNat p.1 p.2
  if p.2 = 0 then 0 else writeInt t (if tySigned t then toSigned p.2 f else f)

def bfiOf (t : BitVec 6) (d a b c : BitVec 64) : BitVec 64 :=
  let w := tyBits t
  let p := fieldPos w b.toNat c.toNat
  let v := d.toNat % 2 ^ w
  BitVec.ofNat 64 (v - bits v p.1 p.2 * 2 ^ p.1 + bits a.toNat 0 p.2 * 2 ^ p.1)

/-- R53. -/
def execNop (f : FR) (s : State) : Host.Outcome State Fault Refusal := issue (.nop f) f.h noCheck (fun _ s => (s, [])) s

def execAdd (f : FR) (s : State) : Host.Outcome State Fault Refusal := arithR (.add f) f (intLat f.t1) (· + ·) s
def execAddI (f : FI) (s : State) : Host.Outcome State Fault Refusal := arithI (.addI f) f (intLat f.t1) (· + ·) s
def execSub (f : FR) (s : State) : Host.Outcome State Fault Refusal := arithR (.sub f) f (intLat f.t1) (· - ·) s
def execSubI (f : FI) (s : State) : Host.Outcome State Fault Refusal := arithI (.subI f) f (intLat f.t1) (· - ·) s
def execMul (f : FR) (s : State) : Host.Outcome State Fault Refusal := arithR (.mul f) f (intLat f.t1) (· * ·) s
def execMulI (f : FI) (s : State) : Host.Outcome State Fault Refusal := arithI (.mulI f) f (intLat f.t1) (· * ·) s

/-- The high `w` bits of a product (R125). -/
def mulhiOf (t : BitVec 6) (a b : Int) : Int := a * b / (2 ^ tyBits t : Nat)

def execMulhi (f : FR) (s : State) : Host.Outcome State Fault Refusal := arithR (.mulhi f) f 6 (mulhiOf f.t1) s
def execMulhiI (f : FI) (s : State) : Host.Outcome State Fault Refusal := arithI (.mulhiI f) f 6 (mulhiOf f.t1) s
def execMin (f : FR) (s : State) : Host.Outcome State Fault Refusal := arithR (.min f) f (intLat f.t1) (fun a b => if a < b then a else b) s
def execMinI (f : FI) (s : State) : Host.Outcome State Fault Refusal := arithI (.minI f) f (intLat f.t1) (fun a b => if a < b then a else b) s
def execMax (f : FR) (s : State) : Host.Outcome State Fault Refusal := arithR (.max f) f (intLat f.t1) (fun a b => if a < b then b else a) s
def execMaxI (f : FI) (s : State) : Host.Outcome State Fault Refusal := arithI (.maxI f) f (intLat f.t1) (fun a b => if a < b then b else a) s

/-- R125: a * b + c. -/
def execMad (f : FR) (s : State) : Host.Outcome State Fault Refusal :=
  let w := Wf.tyWide f.t1
  issue (.mad f) f.h noCheck (computeBody (intLat f.t1) fun x s fid =>
    [(f.d, w, arithOut f.t1 f.rm (readInt f.t1 (x.rd s fid w f.a) * readInt f.t1 (x.rd s fid w f.b) + readInt f.t1 (x.rd s fid w f.c)))]) s

/-- R126: 32 by 32 bits plus 64 bits of the wider type. -/
def execMadw (f : FR) (s : State) : Host.Outcome State Fault Refusal :=
  let wide : BitVec 6 := if f.t1 == 2 then 3 else 7
  issue (.madw f) f.h noCheck (computeBody 6 fun x s fid =>
    [(f.d, true, arithOut wide f.rm
      (readInt f.t1 (x.rd s fid false f.a) * readInt f.t1 (x.rd s fid false f.b) + readInt wide (x.rd s fid true f.c)))]) s

def execAbs (f : FR) (s : State) : Host.Outcome State Fault Refusal :=
  unOp (.abs f) f (intLat f.t1) (Wf.tyWide f.t1) (Wf.tyWide f.t1) (fun a => arithOut f.t1 f.rm (readInt f.t1 a).natAbs) s

def execNeg (f : FR) (s : State) : Host.Outcome State Fault Refusal :=
  unOp (.neg f) f (intLat f.t1) (Wf.tyWide f.t1) (Wf.tyWide f.t1) (fun a => arithOut f.t1 f.rm (-(readInt f.t1 a))) s

def execAnd (f : FR) (s : State) : Host.Outcome State Fault Refusal := logicR (.and f) f false (fun _ a b => a &&& b) s
def execAndI (f : FI) (s : State) : Host.Outcome State Fault Refusal := logicI (.andI f) f (fun _ a b => a &&& b) s
def execOr (f : FR) (s : State) : Host.Outcome State Fault Refusal := logicR (.or f) f false (fun _ a b => a ||| b) s
def execOrI (f : FI) (s : State) : Host.Outcome State Fault Refusal := logicI (.orI f) f (fun _ a b => a ||| b) s
def execXor (f : FR) (s : State) : Host.Outcome State Fault Refusal := logicR (.xor f) f false (fun _ a b => a ^^^ b) s
def execXorI (f : FI) (s : State) : Host.Outcome State Fault Refusal := logicI (.xorI f) f (fun _ a b => a ^^^ b) s

def execNot (f : FR) (s : State) : Host.Outcome State Fault Refusal :=
  unOp (.not f) f (intLat f.t1) (Wf.tyWide f.t1) (Wf.tyWide f.t1)
    (fun a => BitVec.ofNat 64 (2 ^ tyBits f.t1 - 1 - a.toNat % 2 ^ tyBits f.t1)) s

def execShl (f : FR) (s : State) : Host.Outcome State Fault Refusal := logicR (.shl f) f true shlOf s
def execShlI (f : FI) (s : State) : Host.Outcome State Fault Refusal := logicI (.shlI f) f shlOf s
def execShr (f : FR) (s : State) : Host.Outcome State Fault Refusal := logicR (.shr f) f true shrOf s
def execShrI (f : FI) (s : State) : Host.Outcome State Fault Refusal := logicI (.shrI f) f shrOf s
def execSar (f : FR) (s : State) : Host.Outcome State Fault Refusal := logicR (.sar f) f true sarOf s
def execSarI (f : FI) (s : State) : Host.Outcome State Fault Refusal := logicI (.sarI f) f sarOf s
def execRot (f : FR) (s : State) : Host.Outcome State Fault Refusal := logicR (.rot f) f true rotOf s
def execRotI (f : FI) (s : State) : Host.Outcome State Fault Refusal := logicI (.rotI f) f rotOf s

/-- R128: one 32-bit result, whatever the type. -/
def execClz (f : FR) (s : State) : Host.Outcome State Fault Refusal :=
  unOp (.clz f) f (intLat f.t1) (Wf.tyWide f.t1) false (fun a => BitVec.ofNat 64 (clzOf (tyBits f.t1) (a.toNat % 2 ^ tyBits f.t1))) s

def execPopc (f : FR) (s : State) : Host.Outcome State Fault Refusal :=
  unOp (.popc f) f (intLat f.t1) (Wf.tyWide f.t1) false (fun a => BitVec.ofNat 64 (popCount a.toNat (tyBits f.t1))) s

def execBrev (f : FR) (s : State) : Host.Outcome State Fault Refusal :=
  unOp (.brev f) f (intLat f.t1) (Wf.tyWide f.t1) (Wf.tyWide f.t1) (fun a => BitVec.ofNat 64 (brevOf (tyBits f.t1) a.toNat)) s

/-- R129. -/
def execBfx (f : FR) (s : State) : Host.Outcome State Fault Refusal :=
  let w := Wf.tyWide f.t1
  issue (.bfx f) f.h noCheck (computeBody (intLat f.t1) fun x s fid =>
    [(f.d, w, bfxOf f.t1 (x.rd s fid w f.a) (x.rd s fid false f.b) (x.rd s fid false f.c))]) s

/-- R129: D is read as well as written. -/
def execBfi (f : FR) (s : State) : Host.Outcome State Fault Refusal :=
  let w := Wf.tyWide f.t1
  issue (.bfi f) f.h noCheck (computeBody (intLat f.t1) fun x s fid =>
    [(f.d, w, bfiOf f.t1 (x.rd s fid w f.d) (x.rd s fid w f.a) (x.rd s fid false f.b) (x.rd s fid false f.c))]) s

/-- R130. -/
def execSel (f : FR) (s : State) : Host.Outcome State Fault Refusal :=
  let w := Wf.tyWide f.t1
  issue (.sel f) f.h noCheck (computeBody (intLat f.t1) fun x s fid =>
    [(f.d, w, if x.rd s fid false f.c != 0 then x.rd s fid w f.a else x.rd s fid w f.b)]) s

/-- R127. -/
def execCmp (f : FR) (s : State) : Host.Outcome State Fault Refusal :=
  binOp (.cmp f) f.h f.d f.a (.inl f.b) f.t1 (intLat f.t1) (Wf.tyWide f.t1) false
    (fun a b => if intCond f.rm.toNat (readInt f.t1 a) (readInt f.t1 b) then 1 else 0) s

def execCmpI (f : FI) (s : State) : Host.Outcome State Fault Refusal :=
  binOp (.cmpI f) f.h f.d f.a (.inr f.imm) f.t1 (intLat f.t1) (Wf.tyWide f.t1) false
    (fun a b => if intCond f.rm.toNat (readInt f.t1 a) (readInt f.t1 b) then 1 else 0) s

/-- R131: base plus scaled index, modulo 2^64. -/
def leaOf (t : BitVec 6) (rm : BitVec 3) (a b : BitVec 64) : BitVec 64 := a + BitVec.ofInt 64 (readInt t b * (2 ^ rm.toNat : Nat))

def execLea (f : FR) (s : State) : Host.Outcome State Fault Refusal :=
  issue (.lea f) f.h noCheck (computeBody (intLat f.t1) fun x s fid =>
    [(f.d, true, leaOf f.t1 f.rm (x.rd s fid true f.a) (x.rd s fid (Wf.tyWide f.t1) f.b))]) s

def execLeaI (f : FI) (s : State) : Host.Outcome State Fault Refusal :=
  issue (.leaI f) f.h noCheck (computeBody (intLat f.t1) fun x s fid =>
    [(f.d, true, leaOf f.t1 f.rm (x.rd s fid true f.a) (f.imm.signExtend 64))]) s

/-- R132. -/
def execMov (f : FR) (s : State) : Host.Outcome State Fault Refusal :=
  unOp (.mov f) f (intLat f.t1) (Wf.tyWide f.t1) (Wf.tyWide f.t1) id s

/-- R132: one halfword of D; the others unchanged. -/
def movkOf (rm : BitVec 3) (imm : BitVec 16) (d : BitVec 64) : BitVec 64 :=
  (d &&& ~~~((0xFFFF#64) <<< (16 * rm.toNat))) ||| (imm.setWidth 64 <<< (16 * rm.toNat))

def execMovk (f : FR) (s : State) : Host.Outcome State Fault Refusal :=
  let w := Wf.tyWide f.t1
  issue (.movk f) f.h noCheck (computeBody (intLat f.t1) fun x s fid => [(f.d, w, movkOf f.rm f.xf (x.rd s fid w f.d))]) s

def execLdi (f : FI) (s : State) : Host.Outcome State Fault Refusal :=
  issue (.ldi f) f.h noCheck (computeBody (intLat f.t1) fun _ _ _ => [(f.d, Wf.tyWide f.t1, f.imm.signExtend 64)]) s

/-- The register after an operand's own, the high word of its pair. -/
def highOf : Operand → Operand
  | .v i => .v (i + 1)
  | .k i => .k (i + 1)
  | o => o

/-- R132: the high word of a pair; its low word unchanged. -/
def execLdiHi (f : FI) (s : State) : Host.Outcome State Fault Refusal :=
  issue (.ldiHi f) f.h noCheck (computeBody 6 fun _ _ _ => [(highOf f.d, false, f.imm.setWidth 64)]) s

/-- R132: a special value, zero-extended for `.b64`. -/
def execGets (f : FR) (s : State) : Host.Outcome State Fault Refusal :=
  unOp (.gets f) f (intLat f.t1) (Wf.tyWide f.t1) (Wf.tyWide f.t1) id s

/-- A predicate form (R133). -/
def predOp (i : Instr) (f : FR) (g : Bool → Bool → Bool) (s : State) : Host.Outcome State Fault Refusal :=
  issue i f.h noCheck (computeBody 4 fun x s fid =>
    [(f.d, false, if g (x.rd s fid false f.a != 0) (x.rd s fid false f.b != 0) then 1 else 0)]) s

def execPand (f : FR) (s : State) : Host.Outcome State Fault Refusal := predOp (.pand f) f (· && ·) s
def execPor (f : FR) (s : State) : Host.Outcome State Fault Refusal := predOp (.por f) f (· || ·) s
def execPxor (f : FR) (s : State) : Host.Outcome State Fault Refusal := predOp (.pxor f) f (· != ·) s
def execPnot (f : FR) (s : State) : Host.Outcome State Fault Refusal := predOp (.pnot f) f (fun a _ => !a) s
def execPmov (f : FR) (s : State) : Host.Outcome State Fault Refusal := predOp (.pmov f) f (fun a _ => a) s

/-- R133: D := PRED. -/
def execPmovWRead (f : FR) (s : State) : Host.Outcome State Fault Refusal :=
  issue (.pmovWRead f) f.h noCheck (computeBody 4 fun x s fid =>
    [(f.d, false, match s.fibre? x.core x.slot fid with | some g => (g.pred ||| 1).setWidth 64 | none => 0)]) s

/-- R133: PRED[15:1] := A[15:1]. -/
def execPmovWWrite (f : FR) (s : State) : Host.Outcome State Fault Refusal :=
  issue (.pmovWWrite f) f.h noCheck (computeBody 4 fun x s fid =>
    let v := x.rd s fid false f.a
    (List.range 15).map fun i => (.p (BitVec.ofNat 4 (i + 1)), false, if v.getLsbD (i + 1) then 1 else 0)) s

end Sys2Proof.Machine
end

