-- ==== Sys2Proof/Machine/Float.lean ====
section
/-!
DEFINITION. The floating-point and conversion instructions (R134-R147), with the first-NaN trap (R88, R89) and the quantisation
counters (R87).
-/
namespace Sys2Proof.Machine

open Sys2Proof

/-- What a lane of a floating-point instruction computes: its results, its counts, and the first NaN that no operand had: the element,
the kind of R89, and the operand codes. -/
structure FLane where
  outs : List Result
  cnt : Cnt
  nan : Option (Nat × Nat × BitVec 64)

/-- Check 9 on tariff entries (R73): each index named, with what the instruction accepts; the first that fails, in every active fibre. -/
def tariffCheck (req : List (BitVec 6 × (Fmt → Bool))) (x : Ctx) (s : State) : List (Nat × Trap) :=
  match x.team s with
  | none => []
  | some t =>
    match req.find? fun r => let e := Fmt.of (t.tar r.1.toNat); !(e.legal && r.2 e) with
    | none => []
    | some r => x.act.map fun fid => (fid, { cause := .tariffIllegal, info := r.1.setWidth 64 })

/-- The entry of an index for the gang's team. -/
def Ctx.fmt (x : Ctx) (s : State) (n : BitVec 6) : Fmt :=
  match x.team s with
  | some t => Fmt.of (t.tar n.toNat)
  | none => Fmt.of 0

/-- `SrBits` of element `e` of a vector-unit instruction (R82). -/
def Ctx.sr (x : Ctx) (s : State) (fid e : Nat) : Nat :=
  match x.team s, s.fibre? x.core x.slot fid with
  | some t, some f => srBits t.srseed (BitVec.ofNat 32 (f.srstep.toNat * 2 ^ 16 + fid * 2 + e))
  | _, _ => 0

/-- The first-NaN record of R89 as its 32 bytes. -/
def nanRecord (pc : BitVec 56) (lmask : BitVec 32) (fid tidx unit elem kind : Nat) (ops : BitVec 64) : List Byte :=
  leBytes pc.toNat 8 ++ leBytes lmask.toNat 4 ++ leBytes fid 2 ++ leBytes tidx 1 ++ leBytes unit 1 ++ leBytes elem 2 ++ leBytes kind 1 ++
  leBytes 0 5 ++ leBytes ops.toNat 8

/-- The team would take `NAN_FIRST` (R88). -/
def Team.trapsNan (t : Team) : Bool := t.nantrap && !t.nanseen

/-- Write the first-NaN record and set `NANSEEN` (R88, R249). -/
def State.nanFirst (s : State) (c : Nat) (t : Team) (rec : List Byte) : State :=
  (s.writeVirt c t.ctx t.world t.frbase rec).modTeam c t.slot fun t => { t with nanseen := true }

/-- The issue of a floating-point or conversion instruction: all lanes' results, counts and `SRSTEP` together, or `NAN_FIRST` in the
gang with none of them (R87, R88, R135). DESIGN CHOICE: where lanes also disagree on a uniform result, `NAN_FIRST` goes before
`NONUNIFORM`, both of check 10 (notes/assumptions/62.md). -/
def floatIssue (i : Instr) (f : FR) (lat : Nat) (tidx : BitVec 6) (chk : Ctx → State → List (Nat × Trap))
    (lane : Ctx → State → Nat → FLane) (s : State) : Host.Outcome State Fault Refusal :=
  issue i f.h chk (fun x s =>
    let outs := x.act.map fun fid => (fid, lane x s fid)
    match x.team s, outs.filterMap fun o => o.2.nan.map (o.1, ·) with
    | none, _ => (s, [])
    | some t, bad =>
      match bad with
      | b :: _ =>
        if t.trapsNan then
          let rec' := nanRecord x.pc (laneMask t (bad.map (·.1))) b.1 tidx.toNat 0 b.2.1 b.2.2.1 b.2.2.2
          (s.nanFirst x.core t rec', x.act.map fun fid => (fid, .trap { cause := .nanFirst, next := true }))
        else floatWrite f lat outs x s
      | [] => floatWrite f lat outs x s) s
where
  /-- Results, counts and `SRSTEP` (R82, R87). -/
  floatWrite (f : FR) (lat : Nat) (outs : List (Nat × FLane)) (x : Ctx) (s : State) : State × List (Nat × LaneRes) :=
    let r := s.deliver x (.at (x.now + lat)) (outs.map fun o => (o.1, o.2.outs))
    if !r.2.isEmpty then r
    else
      let s := r.1.modTeam x.core x.slot (·.countLater (x.now + lat) (outs.foldl (fun c o => c.add o.2.cnt) .zero) x.act)
      (if f.rm == 4 then x.act.foldl (fun s fid => s.modFibre x.core x.slot fid fun g => { g with srstep := g.srstep + 1 }) s else s, [])

/-- A NaN result that comes from no NaN operand (R88): the kind is 0 for an invalid operation, 1 for an overflow to NaN. -/
def nanOf (t2 : Fmt) (srcs : List Val) (x : Val) (code e : Nat) (ops : BitVec 64) : Option (Nat × Nat × BitVec 64) :=
  if !srcs.any (·.isNan) && (t2.decode code).isNan then some (e, if x.isNan then 0 else 1, ops) else none

/-- The codes of the first two operands (R89). DESIGN CHOICE: a source code of 64 bits fills the field (notes/assumptions/62.md). -/
def opsOf (codes : List Nat) : BitVec 64 := BitVec.ofNat 64 (nth 0 codes 0 + nth 0 codes 1 * 2 ^ 32)

/-- One element of an arithmetic form (R135): the code, the counts, the NaN. `g` is the exact function, `mode` rounds its result. -/
def floatElem (t1 t2 : Fmt) (g : List Val → Val) (mode sr e : Nat) (codes : List Nat) : Nat × Cnt × Option (Nat × Nat × BitVec 64) :=
  let ins := codes.map t1.decodeIn
  let x := g (ins.map (·.1))
  let r := t2.encode x mode sr
  (r.1, ins.foldl (fun c i => c.add i.2) r.2, nanOf t2 (ins.map (·.1)) x r.1 e (opsOf codes))

/-- A scalar form: each element in the low bits of its register (R134). -/
def scalarLane (f : FR) (srcs : List Operand) (mode : Nat) (g : Nat → List Val → Val) (x : Ctx) (s : State) (fid : Nat) : FLane :=
  let t1 := x.fmt s f.t1
  let sr := x.sr s fid 0
  let r := floatElem t1 (x.fmt s f.t2) (g sr) mode sr 0 (srcs.map fun o => (x.rd s fid false o).toNat % 2 ^ t1.w)
  ⟨[(f.d, false, BitVec.ofNat 64 r.1)], r.2.1, r.2.2⟩

/-- A packed form: two elements of 16 bits, each on its own (R136). -/
def packedLane (f : FR) (srcs : List Operand) (mode : Nat) (g : Nat → List Val → Val) (x : Ctx) (s : State) (fid : Nat) : FLane :=
  let t1 := x.fmt s f.t1
  let t2 := x.fmt s f.t2
  let el (e : Nat) :=
    let sr := x.sr s fid e
    floatElem t1 t2 (g sr) mode sr e (srcs.map fun o => bits (x.rd s fid false o).toNat (16 * e) 16)
  let a := el 0
  let b := el 1
  ⟨[(f.d, false, BitVec.ofNat 64 (a.1 + b.1 * 2 ^ 16))], a.2.1.add b.2.1, a.2.2 <|> b.2.2⟩

/-- The entries that an arithmetic form accepts: class float, and width 16 in a packed form (R134, R136). -/
def floatCheck (f : FR) (packed : Bool) : Ctx → State → List (Nat × Trap) :=
  let ok (e : Fmt) : Bool := e.cls == 0 && (!packed || e.w == 16)
  tariffCheck [(f.t1, ok), (f.t2, ok)]

/-- An arithmetic form, scalar or packed (R134-R137, R139, R140). -/
def floatOp (i : Instr) (f : FR) (packed : Bool) (lat : Nat) (srcs : List Operand) (mode : Nat) (g : Nat → List Val → Val) (s : State) :
    Host.Outcome State Fault Refusal :=
  floatIssue i f lat f.t2 (floatCheck f packed) (if packed then packedLane f srcs mode g else scalarLane f srcs mode g) s

-- the exact functions on a list of operands

def vAdd (mode : Nat) (l : List Val) : Val := (nth .nan l 0).add (nth .nan l 1) mode
def vSub (mode : Nat) (l : List Val) : Val := (nth .nan l 0).add (nth .nan l 1).neg mode
def vMul (l : List Val) : Val := (nth .nan l 0).mul (nth .nan l 1)
def vFma (mode : Nat) (l : List Val) : Val := ((nth .nan l 0).mul (nth .nan l 1)).add (nth .nan l 2) mode
def vMin (l : List Val) : Val := (nth .nan l 0).minMax (nth .nan l 1) false
def vMax (l : List Val) : Val := (nth .nan l 0).minMax (nth .nan l 1) true

/-- The integral value of `frnd` (R140). -/
def vRnd (mode sr : Nat) (l : List Val) : Val :=
  match nth .nan l 0 with
  | .fin s n d => .fin s (roundInt n d (dirOf mode s) sr) 1
  | v => v

def execFadd (f : FR) (s : State) : Host.Outcome State Fault Refusal := floatOp (.fadd f) f false 4 [f.a, f.b] f.rm.toNat (fun _ => vAdd f.rm.toNat) s
def execFaddPk (f : FR) (s : State) : Host.Outcome State Fault Refusal := floatOp (.faddPk f) f true 4 [f.a, f.b] f.rm.toNat (fun _ => vAdd f.rm.toNat) s
def execFsub (f : FR) (s : State) : Host.Outcome State Fault Refusal := floatOp (.fsub f) f false 4 [f.a, f.b] f.rm.toNat (fun _ => vSub f.rm.toNat) s
def execFsubPk (f : FR) (s : State) : Host.Outcome State Fault Refusal := floatOp (.fsubPk f) f true 4 [f.a, f.b] f.rm.toNat (fun _ => vSub f.rm.toNat) s
def execFmul (f : FR) (s : State) : Host.Outcome State Fault Refusal := floatOp (.fmul f) f false 4 [f.a, f.b] f.rm.toNat (fun _ => vMul) s
def execFmulPk (f : FR) (s : State) : Host.Outcome State Fault Refusal := floatOp (.fmulPk f) f true 4 [f.a, f.b] f.rm.toNat (fun _ => vMul) s
def execFfma (f : FR) (s : State) : Host.Outcome State Fault Refusal := floatOp (.ffma f) f false 4 [f.a, f.b, f.c] f.rm.toNat (fun _ => vFma f.rm.toNat) s
def execFfmaPk (f : FR) (s : State) : Host.Outcome State Fault Refusal := floatOp (.ffmaPk f) f true 4 [f.a, f.b, f.c] f.rm.toNat (fun _ => vFma f.rm.toNat) s
def execFmin (f : FR) (s : State) : Host.Outcome State Fault Refusal := floatOp (.fmin f) f false 4 [f.a, f.b] f.rm.toNat (fun _ => vMin) s
def execFminPk (f : FR) (s : State) : Host.Outcome State Fault Refusal := floatOp (.fminPk f) f true 4 [f.a, f.b] f.rm.toNat (fun _ => vMin) s
def execFmax (f : FR) (s : State) : Host.Outcome State Fault Refusal := floatOp (.fmax f) f false 4 [f.a, f.b] f.rm.toNat (fun _ => vMax) s
def execFmaxPk (f : FR) (s : State) : Host.Outcome State Fault Refusal := floatOp (.fmaxPk f) f true 4 [f.a, f.b] f.rm.toNat (fun _ => vMax) s

/-- R138: exact, counts nothing and raises no `NAN_FIRST`. -/
def execFcmp (f : FR) (s : State) : Host.Outcome State Fault Refusal :=
  issue (.fcmp f) f.h (tariffCheck [(f.t1, fun e => e.cls == 0)]) (computeBody 4 fun x s fid =>
    let t := x.fmt s f.t1
    let v (o : Operand) : Val := (t.decodeIn ((x.rd s fid false o).toNat % 2 ^ t.w)).1
    [(f.d, false, if floatCond (f.xf.toNat % 8) (v f.a) (v f.b) then 1 else 0)]) s

/-- A one-operand function (R139). -/
def funOp (i : Instr) (f : FR) (packed : Bool) (g : Fun) (s : State) : Host.Outcome State Fault Refusal :=
  floatOp i f packed 10 [f.a] f.rm.toNat (fun _ l => g.eval (nth .nan l 0)) s

def execFrcp (f : FR) (s : State) : Host.Outcome State Fault Refusal := funOp (.frcp f) f false .rcp s
def execFrcpPk (f : FR) (s : State) : Host.Outcome State Fault Refusal := funOp (.frcpPk f) f true .rcp s
def execFrsq (f : FR) (s : State) : Host.Outcome State Fault Refusal := funOp (.frsq f) f false .rsq s
def execFrsqPk (f : FR) (s : State) : Host.Outcome State Fault Refusal := funOp (.frsqPk f) f true .rsq s
def execFsqrt (f : FR) (s : State) : Host.Outcome State Fault Refusal := funOp (.fsqrt f) f false .sqrt s
def execFsqrtPk (f : FR) (s : State) : Host.Outcome State Fault Refusal := funOp (.fsqrtPk f) f true .sqrt s
def execFexp2 (f : FR) (s : State) : Host.Outcome State Fault Refusal := funOp (.fexp2 f) f false .exp2 s
def execFexp2Pk (f : FR) (s : State) : Host.Outcome State Fault Refusal := funOp (.fexp2Pk f) f true .exp2 s
def execFlog2 (f : FR) (s : State) : Host.Outcome State Fault Refusal := funOp (.flog2 f) f false .log2 s
def execFlog2Pk (f : FR) (s : State) : Host.Outcome State Fault Refusal := funOp (.flog2Pk f) f true .log2 s
def execFsin (f : FR) (s : State) : Host.Outcome State Fault Refusal := funOp (.fsin f) f false .sin s
def execFsinPk (f : FR) (s : State) : Host.Outcome State Fault Refusal := funOp (.fsinPk f) f true .sin s
def execFcos (f : FR) (s : State) : Host.Outcome State Fault Refusal := funOp (.fcos f) f false .cos s
def execFcosPk (f : FR) (s : State) : Host.Outcome State Fault Refusal := funOp (.fcosPk f) f true .cos s
def execFtanh (f : FR) (s : State) : Host.Outcome State Fault Refusal := funOp (.ftanh f) f false .tanh s
def execFtanhPk (f : FR) (s : State) : Host.Outcome State Fault Refusal := funOp (.ftanhPk f) f true .tanh s

/-- R140: rounded to an integral value by the mode, then encoded to nearest. -/
def execFrnd (f : FR) (s : State) : Host.Outcome State Fault Refusal := floatOp (.frnd f) f false 4 [f.a] 0 (vRnd f.rm.toNat) s
def execFrndPk (f : FR) (s : State) : Host.Outcome State Fault Refusal := floatOp (.frndPk f) f true 4 [f.a] 0 (vRnd f.rm.toNat) s

-- conversion

/-- One converted element: its source code, scaled by 2^n, through both entries (R83, R142). `e` is its `ELEM` (R89). -/
def convElem (t1 t2 : Fmt) (mode sr e : Nat) (n : Int) (code : Nat) : Nat × Cnt × Option (Nat × Nat × BitVec 64) :=
  floatElem t1 t2 (fun l => (nth .nan l 0).scale n) mode sr e [code]

/-- The register of a 64-bit entry must be even and its pair inside the window (R141): the fibres in which it is not. -/
def pairBad (x : Ctx) (s : State) (t : Fmt) (o : Operand) : List Nat :=
  if t.w != 64 then []
  else match o with
    | .v i => x.act.filter fun fid =>
        i.getLsbD 0 || (match s.fibre? x.core x.slot fid with | some f => decide (f.wsize < i.toNat + 2) | none => true)
    | .k i => if i.getLsbD 0 then x.act else []
    | _ => []

/-- Check 9 of `cvt` and `cvti` (R141). -/
def cvtCheck (f : FR) (x : Ctx) (s : State) : List (Nat × Trap) :=
  match tariffCheck [(f.t1, fun _ => true), (f.t2, fun _ => true)] x s with
  | t :: r => t :: r
  | [] =>
    match pairBad x s (x.fmt s f.t2) f.d, pairBad x s (x.fmt s f.t1) f.a with
    | [], [] => []
    | [], bad => bad.map fun fid => (fid, { cause := .tariffIllegal, opnd := 3, info := f.t1.setWidth 64 })
    | bad, _ => bad.map fun fid => (fid, { cause := .tariffIllegal, opnd := 2, info := f.t2.setWidth 64 })

/-- The scalar conversion of `cvt` and `cvti`, a pair for an entry of 64 bits. -/
def cvtLane (f : FR) (n : Ctx → State → Nat → Int) (x : Ctx) (s : State) (fid : Nat) : FLane :=
  let t1 := x.fmt s f.t1
  let t2 := x.fmt s f.t2
  let r := convElem t1 t2 f.rm.toNat (x.sr s fid 0) 0 (n x s fid) ((x.rd s fid (t1.w == 64) f.a).toNat % 2 ^ t1.w)
  ⟨[(f.d, t2.w == 64, BitVec.ofNat 64 r.1)], r.2.1, r.2.2⟩

def execCvt (f : FR) (s : State) : Host.Outcome State Fault Refusal :=
  floatIssue (.cvt f) f 6 f.t2 (cvtCheck f) (cvtLane f fun _ _ _ => 0) s

/-- R142: B is read as a signed 32-bit exponent. -/
def execCvti (f : FR) (s : State) : Host.Outcome State Fault Refusal :=
  floatIssue (.cvti f) f 6 f.t2 (cvtCheck f) (cvtLane f fun x s fid => toSigned 32 (x.rd s fid false f.b).toNat) s

/-- Widths 4, 6, 8 and 16 (R141, R143, R144). -/
def narrowFmt (e : Fmt) : Bool := decide (e.w ≤ 16)

/-- R141, packed: elements 0 and 1 of the low bits. -/
def execCvtPk (f : FR) (s : State) : Host.Outcome State Fault Refusal :=
  floatIssue (.cvtPk f) f 6 f.t2 (tariffCheck [(f.t1, narrowFmt), (f.t2, narrowFmt)]) (fun x s fid =>
    let t1 := x.fmt s f.t1
    let t2 := x.fmt s f.t2
    let v := (x.rd s fid false f.a).toNat
    let el (e : Nat) := convElem t1 t2 f.rm.toNat (x.sr s fid e) e 0 (bits v (t1.w * e) t1.w)
    ⟨[(f.d, false, BitVec.ofNat 64 ((el 0).1 + (el 1).1 * 2 ^ t2.w))], (el 0).2.1.add (el 1).2.1, (el 0).2.2 <|> (el 1).2.2⟩) s

/-- The bit position of the first element of pair `j` (R143). -/
def pairPos (w j : Nat) : Nat := 2 * (j % (32 / w / 2)) * w

/-- R143: two elements of D replaced; they draw as elements 0 and 1, and a record holds `ELEM` 0, as of every scalar form (R89). -/
def execPk (f : FR) (s : State) : Host.Outcome State Fault Refusal :=
  floatIssue (.pk f) f 6 f.t2 (tariffCheck [(f.t1, fun e => decide (e.w ≤ 32)), (f.t2, narrowFmt)]) (fun x s fid =>
    let t1 := x.fmt s f.t1
    let t2 := x.fmt s f.t2
    let p := pairPos t2.w ((x.rd s fid false f.c).toNat % 2 ^ 32)
    let d := (x.rd s fid false f.d).toNat % 2 ^ 32
    let el (e : Nat) (o : Operand) := convElem t1 t2 f.rm.toNat (x.sr s fid e) 0 0 ((x.rd s fid false o).toNat % 2 ^ t1.w)
    let a := el 0 f.a
    let b := el 1 f.b
    let v := d - bits d p (2 * t2.w) * 2 ^ p + (a.1 + b.1 * 2 ^ t2.w) * 2 ^ p
    ⟨[(f.d, false, BitVec.ofNat 64 v)], a.2.1.add b.2.1, a.2.2 <|> b.2.2⟩) s

/-- R144: two elements of A into D and D+1; both draw as a scalar form does, with *e* = 0 (R82). -/
def execUpk (f : FR) (s : State) : Host.Outcome State Fault Refusal :=
  floatIssue (.upk f) f 6 f.t2 (tariffCheck [(f.t1, narrowFmt), (f.t2, fun e => decide (e.w ≤ 32))]) (fun x s fid =>
    let t1 := x.fmt s f.t1
    let t2 := x.fmt s f.t2
    let p := pairPos t1.w ((x.rd s fid false f.b).toNat % 2 ^ 32)
    let v := (x.rd s fid false f.a).toNat
    let el (e : Nat) := convElem t1 t2 f.rm.toNat (x.sr s fid 0) 0 0 (bits v (p + t1.w * e) t1.w)
    ⟨[(f.d, true, BitVec.ofNat 64 ((el 0).1 + (el 1).1 * 2 ^ 32))], (el 0).2.1.add (el 1).2.1, (el 0).2.2 <|> (el 1).2.2⟩) s

/-- The number of a vector register operand. -/
def regNum : Operand → Nat
  | .v i => i.toNat
  | _ => 0

/-- Check 9 of `sclq` (R145): the entries, then the runs against the window. -/
def sclqCheck (f : FR) (x : Ctx) (s : State) : List (Nat × Trap) :=
  match tariffCheck [(f.t1, fun e => e.cls == 0), (f.t2, fun e => e.cls == 0 && e.bsk != 0)] x s with
  | t :: r => t :: r
  | [] =>
    let t2 := x.fmt s f.t2
    let n := if t2.bsk = 3 then 16 else 32
    let out (fid reg len : Nat) : Bool := match s.fibre? x.core x.slot fid with | some g => decide (g.wsize < reg + len) | none => true
    x.act.filterMap fun fid =>
      if out fid (regNum f.a) n then some (fid, { cause := .windowRange, opnd := 3 })
      else if out fid (regNum f.d) (n * t2.w / 32) then some (fid, { cause := .windowRange, opnd := 2 })
      else none

/-- R145: one block quantised in the fibre's own registers; the element words, then the scale code. DESIGN CHOICE: where only the scale
code is NaN, no element entry having one, `NAN_FIRST` is not raised (notes/assumptions/62.md). -/
def execSclq (f : FR) (s : State) : Host.Outcome State Fault Refusal :=
  floatIssue (.sclq f) f 6 f.t2 (sclqCheck f) (fun x s fid =>
    let t1 := x.fmt s f.t1
    let t2 := x.fmt s f.t2
    let n := if t2.bsk = 3 then 16 else 32
    let g := (s.fibre? x.core x.slot fid).getD Fibre.blank
    let codes := (List.range n).map fun i => (g.reg (regNum f.a + i)).toNat % 2 ^ t1.w
    let ins := codes.map t1.decodeIn
    let vals := ins.map (·.1)
    let tcode := (x.rd s fid false f.c).toNat % 2 ^ 32
    let t := fmtF32.decode tcode
    let q := quantBlock t2 (t2.bsk == 2) vals t f.rm.toNat []
    let str := (q.2.1.zip (List.range n)).foldl (fun v p => v + p.1 * 2 ^ (t2.w * p.2)) 0
    let words := (List.range (n * t2.w / 32)).map fun r =>
      ((.v (BitVec.ofNat 8 (regNum f.d + r)), false, BitVec.ofNat 64 (bits str (32 * r) 32)) : Result)
    let clean := !t.isNan && !vals.any (·.isNan)
    let invalid := (List.range n).find? fun i => ((nth .nan vals i).div t).isNan
    let outNan := (List.range n).find? fun i => (t2.decode (nth 0 q.2.1 i)).isNan
    let ops (i : Nat) : BitVec 64 := BitVec.ofNat 64 (nth 0 codes i + tcode * 2 ^ 32)
    let nan := match clean, invalid, outNan with
      | true, some i, some _ => some (i, 0, ops i)
      | true, none, some i => some (i, 1, ops i)
      | _, _, _ => none
    ⟨words ++ [(f.b, false, BitVec.ofNat 64 q.1)], ins.foldl (fun c i => c.add i.2) q.2.2, nan⟩) s

/-- The counter or sticky word that a selector of `sclget` names (R146). -/
def QSet.sel (q : QSet) (m : Nat) : Nat := if m = 0 then q.ufl else if m = 1 then q.fls else if m = 2 then q.ovr else q.nls

def Team.sclget (t : Team) (sel : Nat) : Nat :=
  let none : QSet := ⟨0, 0, 0, 0, 0⟩
  if sel < 16 then (nth none t.qsets (sel / 4)).sel (sel % 4) else (nth none t.qsets (sel - 16)).sticky.toNat

/-- The same cleared (R146). -/
def Team.sclclr (t : Team) (sel : Nat) : Team :=
  if sel < 16 then
    { t with qsets := modAt t.qsets (sel / 4) fun q =>
        if sel % 4 = 0 then { q with ufl := 0 } else if sel % 4 = 1 then { q with fls := 0 }
        else if sel % 4 = 2 then { q with ovr := 0 } else { q with nls := 0 } }
  else { t with qsets := modAt t.qsets (sel - 16) fun q => { q with sticky := 0 } }

/-- `sclget` reads once for the gang, every active fibre receives the value, and `.clr` clears in the same step (R146). -/
def sclgetBody (f : FR) (clr : Bool) (x : Ctx) (s : State) : State × List (Nat × LaneRes) :=
  match x.team s, x.act with
  | none, _ | _, [] => (s, [])
  | some t, fids =>
    let sel := match f.a with | .imm i => i.toNat | _ => 0
    let v := BitVec.ofNat 64 (t.sclget sel)
    let s := if clr then s.modTeam x.core x.slot (·.sclclr sel) else s
    s.deliver x (.at (x.now + 6)) (fids.map fun fid => (fid, [(f.d, false, v)]))

def execSclget (f : FR) (s : State) : Host.Outcome State Fault Refusal := issue (.sclget f) f.h noCheck (sclgetBody f false) s
def execSclgetClr (f : FR) (s : State) : Host.Outcome State Fault Refusal := issue (.sclgetClr f) f.h noCheck (sclgetBody f true) s

/-- R147. -/
def execCrng (f : FR) (s : State) : Host.Outcome State Fault Refusal :=
  let rounds := if f.rm == 0 then 2 else if f.rm == 1 then 4 else 8
  issue (.crng f) f.h noCheck (computeBody (if rounds = 8 then 14 else 10) fun x s fid =>
    [(f.d, false, (crngOf (x.rd s fid true f.a) ((x.rd s fid false f.b).setWidth 32) rounds).setWidth 64)]) s

end Sys2Proof.Machine
end

