-- ==== Sys2Proof/Machine/MemOps.lean ====
section
/-!
DEFINITION. What the memory instructions share: effective addresses and their checks (R49, R205), watchpoints (R300), the order of one
fibre's accesses (R330, R331), the side log (R283-R286), the store buffer (R188, R189), releases (R190), the gathering of a uniform
destination (R103), and the atomic operations (R220-R222).
-/
namespace Sys2Proof.Machine

open Sys2Proof

-- addresses

/-- The effective address of format M (R49). -/
def Ctx.ea (x : Ctx) (s : State) (fid : Nat) (f : FM) : Nat := (x.rd s fid true f.a + f.off.signExtend 64).toNat

/-- The scratchpad address of `lds`, `sts`, `ldx` and `stx` (R214). -/
def Ctx.eaSpad (x : Ctx) (s : State) (fid : Nat) (f : FM) : Nat :=
  ((x.rd s fid false f.a).extractLsb' 0 32 |>.setWidth 64) + f.off.signExtend 64 |>.toNat

/-- Bytes of a type (R206, R220). -/
def tyBytes (t : BitVec 6) : Nat := tyBits t / 8

/-- The checks of R205 on an address: alignment, then bits [63:56]. -/
def addrTrap (va n : Nat) (wr : Bool) : Option Trap :=
  if va % n ≠ 0 then some (memTrap .misaligned va wr) else if 2 ^ 56 ≤ va then some (memTrap .pageFault va wr) else none

/-- The granule of a side-log entry (R210). -/
def granule (va : Nat) : Nat := va / 2 ^ 16

/-- The fibre holds side-log entries for the granule of an address (R208, R210). -/
def State.logged (s : State) (c slot fid va : Nat) : Bool :=
  (s.core c).sidelog.any fun e => e.slot == slot && e.fid == fid && granule e.va == granule va

/-- The watchpoint that an access of `n` bytes meets (R300). -/
def Team.watch? (t : Team) (va n : Nat) (rd wr : Bool) : Option Nat :=
  (List.range 4).find? fun i =>
    let c := nth 0 t.dbg.wpc i
    let len := (c.extractLsb' 3 3).toNat
    let lo := (nth 0 t.dbg.wpa i).toNat / 2 ^ len * 2 ^ len
    c.getLsbD 0 && len != 7 && ((rd && c.getLsbD 1) || (wr && c.getLsbD 2)) && decide (va < lo + 2 ^ len) && decide (lo < va + n)

/-- How a lane's access that has been performed, or has entered a buffer, ends: it completes, or raises `WATCHPOINT` (R300). -/
def Ctx.watched (x : Ctx) (s : State) (va n : Nat) (rd wr : Bool) (r : LaneRes) : LaneRes :=
  match (x.team s).bind (·.watch? va n rd wr) with
  | some i => .trap { cause := .watchpoint, addr := BitVec.ofNat 64 va, info := BitVec.ofNat 64 i, next := true }
  | none => r

/-- The same for an access that another party completes: `WATCHPOINT` is raised as the fibre goes on. -/
def State.watchLater (s : State) (x : Ctx) (fid va n : Nat) (rd wr : Bool) : State :=
  match (x.team s).bind (·.watch? va n rd wr) with
  | some i =>
    let tr : Trap := { cause := .watchpoint, addr := BitVec.ofNat 64 va, info := BitVec.ofNat 64 i, next := true, ipc := some x.pc }
    s.modFibre x.core x.slot fid fun f => { f with pendTrap := f.pendTrap <|> some tr }
  | none => s

-- the order of one fibre's accesses

/-- The bytes of a store-buffer entry that one fibre wrote, as a range mask of its sector. -/
def SBEntry.maskOf (e : SBEntry) (fid : Nat) : Nat :=
  match e.kind with
  | .store o _ _ => match o.find? (·.1 == fid) with | some p => p.2.toNat | none => 0
  | .red _ _ _ len lanes => if lanes.any (·.1 == fid) then (2 ^ len - 1) * 2 ^ (e.va % 32) else 0

/-- An access as the order of one fibre sees it: its leaf and its bytes in its sector. -/
structure OwnAcc where
  leaf : Leaf
  pa : Nat
  mask : Nat

/-- The fibre's accesses to memory that are in flight and older than number `id`: loads, atomics, and store-buffer entries. -/
def Core.olderLoads (k : Core) (slot fid id : Nat) : List OwnAcc :=
  ((k.loads.filter fun l => l.slot == slot && l.fid == fid && decide (l.id < id)).map fun l =>
    ⟨l.leaf, l.leaf.phys l.va, (2 ^ tyBytes l.t1 - 1) * 2 ^ (l.va % 32)⟩) ++
  ((k.atomics.filter fun a => a.slot == slot && decide (a.id < id) && a.lanes.any (·.1 == fid)).map fun a =>
    ⟨a.leaf, a.leaf.phys a.va, (2 ^ a.len - 1) * 2 ^ (a.va % 32)⟩)

def Core.olderStores (k : Core) (slot fid id : Nat) : List OwnAcc :=
  (k.sb.filter fun e => e.slot == slot && decide (e.id < id) && e.kind.fids.contains fid).map fun e =>
    ⟨e.leaf, e.leaf.phys e.va, e.maskOf fid⟩

/-- Two accesses share a byte. -/
def OwnAcc.overlaps (a : OwnAcc) (pa mask : Nat) : Bool := sectorOf a.pa == sectorOf pa && a.mask &&& mask != 0

/-- An older SO access of the fibre holds an SO access back (R330, R459): every one, but an aperture-4 access to the same target that
has been sent. -/
def State.soHeld (s : State) (c slot fid id : Nat) (l : Leaf) : Bool :=
  let k := s.core c
  l.ord == 0 && decide (l.apt ≤ 4) &&
    (((k.olderLoads slot fid id).any fun a => a.leaf.ord == 0 && decide (a.leaf.apt ≤ 4)) ||
      k.sb.any fun e => e.slot == slot && decide (e.id < id) && e.kind.fids.contains fid && e.leaf.ord == 0 && decide (e.leaf.apt ≤ 4) &&
        !(l.apt == 4 && e.leaf.apt == 4 && l.tgt == e.leaf.tgt && e.sent))

/-- A load or atomic of the fibre that is younger than number `id` is in flight for a byte of a sector (R331). -/
def Core.readsAfter (k : Core) (slot fid id pa mask : Nat) : Bool :=
  (k.loads.any fun l => l.slot == slot && l.fid == fid && decide (id < l.id) &&
    (⟨l.leaf, l.leaf.phys l.va, (2 ^ tyBytes l.t1 - 1) * 2 ^ (l.va % 32)⟩ : OwnAcc).overlaps pa mask) ||
  k.atomics.any fun a => a.slot == slot && decide (id < a.id) && a.lanes.any (·.1 == fid) &&
    (⟨a.leaf, a.leaf.phys a.va, (2 ^ a.len - 1) * 2 ^ (a.va % 32)⟩ : OwnAcc).overlaps pa mask

/-- At most 256 stamped requests of one pair are unacknowledged (R459). -/
def State.seqRoom (s : State) (l : Leaf) : Bool :=
  decide ((s.forum.out.filter fun o => o.pkg == l.tgt && o.seq.isSome).length < 256)

/-- An acquire of the fibre has not completed: later accesses wait for it (R213, R335). -/
def State.acqOpen (s : State) (c slot fid : Nat) : Bool :=
  ((s.core c).loads.any fun l => l.slot == slot && l.fid == fid && l.acq.isSome) ||
  ((s.core c).atomics.any fun a => a.slot == slot && a.acq.isSome && a.lanes.any (·.1 == fid)) ||
  s.spOps.any fun o => o.core == c && o.slot == slot && o.acq.isSome && o.lanes.any (·.fid == fid)

/-- The fibre has loads, atomics or scratchpad accesses in flight. -/
def State.loadsOpen (s : State) (c slot fid : Nat) : Bool :=
  !((s.core c).olderLoads slot fid s.uid).isEmpty ||
  s.spOps.any fun o => o.core == c && o.slot == slot && o.lanes.any (·.fid == fid)

/-- A release of the fibre may complete: every earlier access has been performed (R190, R217). -/
def State.relReady (s : State) (c slot fid : Nat) : Bool := s.released c slot fid && !s.loadsOpen c slot fid

-- the unacknowledged-store counter (R190)

def State.countStore (s : State) (c slot fid : Nat) : State := s.modFibre c slot fid fun f => { f with unack := f.unack + 1 }

def State.countFull (s : State) (c slot fid : Nat) : Bool := match s.fibre? c slot fid with | some f => f.unack == 65535 | none => false

-- the side log

/-- The ordering kind of the page of an address as the core's TLB holds it (R285); 0 where it holds none. -/
def State.ordOf (s : State) (c ctx va : Nat) : Nat := match (s.core c).tlb.find? (·.covers ctx va) with | some e => e.leaf.ord | none => 0

/-- The side log has room for `n` entries (R283). A copy takes four (R283). -/
def Core.logRoom (k : Core) (n : Nat) : Bool :=
  decide (k.sidelog.foldl (fun a e => a + (match e.kind with | .copy .. => 4 | _ => 1)) n ≤ 256)

/-- An entry enters the side log (R283, R284): the next sequence number, and a notice for a granule that has no other entry. -/
def State.logEnter (s : State) (c : Nat) (t : Team) (fid va : Nat) (pc : BitVec 56) (kind : SLKind) (cause : Nat) (scope : Option (BitVec 3)) :
    State :=
  let k := s.core c
  let seen := k.sidelog.any fun e => granule e.va == granule va && (match k.team? e.slot with | some u => u.ctx == t.ctx | none => false)
  let e : SLEntry := ⟨k.seq, t.slot, fid, va, pc, kind, cause, scope, s.ordOf c t.ctx va, false⟩
  let n := match kind with | .copy .. => 4 | _ => 1
  let s := s.setCore c { k with sidelog := k.sidelog ++ [e], seq := k.seq + n }
  if seen then s else s.notice c t 1 (granule va)

-- the store buffer

/-- A lane's store on its way into the store buffer. -/
structure Put where
  fid : Nat
  va : Nat
  n : Nat
  data : Nat
  leaf : Leaf

/-- The mask of a lane's bytes in its sector. -/
def Put.mask (p : Put) : Nat := (2 ^ p.n - 1) * 2 ^ (p.va % 32)

/-- A sector's bytes with a lane's laid over. -/
def Put.over (d : Nat) (p : Put) : Nat := d - bits d (8 * (p.va % 32)) (8 * p.n) * 2 ^ (8 * (p.va % 32)) + p.data % 2 ^ (8 * p.n) * 2 ^ (8 * (p.va % 32))

/-- The entry that a single store merges into (R188): of the fibre alone, unsent, RC or UO, with no later entry of the fibre for the
page. A store does not merge past a load of its bytes that is in flight behind the entry, which would read it (R331, R338). -/
def Core.mergeInto (k : Core) (slot : Nat) (p : Put) : Option Nat :=
  let own := k.sb.filter fun e => e.slot == slot && e.kind.fids.contains p.fid && e.va / p.leaf.size == p.va / p.leaf.size
  match own.getLast? with
  | some e =>
    match e.kind with
    | .store [o] _ _ =>
      if o.1 == p.fid && e.va == sectorOf p.va && e.leaf == p.leaf && !e.sent && e.leaf.ord != 0 && e.call.isNone && e.toLog.isNone &&
          !k.readsAfter slot p.fid e.id (p.leaf.phys p.va) p.mask then some e.id else none
    | _ => none
  | none => none

/-- A further store of the entry's fibre merges into it (R188). -/
def SBEntry.merge (e : SBEntry) (p : Put) : SBEntry :=
  match e.kind with
  | .store o m d =>
    let b := BitVec.ofNat 32 p.mask
    { e with kind := .store (o.map fun x => (x.1, x.2 ||| b)) (m ||| b) (BitVec.ofNat 256 (p.over d.toNat)) }
  | _ => e

/-- The lanes of one instruction that store into one sector enter the store buffer together (R188, R189); without room nothing
happens. -/
def State.enterStores (s : State) (c slot : Nat) (pc : BitVec 56) (scope : Option (BitVec 3)) (ps : List Put) :
    Option State :=
  match ps with
  | [] => some s
  | p :: r =>
    let k := s.core c
    match (if r.isEmpty then k.mergeInto slot p else none) with
    | some id =>
      some (s.setCore c { k with sb := modWhere (·.id == id) (·.merge p) k.sb })
    | none =>
      if 256 ≤ k.sb.length then none
      else
        let (id, s) := s.fresh
        let e : SBEntry :=
          { id := id, slot := slot, va := sectorOf p.va, leaf := p.leaf, pc := pc, scope := scope, sent := false,
            kind := .store (ps.map fun q => (q.fid, BitVec.ofNat 32 q.mask)) (BitVec.ofNat 32 (ps.foldl (fun m q => m ||| q.mask) 0))
                      (BitVec.ofNat 256 (ps.foldl Put.over 0)) }
        let s := s.modCore c fun k => { k with sb := k.sb ++ [e] }
        some ((ps.foldl (fun s q => s.countStore c slot q.fid) s).spawn .storeBufferDrain { core := c, id := id })

/-- A reduction's lanes of one address enter the store buffer together (R189, R221). -/
def State.enterRed (s : State) (c slot : Nat) (pc : BitVec 56) (scope : Option (BitVec 3)) (op : AtomOp) (t1 : BitVec 6) (tar : BitVec 64)
    (len va : Nat) (l : Leaf) (lanes : List (Nat × BitVec 64)) : Option State :=
  if 256 ≤ (s.core c).sb.length then none
  else
    let (id, s) := s.fresh
    let e : SBEntry := { id := id, slot := slot, va := va, leaf := l, pc := pc, scope := scope, sent := false, kind := .red op t1 tar len lanes }
    let s := s.modCore c fun k => { k with sb := k.sb ++ [e] }
    some ((lanes.foldl (fun s q => s.countStore c slot q.1) s).spawn .storeBufferDrain { core := c, id := id })

/-- The record of a `call` whose store an agent beyond the package's memory accepts or refuses (R150) enters the store buffer by itself, and
its fibre waits for the answer; without room nothing happens. -/
def State.enterCall (s : State) (c slot : Nat) (pc : BitVec 56) (p : Put) (r : CallRec) : Option State :=
  if 256 ≤ (s.core c).sb.length then none
  else
    let (id, s) := s.fresh
    let e : SBEntry :=
      { id := id, slot := slot, va := sectorOf p.va, leaf := p.leaf, pc := pc, scope := none, sent := false, call := some r,
        kind := .store [(p.fid, BitVec.ofNat 32 p.mask)] (BitVec.ofNat 32 p.mask) (BitVec.ofNat 256 (p.over 0)) }
    let s := s.modCore c fun k => { k with sb := k.sb ++ [e] }
    some (((s.countStore c slot p.fid).modFibre c slot p.fid fun f => { f with wait := some (.remote id) }).spawn .storeBufferDrain
      { core := c, id := id })

/-- The entry leaves the store buffer. -/
def State.dropEntry (s : State) (c id : Nat) : State := s.modCore c fun k => { k with sb := k.sb.filter (·.id != id) }

/-- Naturally aligned pieces of a byte mask of a sector: offset and length (R285 holds 8 bytes an entry). -/
def maskPieces (mask : Nat) : Nat → Nat → List (Nat × Nat)
  | 0, _ => []
  | fuel + 1, o =>
    if 32 ≤ o then []
    else
      let full (n : Nat) : Bool := o % n == 0 && bits mask o n == 2 ^ n - 1
      let n := if full 8 then 8 else if full 4 then 4 else if full 2 then 2 else 1
      if full n then (o, n) :: maskPieces mask fuel (o + n) else maskPieces mask fuel (o + 1)

/-- The type code of a piece in the side log (R206, R285). -/
def pieceType (n : Nat) : BitVec 6 := if n = 8 then 9 else if n = 4 then 8 else if n = 2 then 5 else 4

/-- The fibre of an entry that holds a call record goes on, where it still waits for it. -/
def State.callGoes (s : State) (c : Nat) (e : SBEntry) (r : CallRec) (f : State → State) : State :=
  if (s.fibre? c e.slot r.fid).bind (·.wait) == some (.remote e.id) then f s else s

/-- A store-buffer entry that went to the Forum or to another package has been performed there: it is acknowledged, and a `call` whose
record it was completes (R149, R418, R458). -/
def State.acceptEntry (s : State) (c : Nat) (e : SBEntry) : State :=
  let s := (s.dropEntry c e.id).ackOwners (e.kind.fids.map fun fid => ownerOf c e.slot fid)
  match e.call with
  | none => s
  | some r => s.callGoes c e r fun s =>
    let (id, s) := s.fresh
    (s.modFibre c e.slot r.fid fun f => f.goesOn ((f.oweOperand (.v r.d) true r.sp .ready id).jump r.target)).formGangs c e.slot [r.fid]
      (s.now c + 1)

/-- The parts of a store-buffer entry in the side log (R285): fibre, address, and what the entry there holds. -/
def SBEntry.logParts (e : SBEntry) : List (Nat × Nat × SLKind) :=
  match e.kind with
  | .store owners _ d => owners.flatMap fun o => (maskPieces o.2.toNat 32 0).map fun p =>
      (o.1, e.va + p.1, .store ((e.toLog.bind (·.2)).getD (pieceType p.2)) p.2 (BitVec.ofNat 64 (bits d.toNat (8 * p.1) (8 * p.2))))
  | .red op t1 tar len lanes => lanes.map fun o => (o.1, e.va, .red op t1 tar len o.2)

/-- A store-buffer entry enters the side log with a cause: it counts for its fibres no more (R190, R283). -/
def State.entryLogs (s : State) (c : Nat) (t : Team) (e : SBEntry) (cause : Nat) : State :=
  let s := e.kind.fids.foldl (fun s fid => s.modFibre c e.slot fid fun f => { f with unack := f.unack - 1 }) (s.dropEntry c e.id)
  e.logParts.foldl (fun s p => s.logEnter c t p.1 p.2.1 e.pc p.2.2 cause e.scope) s

/-- A store-buffer entry must enter the side log, and stays unsent while that is full; its fibres issue nothing (R284). -/
def State.entryAwaits (s : State) (c : Nat) (e : SBEntry) (cause : Nat) (t1 : Option (BitVec 6)) : State :=
  let s := s.modCore c fun k => { k with sb := modWhere (·.id == e.id) (fun x => { x with sent := false, toLog := some (cause, t1) }) k.sb }
  let s := e.kind.fids.foldl (fun s fid => s.modFibre c e.slot fid fun f => { f with logWait := f.logWait + 1 }) s
  (s.regang c).spawn .storeBufferDrain { core := c, id := e.id }

/-- A waiting entry's turn to enter the side log (R284): none while another waits before it, or there is no room. -/
def State.entryEnters (s : State) (c : Nat) (e : SBEntry) : Option State :=
  let k := s.core c
  match s.team? c e.slot, e.toLog, (k.sb.find? (·.toLog.isSome)).map (·.id) with
  | some t, some (cause, _), some first =>
    if first == e.id && k.logRoom e.logParts.length then
      let s := e.kind.fids.foldl (fun s fid => s.modFibre c e.slot fid fun f => { f with logWait := f.logWait - 1 }) (s.entryLogs c t e cause)
      some (s.formGangs c e.slot (e.kind.fids.filter fun fid => (s.fibre? c e.slot fid).any (·.runnable)) (s.now c + 1))
    else none
  | _, _, _ => none

/-- The leaf of a write that has no translation: it is ordered with nothing. -/
def Leaf.untranslated (ord : Nat) (world : Bool) : Leaf := ⟨0, 0, 2 ^ 16, 0, false, false, 7, ord, world, false, false⟩

/-- A lane's write that must enter the side log (R283, R284): it enters, or where that is full stands in the store buffer; without room
there too, nothing happens. -/
def State.logWrite (s : State) (c : Nat) (t : Team) (fid va : Nat) (pc : BitVec 56) (kind : SLKind) (cause : Nat) (scope : Option (BitVec 3)) :
    Option State :=
  let k := s.core c
  if k.logRoom 1 && !(k.sb.any (·.toLog.isSome)) then some (s.logEnter c t fid va pc kind cause scope)
  else if 256 ≤ k.sb.length then none
  else
    let (id, s) := s.fresh
    let enter (va : Nat) (kind : SBKind) (t1 : Option (BitVec 6)) : Option State :=
      let e : SBEntry := { id := id, slot := t.slot, va := va, leaf := Leaf.untranslated (s.ordOf c t.ctx va) t.world, pc := pc, scope := scope,
                           sent := false, kind := kind }
      some (((s.modCore c fun k => { k with sb := k.sb ++ [e] }).countStore c t.slot fid).entryAwaits c e cause t1)
    match kind with
    | .store t1 n d =>
      let m := BitVec.ofNat 32 ((2 ^ n - 1) * 2 ^ (va % 32))
      enter (sectorOf va) (.store [(fid, m)] m (BitVec.ofNat 256 (d.toNat % 2 ^ (8 * n) * 2 ^ (8 * (va % 32))))) (some t1)
    | .red op t1 tar len d => enter va (.red op t1 tar len [(fid, d)]) none
    | _ => none

/-- A store-buffer entry is refused at its target (R418, R458), by a cause's code, and 32 more for a target out of reach: each fibre's bytes
enter the side log, or wait for room there. A call record never enters the side log: its `call` traps (R150). -/
def State.refuseEntry (s : State) (c : Nat) (e : SBEntry) (code : Nat) : State :=
  let cause := if 32 ≤ code then Cause.pageFault.code else code
  match s.team? c e.slot, e.call with
  | none, _ => s.dropEntry c e.id
  | some _, some r =>
    let s := (s.dropEntry c e.id).modFibre c e.slot r.fid fun f => { f with unack := f.unack - 1 }
    s.callGoes c e r fun s =>
      let tr := memTrap (Cause.ofCode cause) (r.sp.toNat) true
      s.failWaiting c e.slot r.fid (if 32 ≤ code then { tr with info := 17 } else tr)
  | some t, none =>
    if (s.core c).logRoom e.logParts.length && !((s.core c).sb.any (·.toLog.isSome)) then s.entryLogs c t e cause
    else s.entryAwaits c e cause none

-- the retry of the side log (R286)

/-- What comes of the retry of a pending entry: it is performed; it stays pending with a cause; or it waits for room in the store buffer, as
the store of an instruction would (R188). -/
inductive Retried where
  | gone (s : State)
  | faults (cause : Nat)
  | waits

/-- Retry one pending entry. -/
def State.retryEntry (s : State) (c : Nat) (t : Team) (e : SLEntry) : Retried :=
  let buffered (r : Option State) : Retried := match r with | some s => .gone s | none => .waits
  let drop (s : State) : State := s.modCore c fun k => { k with sidelog := k.sidelog.filter (· != e) }
  match e.kind with
  | .push core ring elem =>
    let (id, s) := s.fresh
    let o : QOp :=
      ⟨id, .replay c e.slot e.fid e.pc, .ring (core.getD c) ring, .push (elem.setWidth 64) false false, .v 0, .v 0, false, id, 0xFE * 2 ^ 56 + ring⟩
    .gone ({ drop s with qops := s.qops ++ [o] }.spawn .enginePush { id := id })
  | .copy cmd _ =>
    let kind : Access := match ((s.core c).eqcp.find? (·.id == cmd)).map EngCmd.kind with
      | some (EngKind.copy .st ..) => .write
      | some (EngKind.copy (.red _) ..) => .atomic
      | _ => .read
    match s.lookWalk t.ctx t.world kind e.va with
    | .fault x => .faults x.code
    | _ =>
      let s := s.modCore c fun k => { k with eqcp := modWhere (·.id == cmd) (fun q => { q with stopped := false }) k.eqcp }
      .gone ((drop s).spawn .streamerCopyRun { core := c, id := cmd })
  | .store _ n d =>
    match s.lookWalk t.ctx t.world .write e.va with
    | .ok l => buffered ((drop s).enterStores c e.slot e.pc e.scope [⟨e.fid, e.va, n, d.toNat, l⟩])
    | .fault x => .faults x.code
    | .miss => .faults e.cause
  | .red op t1 tar len d =>
    match s.lookWalk t.ctx t.world .atomic e.va with
    | .ok l => buffered ((drop s).enterRed c e.slot e.pc e.scope op t1 tar len e.va l [(e.fid, d)])
    | .fault x => .faults x.code
    | .miss => .faults e.cause

/-- Retry the entries of a core that `p` selects, in ascending `SEQ` order (R286): one that stays pending keeps back those after it for
its fibre and granule, and is noticed again. -/
def State.retryLog (s : State) (c : Nat) (p : SLEntry → Bool) : State :=
  ((s.core c).sidelog.filter p).foldl (fun (acc : State × List (Nat × Nat × Nat)) e =>
    let key := (e.slot, e.fid, granule e.va)
    if acc.2.contains key then acc
    else match acc.1.team? c e.slot with
      | none => acc
      | some t =>
        let stays (f : SLEntry → SLEntry) : State := acc.1.modCore c fun k => { k with sidelog := modWhere (· == e) f k.sidelog }
        match acc.1.retryEntry c t e with
        | .gone s => (s, acc.2)
        | .faults cause => ((stays fun x => { x with cause := cause, room := false }).notice c t 1 (granule e.va), key :: acc.2)
        | .waits => ((stays fun x => { x with room := true }).spawnOnce .storeBufferDrain { core := c, flag := true }, key :: acc.2)) (s, []) |>.1

-- the results of loads and atomics

/-- One lane's value of a gathered result has come; when the last has, the register is written once for all, or `NONUNIFORM` is raised
in all with nothing written (R103). -/
def State.uniDone (s : State) (c uid fid : Nat) (v : BitVec 64) : State :=
  match (s.core c).unis.find? (·.id == uid) with
  | none => s
  | some u =>
    let u := { u with vals := u.vals ++ [(fid, v)] }
    let waiting := u.fids.filter fun x => (s.fibre? c u.slot x).bind (·.wait) == some (.uniform uid)
    if waiting.all fun x => u.vals.any (·.1 == x) then
      let s := s.modCore c fun k => { k with unis := k.unis.filter (·.id != uid) }
      let first := match waiting with | x :: _ => assocGet 0 u.vals x | [] => 0
      let diff := waiting.filter fun x => assocGet 0 u.vals x != first
      if diff.isEmpty then (s.answer c u.slot waiting u.dst u.wide first).complete c u.slot waiting (s.now c + 1)
      else match s.team? c u.slot with
        | none => s
        | some t =>
          let lm := laneMask t diff
          waiting.foldl (fun s x => s.failWaiting c u.slot x { cause := .nonuniform, opnd := 2, lmask := some lm }) s
    else s.modCore c fun k => { k with unis := modWhere (·.id == uid) (fun _ => u) k.unis }

/-- A lane of a gathered result leaves with a cause of its own: the others no longer wait for it. -/
def State.uniDrop (s : State) (c uid fid : Nat) : State :=
  match (s.core c).unis.find? (·.id == uid) with
  | none => s
  | some u =>
    let u' := { u with fids := u.fids.filter (· != fid) }
    let s := s.modCore c fun k => { k with unis := modWhere (·.id == uid) (fun _ => u') k.unis }
    match u'.fids with
    | [] => s.modCore c fun k => { k with unis := k.unis.filter (·.id != uid) }
    | x :: _ => match u'.vals.find? (·.1 == x) with
      | some v =>
        let s := s.modCore c fun k => { k with unis := modWhere (·.id == uid) (fun u => { u with vals := u.vals.filter (·.1 != x) }) k.unis }
        s.uniDone c uid x v.2
      | none => s

/-- An access has been performed: the fibres that wait for just that go on (R300, R458). -/
def State.performed (s : State) (c slot id : Nat) (fids : List Nat) : State :=
  match fids.filter fun fid => (s.fibre? c slot fid).bind (·.wait) == some (.remote id) with
  | [] => s
  | ws => s.complete c slot ws (s.now c + 1)

/-- A result in flight has its value: it lands when awaited, or joins the gathering of its instruction. -/
def State.resultOf (s : State) (c slot fid id : Nat) (uni : Option Nat) (v : BitVec 64) : State :=
  match uni with
  | none => s.known c slot fid id v
  | some u => s.uniDone c u fid v

/-- The destination is one uniform register (R103). -/
def isUniform : Operand → Bool
  | .k _ => true
  | _ => false

/-- The gathering of a uniform destination for the lanes that go on; none for other destinations. -/
def State.openUni (s : State) (x : Ctx) (dst : Operand) (wide : Bool) (fids : List Nat) : Option Nat × State :=
  if isUniform dst && !fids.isEmpty then
    let (id, s) := s.fresh
    (some id, s.modCore x.core fun k => { k with unis := k.unis ++ [⟨id, x.slot, fids, dst, wide, []⟩] })
  else (none, s)

-- what a lane's access to memory comes to

/-- A lane's access as judged at issue: it is held and tries again, in a wait that software may have to end or not; it takes a trap; it
enters the side log with a cause; or it goes on under a leaf. -/
inductive LaneAcc where
  | retry
  | held
  | trap (t : Trap)
  | log (cause : Nat)
  | go (l : Leaf)
  deriving DecidableEq, Repr

/-- The package takes an access under a leaf now: SO requests to another package are limited (R459). -/
def State.takes (s : State) (l : Leaf) : Bool := !(l.apt == 4 && l.ord == 0) || s.seqRoom l

/-- A load or returning atomic of a lane (R208, R209, R210, R405, R434). -/
def State.judgeRead (s : State) (c : Nat) (t : Team) (fid va n : Nat) (k : Access) : LaneAcc :=
  let wr := k == .atomic
  match addrTrap va n wr with
  | some tr => .trap tr
  | none =>
    if s.acqOpen c t.slot fid then .retry
    else match s.look c t.ctx t.world k va with
      | .miss => .retry
      | .fault x => .trap (memTrap x va wr)
      | .ok l =>
        if s.logged c t.slot fid va then .held
        else if 5 ≤ l.apt then
          match s.aliasRead t.world l va with
          | some l' => if s.worldRefuses t.world (l'.phys va) then .trap (memTrap .worldViolation va wr) else .go l'
          | none => .trap (memTrap .permitDenied va wr)
        else if l.apt == 4 then
          let behind := (s.core c).sb.any fun e => e.slot == t.slot && !e.sent && e.leaf.tgt == l.tgt && e.leaf.apt == 4 &&
            e.kind.fids.contains fid && sectorOf (e.leaf.phys e.va) == sectorOf (l.phys va)
          if s.takes l && !behind && !s.soHeld c t.slot fid s.uid l then .go l else .retry
        else if s.hostGone l va then .trap { memTrap .pageFault va wr with info := if wr then 9 else 8 }
        else
          let pa := l.phys va
          if s.loadPoisoned c pa n (l.cached && k == .read) then .trap { cause := .pageFault, addr := BitVec.ofNat 64 va, info := 4 } else .go l

/-- A store or reduction of a lane (R208, R209, R224). -/
def State.judgeWrite (s : State) (c : Nat) (t : Team) (fid va n : Nat) (k : Access) (rel : Bool) : LaneAcc :=
  match addrTrap va n true with
  | some tr => .trap tr
  | none =>
    if rel && !s.relReady c t.slot fid then .held
    else if s.acqOpen c t.slot fid || s.countFull c t.slot fid then .retry
    else match s.look c t.ctx t.world k va with
      | .miss => .retry
      | .fault x => .log x.code
      | .ok l =>
        if s.logged c t.slot fid va then .log 0
        else if s.hostGone l va then .log 11
        else .go l

/-- What a held or faulting access leaves behind: the walk it waits for, a failed walk taken, the write-backs a release waits for. -/
def State.afterJudge (s : State) (c : Nat) (t : Team) (fid va : Nat) (k : Access) (rel : Bool) (a : LaneAcc) : State :=
  let s := if rel && a == .held then s.releaseWork c t.slot fid else s
  match a with
  | .retry => if decide (va < 2 ^ 56) && s.look c t.ctx t.world k va == .miss then s.beginWalk c t.ctx va else s
  | .trap _ | .log _ => s.takeFail c t.ctx va
  | _ => s

/-- A lane that is held, by how it was judged. -/
def LaneAcc.res : LaneAcc → LaneRes
  | .retry => .retry
  | .held => .waitAgain
  | .trap t => .trap t
  | _ => .done

/-- With a uniform destination the lanes go on together: while one is held, so are the others that would go on (R103). -/
def holdTogether (uniform : Bool) (js : List (Nat × Nat × LaneAcc)) : List (Nat × Nat × LaneAcc) :=
  let stays (a : LaneAcc) : Bool := a == .retry || a == .held
  if uniform && js.any (fun j => stays j.2.2) then
    js.map fun j => match j.2.2 with | .go _ => (j.1, j.2.1, .retry) | _ => j
  else js

-- atomic operations

/-- The new value of one operation on `len` bytes (R220). -/
def atomNew (op : AtomOp) (t1 : BitVec 6) (len m b cmp : Nat) : Nat :=
  let w := 2 ^ (8 * len)
  let rd (v : Nat) : Int := readInt t1 (BitVec.ofNat 64 v)
  match op with
  | .add => (m + b) % w
  | .min => if rd b < rd m then b % w else m
  | .max => if rd m < rd b then b % w else m
  | .and => m &&& (b % w)
  | .or => m ||| (b % w)
  | .xor => m ^^^ (b % w)
  | .exch => b % w
  | .cas => if m = cmp % w then b % w else m
  | .fadd => m

/-- `FaddGroup` of R222: the fetched values in lane order, and memory's. -/
def faddGroup (t : Fmt) (m : Nat) : List Nat → List Nat × Nat
  | [] => ([], m)
  | b :: r =>
    let dec (v : Nat) : Val := (t.decodeIn v).1
    let enc (v : Val) : Nat := (t.encode v 0 0).1
    let out := r.foldl (fun (acc : Val × List Nat) bj =>
      (dec (enc (acc.1.add (dec bj) 0)), acc.2 ++ [enc ((dec m).add acc.1 0)])) (dec b, [m])
    (out.2, enc ((dec m).add out.1 0))

/-- The operations of the lanes that name one address, in ascending lane order (R221): the fetched values and memory's new value. -/
def atomGroup (op : AtomOp) (t1 : BitVec 6) (tar : BitVec 64) (len m : Nat) (lanes : List (BitVec 64 × BitVec 64)) : List Nat × Nat :=
  if op == .fadd then faddGroup (Fmt.of tar) m (lanes.map fun l => l.1.toNat % 2 ^ (8 * len))
  else lanes.foldl (fun (acc : List Nat × Nat) l => (acc.1 ++ [acc.2], atomNew op t1 len acc.2 l.1.toNat l.2.toNat)) ([], m)

/-- Perform a group at the home of its address, after the write-back and invalidation of the core's sector (R212, R221). -/
def State.atomAtHome (s : State) (c : Nat) (op : AtomOp) (t1 : BitVec 6) (tar : BitVec 64) (pa len : Nat) (lanes : List (BitVec 64 × BitVec 64)) :
    List Nat × State :=
  let s := s.evict (s.l1Slice c pa) (sectorOf pa)
  let r := atomGroup op t1 tar len (Memory.read s.mem pa len) lanes
  (r.1, s.homeWrite pa len r.2)

/-- Bytes of an atomic's access (R220): a float element's width, or the type's. -/
def atomLen (op : AtomOp) (t1 : BitVec 6) (tar : BitVec 64) : Nat := if op == .fadd then (Fmt.of tar).w / 8 else tyBytes t1

end Sys2Proof.Machine
end

