-- ==== Sys2Proof/Machine/Memory.lean ====
section
/-!
DEFINITION. Loads and stores to memory, prefetch, flush, fences, carve-out changes and translation queries (R205-R218, R225, R226), with
the hardware steps that complete them (R188-R193, R208, R212).
-/
namespace Sys2Proof.Machine

open Sys2Proof

-- loads

/-- A lane's load sets out (R208): to memory, or to another package, for which its fibre waits (R458), as it does for a load that meets a
watchpoint (R300). -/
def State.beginLoad (s : State) (x : Ctx) (f : FM) (acq : Option (BitVec 3)) (uni : Option Nat) (watched : Bool) (fid va : Nat) (l : Leaf) : State :=
  let (id, s) := s.fresh
  let ld : Load := ⟨id, x.slot, fid, f.t1, va, l, acq, uni⟩
  let s := match uni with
    | some u => s.modFibre x.core x.slot fid fun g => { g with wait := some (.uniform u) }
    | none => s.modFibre x.core x.slot fid (·.oweOperand f.d (Wf.tyWide f.t1) 0 .out id)
  let s := if uni.isNone && (watched || l.apt == 4) then s.modFibre x.core x.slot fid fun g => { g with wait := some (.remote id) } else s
  if l.apt == 4 then
    s.remoteAsk l va (l.ord == 0) (.load x.core ld)
  else (s.modCore x.core fun k => { k with loads := k.loads ++ [ld] }).spawn .loadResponse { core := x.core, id := id }

/-- `Ld` of R208 in every active lane. -/
def loadBody (f : FM) (acq : Option (BitVec 3)) (x : Ctx) (s : State) : State × List (Nat × LaneRes) :=
  match x.team s with
  | none => (s, [])
  | some t =>
    let n := tyBytes f.t1
    let js := holdTogether (isUniform f.d) (x.act.map fun fid => (fid, x.ea s fid f, s.judgeRead x.core t fid (x.ea s fid f) n .read))
    let s := js.foldl (fun s j => s.afterJudge x.core t j.1 j.2.1 .read false j.2.2) s
    let go := js.filterMap fun j => match j.2.2 with | .go l => some (j.1, j.2.1, l) | _ => none
    let (uni, s) := s.openUni x f.d (Wf.tyWide f.t1) (go.map (·.1))
    let meets (va : Nat) : Bool := (t.watch? va n true false).isSome
    let s := go.foldl (fun s g => (s.beginLoad x f acq uni (meets g.2.1) g.1 g.2.1 g.2.2).watchLater x g.1 g.2.1 n true false) s
    (s, js.map fun j => (j.1, match j.2.2 with
      | .go l => if uni.isSome || l.apt == 4 || meets j.2.1 then .block else .done
      | a => a.res))

def execLd (f : FM) (s : State) : Host.Outcome State Fault Refusal := issue (.ld f) f.h noCheck (loadBody f none) s

def execLdAcq (f : FM) (s : State) : Host.Outcome State Fault Refusal := issue (.ldAcq f) f.h noCheck (loadBody f (some f.sc)) s

/-- A load waits for older accesses of its fibre (R330, R331). -/
def State.loadHeld (s : State) (c : Nat) (l : Load) : Bool :=
  let k := s.core c
  let pa := l.leaf.phys l.va
  let mask := (2 ^ tyBytes l.t1 - 1) * 2 ^ (l.va % 32)
  (k.olderLoads l.slot l.fid l.id).any (·.overlaps pa mask) ||
  (k.sb.any fun e => e.slot == l.slot && decide (e.id < l.id) && e.kind.fids.contains l.fid &&
    (match e.kind with | .red .. => true | _ => false) && sectorOf (e.leaf.phys e.va) == sectorOf pa && e.maskOf l.fid &&& mask != 0) ||
  s.soHeld c l.slot l.fid l.id l.leaf || s.lineStaged pa

/-- The value of a load from its bytes (R206). -/
def Load.value (l : Load) (v : Nat) : BitVec 64 := writeInt l.t1 (readInt l.t1 (BitVec.ofNat 64 v))

/-- R208: the bytes of a load arrive; with an acquire its further effect (R213). -/
def execLoadResponse (s : State) : Host.Outcome State Fault Refusal :=
  let c := s.par.core
  match (s.core c).loads.find? (·.id == s.par.id) with
  | none => .next s
  | some l =>
    if s.loadHeld c l then .next (s.spawn .loadResponse s.par)
    else
      let pa := l.leaf.phys l.va
      let (sec, s) := s.loadSector c l.slot l.fid l.id l.leaf (sectorOf pa)
      let s := s.modCore c fun k => { k with loads := k.loads.filter (·.id != l.id) }
      let s := if l.leaf.cached then s else s.l1Show c pa (Memory.bytes s.mem pa (tyBytes l.t1))
      let s := match l.acq with | some sc => s.acquire c sc | none => s
      .next ((s.resultOf c l.slot l.fid l.id l.uni (l.value (bits sec (8 * (pa % 32)) (8 * tyBytes l.t1)))).performed c l.slot l.id [l.fid])

-- stores

/-- The stores of one instruction enter the store buffer, sector by sector (R189); the lanes of a sector that finds no room wait at
issue (R188). -/
def State.bufferStores (s : State) (x : Ctx) (scope : Option (BitVec 3)) (ps : List Put) : State × List Nat :=
  let sectors := (ps.map fun p => p.va / 32).eraseDups
  sectors.foldl (fun (acc : State × List Nat) sec =>
    let group := ps.filter fun p => p.va / 32 == sec
    match acc.1.enterStores x.core x.slot x.pc scope group with
    | some s => (s, acc.2)
    | none => (acc.1, acc.2 ++ group.map (·.fid))) (s, [])

/-- A staged write of an open region sets out (R462); the region ends with code 8 of R464 where a limit is exceeded. -/
def State.stage (s : State) (x : Ctx) (fid va n : Nat) (l : Leaf) (red : Option (AtomOp × BitVec 6)) (data : Nat) : State × LaneRes :=
  match (s.fibre? x.core x.slot fid).bind (·.region) with
  | none => (s, .done)
  | some r =>
    let d := data % 2 ^ (8 * n)
    if 32 ≤ r.nstaged || 2048 < ((r.staged.filter (·.1 == l.tgt)).map fun w => popCount w.2.2.1 8).sum + n then
      (s.rollback x.core x.slot fid 8, .trap { cause := .regionAbort, info := 8 })
    else
      let mask := if red.isSome then 0 else 2 ^ n - 1
      let s := s.modFibre x.core x.slot fid fun f =>
        { f with region := some { r with nstaged := r.nstaged + 1, staged := r.staged ++ [(l.tgt, l.phys va, mask, d)] } }
      let w : StagedReq := ⟨s.forum.pkg.toNat, s.forum.fgrp.toNat, regionNumber x.core r.rgn, red, l.phys va, n, 2 ^ n - 1, d⟩
      ((s.countStore x.core x.slot fid).remoteAsk l va false (.stage x.core x.slot fid w), x.watched s va n red.isSome true .done)

/-- The fibre has a region open. -/
def State.inRegion (s : State) (c slot fid : Nat) : Bool := ((s.fibre? c slot fid).bind (·.region)).isSome

/-- `St` of R208 in every active lane. -/
def storeBody (f : FM) (rel : Option (BitVec 3)) (x : Ctx) (s : State) : State × List (Nat × LaneRes) :=
  match x.team s with
  | none => (s, [])
  | some t =>
    let n := tyBytes f.t1
    let data (fid : Nat) : Nat := (x.rd s fid (Wf.tyWide f.t1) f.d).toNat % 2 ^ (8 * n)
    let js := x.act.map fun fid => (fid, x.ea s fid f, data fid, s.judgeWrite x.core t fid (x.ea s fid f) n .write rel.isSome)
    let s := js.foldl (fun s j => s.afterJudge x.core t j.1 j.2.1 .write rel.isSome j.2.2.2) s
    let puts := js.filterMap fun j => match j.2.2.2 with
      | .go l => if l.apt == 4 && s.inRegion x.core x.slot j.1 then none else some (⟨j.1, j.2.1, n, j.2.2.1, l⟩ : Put)
      | _ => none
    let (s, waits) := s.bufferStores x rel puts
    js.foldl (fun (acc : State × List (Nat × LaneRes)) j =>
      let (fid, va, v, a) := j
      let r : State × LaneRes := match a with
        | .go l =>
          if waits.contains fid then (acc.1, .retry)
          else if l.apt == 4 && acc.1.inRegion x.core x.slot fid then acc.1.stage x fid va n l none v
          else (acc.1, x.watched acc.1 va n false true .done)
        | .log cause =>
          match acc.1.logWrite x.core t fid va x.pc (.store f.t1 n (BitVec.ofNat 64 v)) cause rel with
          | some s => (s, x.watched s va n false true .done)
          | none => (acc.1, .retry)
        | a => (acc.1, a.res)
      (r.1, acc.2 ++ [(fid, r.2)])) (s, [])

def execSt (f : FM) (s : State) : Host.Outcome State Fault Refusal := issue (.st f) f.h noCheck (storeBody f none) s

def execStRel (f : FM) (s : State) : Host.Outcome State Fault Refusal := issue (.stRel f) f.h noCheck (storeBody f (some f.sc)) s

/-- A store-buffer entry may not be sent yet: an older access of one of its fibres to its bytes, the order of SO accesses, the order of
alias stores, or the limit of a pair of packages (R189, R330, R331, R341, R459). -/
def State.drainHeld (s : State) (c : Nat) (e : SBEntry) : Bool :=
  let k := s.core c
  let pa := e.leaf.phys e.va
  (e.kind.fids.any fun fid =>
    let m := e.maskOf fid
    (k.olderLoads e.slot fid e.id).any (·.overlaps pa m) ||
    (k.sb.any fun o => o.slot == e.slot && decide (o.id < e.id) && !o.sent && o.kind.fids.contains fid &&
      ((sectorOf (o.leaf.phys o.va) == sectorOf pa && o.maskOf fid &&& m != 0) || (decide (5 ≤ e.leaf.apt) && decide (5 ≤ o.leaf.apt)))) ||
    s.soHeld c e.slot fid e.id e.leaf) ||
  !s.takes e.leaf || (decide (e.leaf.apt < 4) && s.lineStaged pa)

/-- A store drains into an L1 sector (R211, R327). -/
def State.drainL1 (s : State) (c sa : Nat) (owners : List (Nat × Nat)) (mask : BitVec 32) (data : BitVec 256) : State :=
  let h := s.l1Slice c sa
  let s := s.l1Fill h sa
  let bytes (old : BitVec 256) : BitVec 256 := BitVec.ofNat 256 (leNat ((List.range 32).map fun i =>
    BitVec.ofNat 8 (bits (if mask.getLsbD i then data else old).toNat (8 * i) 8)))
  s.modCore h (·.modSector sa fun x =>
    { x with data := bytes x.data, dirty := x.dirty ||| mask, owners := x.owners ++ owners, poison := x.poison && mask != ~~~0 })

/-- A masked write past the L1, which shows it from then on (R210, R211, R338). -/
def State.writeThrough (s : State) (c pa mask data : Nat) : State :=
  let s := (s.writeBack (s.l1Slice c pa) pa).homeWriteMasked pa mask data
  (maskPieces mask 32 0).foldl (fun s p => s.l1Show c (pa + p.1) (Memory.bytes s.mem (pa + p.1) p.2)) s

/-- A store-buffer entry is sent (R188, R211, R341, R458). -/
def State.drain (s : State) (c : Nat) (e : SBEntry) : State :=
  let pa := e.leaf.phys e.va
  let sent (s : State) : State := s.modCore c fun k => { k with sb := modWhere (·.id == e.id) (fun x => { x with sent := true }) k.sb }
  let owners := e.kind.fids.map fun fid => ownerOf c e.slot fid
  if e.leaf.apt == 4 then (sent s).remoteAsk e.leaf e.va (e.leaf.ord == 0) (.sb c e)
  else match e.kind with
    | .store _ mask data =>
      if 5 ≤ e.leaf.apt then
        let p := s.aliasPacket (dieOf c) e.leaf e.va mask.toNat data.toNat
        ((sent s).modForum fun g => { g with packets := g.packets ++ [(e.id, p)] }).spawn .packetArrival { id := e.id }
      else if e.leaf.cached then (s.dropEntry c e.id).drainL1 c pa owners mask data
      else ((s.dropEntry c e.id).writeThrough c pa mask.toNat data.toNat).ackOwners owners
    | .red op t1 tar len lanes =>
      ((s.dropEntry c e.id).atomAtHome c op t1 tar pa len (lanes.map fun l => (l.2, 0))).2.ackOwners owners

/-- The bytes of an unsent store to a UO page that are performed by themselves, and what is left of it (R332): its bytes and those of
another's store may interleave. -/
def SBEntry.part (e : SBEntry) (m : BitVec 32) : Option (BitVec 32 × SBEntry) :=
  match e.kind with
  | .store owners mask data =>
    let now := mask &&& m
    if e.leaf.ord == 2 && decide (e.leaf.apt < 4) && now != 0 && now != mask then
      some (now, { e with kind := .store (owners.map fun o => (o.1, o.2 &&& ~~~now)) (mask &&& ~~~now) data })
    else none
  | .red .. => none

/-- Some bytes of an entry are performed; the others stay, and the acknowledgement with them. -/
def State.drainPart (s : State) (c : Nat) (e : SBEntry) (now : BitVec 32) (rest : SBEntry) : State :=
  let pa := e.leaf.phys e.va
  let s := s.modCore c fun k => { k with sb := modWhere (·.id == e.id) (fun _ => rest) k.sb }
  match e.kind with
  | .store _ _ data => if e.leaf.cached then s.drainL1 c pa [] now data else s.writeThrough c pa now.toNat data.toNat
  | .red .. => s

/-- R188. An entry that must enter the side log does so as there is room (R284); `flag` retries the side-log entries that waited for room
here (R286); a mask `n` performs some bytes of a UO store by themselves (R332). -/
def execStoreBufferDrain (s : State) : Host.Outcome State Fault Refusal :=
  let c := s.par.core
  if s.par.flag then .next (s.retryLog c (·.room))
  else match (s.core c).sb.find? (·.id == s.par.id) with
  | none => .next s
  | some e =>
    if e.sent then .next s
    else if e.toLog.isSome then .next ((s.entryEnters c e).getD (s.spawn .storeBufferDrain s.par))
    else if s.drainHeld c e then .next (s.spawn .storeBufferDrain s.par)
    else match e.part (BitVec.ofNat 32 s.par.n) with
      | some (now, rest) => .next ((s.drainPart c e now rest).spawn .storeBufferDrain { core := c, id := e.id })
      | none => .next (s.drain c e)

/-- R190: the counters of the fibres fall by one for each write acknowledged. -/
def execStoreAck (s : State) : Host.Outcome State Fault Refusal :=
  let c := s.par.core
  match (s.core c).acks.find? (·.id == s.par.id) with
  | none => .next s
  | some a =>
    let s := s.modCore c fun k => { k with acks := k.acks.filter (·.id != a.id) }
    .next (a.owners.foldl (fun s o => s.modFibre c o.1 o.2 fun f => { f with unack := f.unack - 1 }) s)

/-- R212: a sector is written back and replaced, which may happen at any time. -/
def execL1Writeback (s : State) : Host.Outcome State Fault Refusal := .next (s.evict s.par.core (sectorOf s.par.addr))

/-- R193: the walk ends with a leaf, or with the entry that stopped it (R197, R226). -/
def execTableWalkEnd (s : State) : Host.Outcome State Fault Refusal :=
  let c := s.par.core
  let va := s.par.addr
  let fail (code : Nat) (s : State) : State :=
    s.modCore c fun k => { k with walkFail := k.walkFail.filter (fun w => !(w.1 == s.par.ctx && w.2.1 == va / 2 ^ 16)) ++ [(s.par.ctx, va / 2 ^ 16, code)] }
  if (s.core c).tlb.any fun e => e.covers s.par.ctx va then .next s
  else match s.walk s.par.ctx va with
    | .leaf l => .next ((s.takeFail c s.par.ctx va).enterTlb c s.par.ctx va l)
    | .absent => .next (fail 1 s)
    | .malformed => .next (fail 2 s)

-- prefetch and flush

/-- R215: a line is filled into the L1, where its page allows it; nothing else changes. -/
def State.prefetch (s : State) (c : Nat) (t : Team) (va : Nat) : State :=
  match s.lookWalk t.ctx t.world .read va with
  | .ok l =>
    if l.cached then
      let pa := l.phys va / 64 * 64
      let h := s.l1Slice c pa
      (s.l1Fill h pa).l1Fill h (pa + 32)
    else s
  | _ => s

def prefetchBody (f : FM) (l1 : Bool) (x : Ctx) (s : State) : State × List (Nat × LaneRes) :=
  match x.team s with
  | none => (s, [])
  | some t => (if l1 then x.act.foldl (fun s fid => s.prefetch x.core t (x.ea s fid f)) s else s, [])

def execPrfL1 (f : FM) (s : State) : Host.Outcome State Fault Refusal := issue (.prfL1 f) f.h noCheck (prefetchBody f true) s

/-- R215: the fill of an L2 has no effect here, where an L2 is not held apart from the homes (notes/assumptions/8.md). -/
def execPrfL2 (f : FM) (s : State) : Host.Outcome State Fault Refusal := issue (.prfL2 f) f.h noCheck (prefetchBody f false) s

/-- Flush one sector (R216): its write-back counts for the flushing fibre until it is acknowledged. -/
def State.flushSector (s : State) (c slot fid sa : Nat) (inv : Bool) : State :=
  let h := s.l1Slice c sa
  let s := match (s.core h).sector? sa with
    | some e =>
      if e.dirty == 0 then s
      else ((s.countStore c slot fid).modCore h (·.modSector sa fun y => { y with owners := y.owners ++ [ownerOf c slot fid] })).writeBack h sa
    | none => s
  if inv then s.evict h sa else s

def flushBody (f : FM) (inv : Bool) (x : Ctx) (s : State) : State × List (Nat × LaneRes) :=
  match x.team s with
  | none => (s, [])
  | some t =>
    laneFold x (fun x fid s =>
      let va := x.ea s fid f
      if 2 ^ 56 ≤ va then (s, .trap (memTrap .pageFault va false))
      else match s.look x.core t.ctx t.world .flush va with
        | .miss => (s.beginWalk x.core t.ctx va, .retry)
        | .fault c => (s.takeFail x.core t.ctx va, .trap (memTrap c va false))
        | .ok l =>
          if !l.cached then (s, .done)
          else if decide (65534 ≤ (match s.fibre? x.core x.slot fid with | some g => g.unack | none => 0)) then (s, .retry)
          else
            let pa := l.phys va / 64 * 64
            ((s.flushSector x.core x.slot fid pa inv).flushSector x.core x.slot fid (pa + 32) inv, .done)) s

def execFlushWb (f : FM) (s : State) : Host.Outcome State Fault Refusal := issue (.flushWb f) f.h noCheck (flushBody f false) s
def execFlushInv (f : FM) (s : State) : Host.Outcome State Fault Refusal := issue (.flushInv f) f.h noCheck (flushBody f true) s

-- fences (R217, R218)

/-- The release step of a fence in a lane: done, or still waiting. -/
def State.fenceRel (s : State) (c slot fid : Nat) : State × Bool :=
  if s.relReady c slot fid then (s, true) else (s.releaseWork c slot fid, false)

/-- The acquire step of a fence in a lane. -/
def State.fenceAcq (s : State) (c slot fid : Nat) (scope : BitVec 3) : State × Bool :=
  if s.loadsOpen c slot fid then (s, false) else (s.acquire c scope, true)

def execFenceAcq (f : FR) (s : State) : Host.Outcome State Fault Refusal :=
  issue (.fenceAcq f) f.h noCheck (fun x => laneFold x fun x fid s =>
    let r := s.fenceAcq x.core x.slot fid f.rm
    (r.1, if r.2 then .done else .retry)) s

def execFenceRel (f : FR) (s : State) : Host.Outcome State Fault Refusal :=
  issue (.fenceRel f) f.h noCheck (fun x => laneFold x fun x fid s =>
    let r := s.fenceRel x.core x.slot fid
    (r.1, if r.2 then .done else .waitAgain)) s

def execFenceAr (f : FR) (s : State) : Host.Outcome State Fault Refusal :=
  issue (.fenceAr f) f.h noCheck (fun x => laneFold x fun x fid s =>
    let r := s.fenceRel x.core x.slot fid
    if r.2 then
      let a := r.1.fenceAcq x.core x.slot fid f.rm
      (a.1, if a.2 then .done else .waitAgain)
    else (r.1, .waitAgain)) s

-- the carve-out (R174, R178, R179, R225)

/-- The first scratchpad byte that is not there, by the L1 size in KiB (R174). -/
def spadBytes (kib : Nat) : Nat := (640 - kib) * 1024

/-- A team's allotment has a byte at or above an offset. -/
def Team.above (t : Team) (off : Nat) : Bool := t.spadSize != 0 && decide (off < t.spadBase + t.spadSize)

/-- The lines that no longer find a way of their set are written back and invalidated (R178). -/
def State.trimL1 (s : State) (c : Nat) : State :=
  let ways := (s.core c).l1kib / 16
  (s.core c).l1.foldr (fun x (acc : State × List Nat) =>
    let line := x.pa / 64
    if acc.2.contains line then acc
    else if ways ≤ (acc.2.filter fun l => l % 256 == line % 256).length then (acc.1.evict c x.pa, acc.2)
    else (acc.1, line :: acc.2)) (s, []) |>.1

/-- The units switch (R178, R179): lines of departing ways go, and units that change hands hold nothing. -/
def State.setCarve (s : State) (c kib : Nat) : State :=
  let old := (s.core c).l1kib
  let lo := min (spadBytes old) (spadBytes kib)
  let hi := max (spadBytes old) (spadBytes kib)
  (s.modCore c fun k => { k with l1kib := kib, spad := k.spad.filter fun e => !(decide (lo ≤ e.1) && decide (e.1 < hi)) }).trimL1 c

/-- R225. -/
def carveBody (f : FR) (x : Ctx) (s : State) : State × List (Nat × LaneRes) :=
  let want := (x.rdU s false f.a).toNat % 2 ^ 32
  let k := s.core x.core
  match x.act, x.team s with
  | [], _ => (s, [])
  | _, none => (s, [])
  | _, some t =>
    if !(want == 64 || want == 128 || want == 192 || want == 256) then s.deliverAll x f.d false 0xFFFFFFFF
    else if k.fused then s.deliverAll x f.d false 0xFFFFFFFD
    else if want > k.l1kib && t.above (spadBytes want) then s.deliverAll x f.d false 0xFFFFFFFE
    else if want == k.l1kib then s.deliverAll x f.d false (BitVec.ofNat 64 want)
    else
      let (id, s) := s.fresh
      let s := s.modTeam x.core x.slot fun t =>
        { t with fibres := modWhere (fun g => x.act.contains g.fid) (fun g => { g with wait := some (.carve id f.d) }) t.fibres }
      ((s.modCore x.core fun k => { k with carve := k.carve ++ [(id, x.slot, want)] }).spawn .carveChangeComplete { core := x.core },
        x.act.map (·, .block))

def execCarve (f : FR) (s : State) : Host.Outcome State Fault Refusal := issue (.carve f) f.h noCheck (carveBody f) s

/-- R178: the oldest change completes, once no allotment has a byte in units that it gives to L1; its fibres receive the size before. -/
def execCarveChangeComplete (s : State) : Host.Outcome State Fault Refusal :=
  let c := s.par.core
  let k := s.core c
  match k.carve with
  | [] => .next s
  | (id, slot, want) :: rest =>
    if want > k.l1kib && k.teams.any (·.above (spadBytes want)) then .next (s.spawn .carveChangeComplete s.par)
    else
      let s := (s.setCore c { k with carve := rest }).setCarve c want
      match s.team? c slot with
      | none => .next s
      | some t =>
        let ws := t.fibres.filterMap fun g => match g.wait with | some (.carve i d) => if i == id then some (g.fid, d) else none | _ => none
        match ws with
        | [] => .next s
        | w :: _ => .next ((s.answer c slot (ws.map (·.1)) w.2 false (BitVec.ofNat 64 k.l1kib)).complete c slot (ws.map (·.1)) (s.now c + 1))

-- translation queries (R226)

/-- The result word of `tlbq` for a leaf. -/
def tlbqWord (l : Leaf) (va : Nat) : BitVec 64 :=
  BitVec.ofNat 64 (l.tgt * 2 ^ 52 + bits (l.phys va) 16 36 * 2 ^ 16 +
    (if l.size = 2 ^ 16 then 0 else if l.size = 2 ^ 21 then 1 else 2) * 2 ^ 12 + l.cp * 2 ^ 10 + (if l.pin then 2 ^ 9 else 0) +
    (if l.rap then 2 ^ 8 else 0) + l.apt * 2 ^ 5 + l.ord * 2 ^ 3 + (if l.ex then 4 else 0) + (if l.wr then 2 else 0) + if l.wld then 1 else 0)

/-- The word with only `ST` set. -/
def tlbqStatus (st : Nat) : BitVec 64 := BitVec.ofNat 64 (st * 2 ^ 14)

/-- What a lane's query answers: none while the walk goes on. -/
def State.tlbq (s : State) (c : Nat) (t : Team) (va : Nat) : Option (BitVec 64) :=
  if 2 ^ 56 ≤ va then some (tlbqStatus 1)
  else match (s.core c).tlb.find? (·.covers t.ctx va) with
    | some e => if e.revoking then none else if e.leaf.wld && !t.world then some (tlbqStatus 3) else some (tlbqWord e.leaf va)
    | none => ((s.core c).walkFail.find? fun w => w.1 == t.ctx && w.2.1 == va / 2 ^ 16).map fun w => tlbqStatus w.2.2

def tlbqBody (f : FM) (x : Ctx) (s : State) : State × List (Nat × LaneRes) :=
  match x.team s with
  | none => (s, [])
  | some t =>
    let qs := x.act.map fun fid => (fid, x.ea s fid f, s.tlbq x.core t (x.ea s fid f))
    let wait := qs.filter (·.2.2.isNone)
    let go := if isUniform f.d && !wait.isEmpty then [] else qs.filterMap fun q => q.2.2.map fun v => (q.1, q.2.1, v)
    let s := wait.foldl (fun s q => s.beginWalk x.core t.ctx q.2.1) s
    let s := go.foldl (fun s q => s.takeFail x.core t.ctx q.2.1) s
    let r := s.deliver x .ready (go.map fun q => (q.1, [(f.d, true, q.2.2)]))
    (r.1, (x.act.filter fun fid => !(go.any (·.1 == fid))).map (·, .retry) ++ r.2)

def execTlbq (f : FM) (s : State) : Host.Outcome State Fault Refusal := issue (.tlbq f) f.h noCheck (tlbqBody f) s

end Sys2Proof.Machine
end

