-- ==== Sys2Proof/Machine/Scratch.lean ====
section
/-!
DEFINITION. Scratchpad accesses, local and across the cluster (R175, R177, R181-R186, R214, R277, R308-R314): what reaches which bytes,
the bank queues, and the answers.
-/
namespace Sys2Proof.Machine

open Sys2Proof

/-- The first offset of the barrier page (R175). -/
def pageBase : Nat := 0xFF000

/-- The accesses that the barrier page admits (R277): reads of 4 or 8 bytes, and arrivals at `ARRIVE`. -/
def pageAdmits (kind : SpKind) (off : Nat) : Bool :=
  let o := (off - pageBase) % 16
  match kind with
  | .load t1 => t1 == 8 || t1 == 9
  | .store t1 => t1 == 8 && o == 12
  | .atom op t1 _ _ _ => op == .add && t1 == 6 && o == 12
  | .desc _ => false

def SpKind.len : SpKind → Nat
  | .load t1 | .store t1 => tyBytes t1
  | .atom _ _ _ len _ => len
  | .desc _ => 64

/-- Whether the operation writes a register. -/
def SpKind.returns : SpKind → Bool
  | .load _ => true
  | .store _ | .desc _ => false
  | .atom _ _ _ _ ret => ret

def SpKind.isLoad : SpKind → Bool
  | .load _ | .desc _ => true
  | _ => false

/-- A team's own bytes of its core: its allotment, and its block of the barrier page with what the page admits (R177, R277). -/
def Team.holds (t : Team) (kind : SpKind) (off : Nat) : Bool :=
  if off < pageBase then decide (t.spadBase ≤ off) && decide (off + kind.len ≤ t.spadBase + t.spadSize)
  else decide (off < 2 ^ 20) && (off - pageBase) / 256 == t.slot && pageAdmits kind off

/-- A byte of the cluster by core and offset, and its core and offset. -/
def spGlobal (c off : Nat) : Nat := c * 2 ^ 20 + off
def spCore (g : Nat) : Nat := g / 2 ^ 20
def spOff (g : Nat) : Nat := g % 2 ^ 20

/-- A team of the context on a core holds the bytes (R309). -/
def State.clusterHolds (s : State) (ctx tgt : Nat) (kind : SpKind) (off : Nat) : Bool :=
  (s.core tgt).teams.any fun t => t.ctx == ctx && t.holds kind off

/-- A scratchpad address as judged (R177, R205, R309): the byte, or the cause. -/
def State.judgeSpad (s : State) (c : Nat) (t : Team) (cluster : Bool) (kind : SpKind) (addr ea : Nat) : Except Trap Nat :=
  let wr := !kind.isLoad
  if addr % kind.len ≠ 0 then .error (memTrap .misaligned ea wr)
  else if cluster then
    let tgt := 256 * clusOf c + bits addr 20 8
    if addr / 2 ^ 28 = 8 && s.clusterHolds t.ctx tgt kind (addr % 2 ^ 20) then .ok (spGlobal tgt (addr % 2 ^ 20))
    else .error (memTrap .permitDenied ea wr)
  else if decide (addr < 2 ^ 20) && t.holds kind addr then .ok (spGlobal c addr)
  else .error (memTrap .permitDenied ea wr)

/-- The status word of a barrier (R276). -/
def Barrier.status (b : Barrier) (slot : Nat) : Nat :=
  b.ph.toNat * 2 ^ 48 + slot * 2 ^ 44 + (if b.loss then 2 ^ 43 else 0) + b.exp % 2048 * 2 ^ 32 + b.cnt % 2048 * 2 ^ 21 + b.dec % 2048 * 2 ^ 10

/-- What the barrier page reads as at an offset (R277). -/
def State.pageRead (s : State) (c off n : Nat) : Nat :=
  let o := off - pageBase
  match (s.core c).team? (o / 256) with
  | none => 0
  | some t =>
    let b := nth ⟨0, 0, 0, 0, 0, 0, false⟩ t.bars (o % 256 / 16)
    bits (b.status t.slot + b.lbyt % 2 ^ 32 * 2 ^ 64) (8 * (o % 16)) (8 * n)

/-- One arrival through the barrier page (R273, R277). -/
def State.pageArrive (s : State) (c off bytes : Nat) : State :=
  let o := off - pageBase
  s.arrive c (o / 256) (o % 256 / 16) bytes none

-- bank queues

def bankOf (word : Nat) : Nat := word / 4 % 32

/-- A request of order number `arr` is held by an older entry of the range scoreboard (R186). -/
def Core.spHeld (k : Core) (arr word : Nat) : Bool := k.ranges.any fun r => decide (r.id < arr) && decide (r.lo < word + 4) && decide (word < r.hi)

/-- The words that an access touches. -/
def wordsOf (off n : Nat) : List Nat := (List.range (max 1 (n / 4))).map (off / 4 * 4 + 4 * ·)

/-- The requests of an operation at one core (R181): one for each word that loads touch, one for each lane and word of a store, one for
each address and word of an atomic (R221). -/
def SpOp.requests (o : SpOp) (tgt : Nat) : List SpReq :=
  let ls := o.lanes.filter fun l => spCore l.off == tgt && decide (spOff l.off < pageBase) && !l.refused
  match o.kind with
  | .load _ | .desc _ => ((ls.flatMap fun l => wordsOf (spOff l.off) o.kind.len).eraseDups).map fun w => ⟨o.id, w, none, o.id⟩
  | .store t1 => ls.flatMap fun l => (wordsOf (spOff l.off) (tyBytes t1)).map fun w => ⟨o.id, w, some l.fid, o.id⟩
  | .atom .. => ((ls.map (·.off)).eraseDups).flatMap fun g =>
      (wordsOf (spOff g) o.kind.len).map fun w => ⟨o.id, w, (ls.find? (·.off == g)).map (·.fid), o.id⟩

/-- Every bank has room for its requests (R181). -/
def Core.bankRoom (k : Core) (rs : List SpReq) : Bool :=
  (List.range 32).all fun b =>
    let new := (rs.filter fun r => bankOf r.word == b).length
    new == 0 || decide ((k.bankq.filter fun r => bankOf r.word == b && !k.spHeld r.arr r.word).length + new ≤ 32)

/-- Requests enter the bank queues. -/
def State.enqueue (s : State) (tgt : Nat) (rs : List SpReq) : State :=
  rs.foldl (fun s r => s.spawn .scratchpadBankServe { core := tgt, n := bankOf r.word }) (s.modCore tgt fun k => { k with bankq := k.bankq ++ rs })

def State.modOp (s : State) (id : Nat) (f : SpOp → SpOp) : State := { s with spOps := modWhere (·.id == id) f s.spOps }

/-- The value that a lane of a completed operation receives. -/
def SpOp.value (o : SpOp) (l : SpLane) : BitVec 64 :=
  match o.kind with
  | .load t1 =>
    if spOff l.off < pageBase then
      let word (w : Nat) : Nat := (assocGet 0 o.words (spGlobal (spCore l.off) w)).toNat
      let v := (wordsOf (spOff l.off) (tyBytes t1)).foldr (fun w acc => word w + acc * 2 ^ 32) 0
      writeInt t1 (readInt t1 (BitVec.ofNat 64 (if tyBytes t1 < 4 then v / 2 ^ (8 * (l.off % 4)) else v)))
    else writeInt t1 (readInt t1 l.res)
  | _ => l.res

/-- The 64 bytes that a lane of `tdset` has read (R247). -/
def SpOp.desc (o : SpOp) (l : SpLane) : BitVec 512 :=
  BitVec.ofNat 512 ((wordsOf (spOff l.off) 64).foldr (fun w acc => (assocGet 0 o.words (spGlobal (spCore l.off) w)).toNat + acc * 2 ^ 32) 0)

/-- The refusal of a lane at its target (R309): `ADDR` is the address as the instruction named it, with the tag of R223 for an atomic. -/
def SpOp.refusal (o : SpOp) (l : SpLane) : Trap :=
  let tag := match o.kind with | .atom .. => 0xFD * 2 ^ 56 | _ => 0
  memTrap .permitDenied (tag + 2 ^ 31 + spCore l.off % 256 * 2 ^ 20 + spOff l.off) (!o.kind.isLoad)

/-- A lane with a cause traps at its instruction, where its fibre waits for the operation; the record's `LMASK` holds the lanes that met
the cause in it (R113, R168, R309). -/
def State.refuseLane (s : State) (o : SpOp) (l : SpLane) : State :=
  match l.fault, s.team? o.core o.slot, (s.fibre? o.core o.slot l.fid).bind (·.wait) with
  | some tr, some t, some w =>
    let tr := { tr with lmask := some (laneMask t ((o.lanes.filter fun m => m.fault.any (·.cause == tr.cause)).map (·.fid))) }
    match w with
    | .scratch i => if i == o.id then s.failWaiting o.core o.slot l.fid tr else s
    | .uniform u => if o.uni == some u then (s.failWaiting o.core o.slot l.fid tr).uniDrop o.core u l.fid else s
    | _ => s
  | _, _, _ => s

/-- The fibres of an operation that wait for it. -/
def State.spWaiting (s : State) (o : SpOp) : List Nat :=
  (o.lanes.map (·.fid)).filter fun fid => (s.fibre? o.core o.slot fid).bind (·.wait) == some (.scratch o.id)

/-- The waiting fibres of an operation go on; those with a cause trap. -/
def State.spRelease (s : State) (o : SpOp) : State :=
  let s := (o.lanes.filter (·.refused)).foldl (·.refuseLane o ·) s
  if (s.spWaiting o).isEmpty then s else s.complete o.core o.slot (s.spWaiting o) (s.now o.core + 1)

/-- The results of an operation that are known land now, all in one cycle (R182). -/
def Team.landTogether (t : Team) (id now : Nat) : Team :=
  { t with fibres := t.fibres.map fun f =>
      { f with pend := modWhere (fun w => w.id == id && w.due == .ready) (fun w => { w with due := .at now }) f.pend } }

/-- A scratchpad operation completes: all its lanes' results are written together (R182), an acquire takes effect, and a remote write is
acknowledged (R310). -/
def State.spFinish (s : State) (o : SpOp) : State :=
  let s := { s with spOps := s.spOps.filter (·.id != o.id) }
  let s := match o.acq with | some sc => s.acquire o.core sc | none => s
  let s := if o.remote && !o.kind.isLoad then
      (o.lanes.filter (!·.refused)).foldl (fun s l => s.modFibre o.core o.slot l.fid fun f => { f with unack := f.unack - 1 }) s
    else s
  let s := (o.lanes.filter (!·.refused)).foldl (fun s l =>
    if o.kind.returns then s.resultOf o.core o.slot l.fid o.id o.uni (o.value l)
    else match o.kind with
      | .desc n => s.modTeam o.core o.slot fun t => { t with tdesc := sparsePut 0 t.tdesc n (o.desc l) }
      | _ => s) s
  (s.modTeam o.core o.slot (·.landTogether o.id (s.now o.core))).spRelease o

/-- Every lane of a remote operation has been judged at its target (R309): the fibres of a load, atomic or reduction go on, and those
refused trap. The fibres of `stx` wait for its answers (R310). -/
def State.spAdmit (s : State) (id : Nat) : State :=
  match s.spOps.find? (·.id == id) with
  | none => s
  | some o =>
    match o.kind with
    | .store _ => s
    | _ => if o.remote && o.toArrive.isEmpty && !(s.netArr.any (·.id == id)) then s.spRelease o else s

/-- `n` more of an operation's accesses have been performed. -/
def State.spServed (s : State) (id n : Nat) : State :=
  let s := s.modOp id fun o => { o with left := o.left - n }
  match s.spOps.find? (·.id == id) with
  | none => s
  | some o =>
    if o.left == 0 && o.toArrive.isEmpty then
      if o.remote then s.spawnOnce .remoteScratchpadResponse { core := o.core, id := id } else s.spFinish o
    else s

/-- Perform the lanes of an atomic at one address in their bank (R221, R223). -/
def State.atomAtBank (s : State) (tgt : Nat) (o : SpOp) (g : Nat) : State :=
  match o.kind with
  | .atom op t1 tar len _ =>
    let ls := o.lanes.filter fun l => l.off == g && !l.refused
    let r := atomGroup op t1 tar len (s.spadRead tgt (spOff g) len) (ls.map fun l => (l.data, l.cmp))
    let s := s.spadWrite tgt (spOff g) len r.2
    let vals := (ls.map (·.fid)).zip r.1
    s.modOp o.id fun o => { o with lanes := modWhere (fun l => l.off == g && !l.refused)
                                      (fun l => { l with res := BitVec.ofNat 64 (assocGet 0 vals l.fid) }) o.lanes }
  | _ => s

/-- The request that a bank serves next: its first that is not held (R184, R186). -/
def Core.bankHead (k : Core) (b : Nat) : Option SpReq := k.bankq.find? fun r => bankOf r.word == b && !k.spHeld r.arr r.word

/-- The other request of an atomic of 8 bytes: it is performed whole, at its place in both banks' queues (R181, R184, R223). -/
def State.mates (s : State) (c : Nat) (r : SpReq) : List SpReq :=
  match (s.spOps.find? (·.id == r.op)).map SpOp.kind with
  | some (SpKind.atom ..) => (s.core c).bankq.filter fun q => q.op == r.op && q.lane == r.lane && q != r
  | _ => []

/-- A bank serves one request (R181-R184); a local write is acknowledged as its last request is served (R190). -/
def State.serveRequest (s : State) (c : Nat) (r : SpReq) : State :=
  let ms := s.mates c r
  let s := s.modCore c fun k => { k with bankq := (k.bankq.erase r).filter (!ms.contains ·) }
  match s.spOps.find? (·.id == r.op) with
  | none => s
  | some o =>
    let ack (fids : List Nat) (s : State) : State :=
      if o.remote then s else fids.foldl (fun s fid => s.modFibre o.core o.slot fid fun f => { f with unack := f.unack - 1 }) s
    match o.kind with
    | .load _ | .desc _ =>
      let v := BitVec.ofNat 32 (s.spadRead c r.word 4)
      (s.modOp o.id fun o => { o with words := o.words ++ [(spGlobal c r.word, v)] }).spServed o.id 1
    | .store t1 =>
      match r.lane.bind fun fid => o.lanes.find? (·.fid == fid) with
      | none => s.spServed o.id 1
      | some l =>
        let n := tyBytes t1
        let off := spOff l.off
        let s := if n = 8 then s.spadWrite c r.word 4 (if r.word = off then l.data.toNat else l.data.toNat / 2 ^ 32) else s.spadWrite c off n l.data.toNat
        let last := !((s.core c).bankq.any fun q => q.op == o.id && q.lane == some l.fid)
        (if last then ack [l.fid] s else s).spServed o.id 1
    | .atom .. =>
      match r.lane.bind fun fid => o.lanes.find? (·.fid == fid) with
      | none => s.spServed o.id (1 + ms.length)
      | some l => (ack ((o.lanes.filter fun m => m.off == l.off).map (·.fid)) (s.atomAtBank c o l.off)).spServed o.id (1 + ms.length)

/-- R183. -/
def execScratchpadBankServe (s : State) : Host.Outcome State Fault Refusal :=
  let c := s.par.core
  let k := s.core c
  match k.bankHead s.par.n with
  | some r =>
    .next (if (s.mates c r).all fun q => k.bankHead (bankOf q.word) == some q then s.serveRequest c r
           else s.spawn .scratchpadBankServe s.par)
  | none => .next (if k.bankq.any fun r => bankOf r.word == s.par.n then s.spawn .scratchpadBankServe s.par else s)

-- the issue of a scratchpad operation

/-- The lanes of the barrier page, which the barrier unit of the issuing core performs at once (R273, R277). -/
def State.pageLocal (s : State) (c : Nat) (o : SpOp) : State × SpOp :=
  o.lanes.foldl (fun (acc : State × SpOp) l =>
    if spOff l.off < pageBase then acc
    else match o.kind with
      | .load t1 =>
        let v := BitVec.ofNat 64 (acc.1.pageRead c (spOff l.off) (tyBytes t1))
        (acc.1, { acc.2 with lanes := modWhere (·.fid == l.fid) (fun m => { m with res := v }) acc.2.lanes })
      | _ => (acc.1.pageArrive c (spOff l.off) (l.data.toNat % 2 ^ 32), acc.2)) (s, o)

/-- The accesses of an operation that the barrier network carries (R314). -/
def SpOp.netArrivals (o : SpOp) : List NetArr :=
  let ls := o.lanes.filter fun l => !l.refused && decide (pageBase ≤ spOff l.off)
  ((ls.map (·.off)).eraseDups).map fun g =>
    { id := o.id, core := o.core, slot := o.slot, tgt := spCore g, off := spOff g,
      lanes := (ls.filter (·.off == g)).map fun l => (l.fid, l.data.extractLsb' 0 32), wr := !o.kind.isLoad }

/-- A scratchpad operation sets out with its lanes (R181, R310); the fibres that `block` selects wait for it. -/
def State.beginSpad (s : State) (x : Ctx) (t : Team) (kind : SpKind) (remote : Bool) (block : Nat → Bool) (acq : Option (BitVec 3)) (uni : Option Nat)
    (dst : Option (Operand × Bool)) (lanes : List SpLane) : State :=
  let (id, s) := s.fresh
  let o : SpOp :=
    { id := id, core := x.core, slot := x.slot, ctx := t.ctx, pc := x.pc, kind := kind, lanes := lanes, left := 0, words := [],
      toArrive := [], remote := remote, acq := acq, uni := uni }
  let s := lanes.foldl (fun s l =>
    let s := if l.refused || kind.isLoad || (!remote && decide (pageBase ≤ spOff l.off)) then s else s.countStore x.core x.slot l.fid
    s.modFibre x.core x.slot l.fid fun f =>
      match uni with
      | some u => { f with wait := some (.uniform u) }
      | none =>
        let f := match dst with | some (d, wide) => f.oweOperand d wide 0 .out id | none => f
        if block l.fid then { f with wait := some (.scratch id) } else f) s
  if remote then
    let tgts := ((lanes.filter fun l => !l.refused && decide (spOff l.off < pageBase)).map fun l => spCore l.off).eraseDups
    let nets := o.netArrivals
    let left := (tgts.map fun g => (o.requests g).length).sum + (nets.map fun n => n.lanes.length).sum
    let s := { s with spOps := s.spOps ++ [{ o with left := left, toArrive := tgts }], netArr := s.netArr ++ nets }
    let s := nets.foldl (fun s n => s.spawn .barrierNetworkArrival { id := id, k := n.tgt, off := n.off }) s
    tgts.foldl (fun s g => s.spawn .remoteScratchpadArrival { core := x.core, id := id, k := g }) s
  else
    let (s, o) := s.pageLocal x.core o
    let rs := o.requests x.core
    let o := { o with left := rs.length }
    let s := { s with spOps := s.spOps ++ [o] }
    if rs.isEmpty then s.spFinish o else s.enqueue x.core rs

/-- An operation of these lanes may issue: room in the banks of the own core, and a completion counter for a load (R181, R182). -/
def State.spadRoom (s : State) (x : Ctx) (kind : SpKind) (remote : Bool) (lanes : List SpLane) : Bool :=
  let o : SpOp :=
    { id := s.uid, core := x.core, slot := x.slot, ctx := 0, pc := 0, kind := kind, lanes := lanes, left := 0, words := [],
      toArrive := [], remote := remote, acq := none, uni := none }
  (remote || (s.core x.core).bankRoom (o.requests x.core)) &&
  (!kind.isLoad || decide ((s.spOps.filter fun p => p.core == x.core && p.kind.isLoad).length < 128))

/-- The address of a watchpoint on the own core's scratchpad (R299). -/
def spadWatch (addr : Nat) : Nat := 0xFE * 2 ^ 56 + addr

/-- The lane of a scratchpad instruction with its judged address. -/
def SpLane.of (fid : Nat) (j : Except Trap Nat) (data : BitVec 64) : SpLane :=
  match j with
  | .ok g => ⟨fid, g, data, 0, 0, none⟩
  | .error tr => ⟨fid, 0, data, 0, 0, some tr⟩

/-- `lds`, `sts`, `ldx` and `stx` (R214, R310). A lane that an acquire or its counter holds back waits by itself; the lanes of an `stx`,
and those of one uniform destination, go together. A fibre of `ldx` goes on when its access has been judged at its target, so that its
cause is precise (R309); one of `stx` when every lane has been answered (R310); one whose access meets a watchpoint when that has been
performed (R300). -/
def spadBody (f : FM) (kind : SpKind) (remote : Bool) (x : Ctx) (s : State) : State × List (Nat × LaneRes) :=
  match x.team s with
  | none => (s, [])
  | some t =>
    let n := kind.len
    let rd := kind.isLoad
    let stops (fid : Nat) : Bool := s.acqOpen x.core x.slot fid || (!rd && s.countFull x.core x.slot fid)
    let js := x.act.map fun fid =>
      (x.eaSpad s fid f, SpLane.of fid (s.judgeSpad x.core t remote kind (x.eaSpad s fid f) (x.eaSpad s fid f))
        (if rd then 0 else x.rd s fid (Wf.tyWide f.t1) f.d))
    let good := js.filter (!·.2.refused)
    let stx := remote && !rd
    let go := good.filter fun j => !stops j.2.fid
    let together := stx || (rd && isUniform f.d)
    let lanes := go.map (·.2)
    if !s.spadRoom x kind remote lanes || (together && go.length != good.length) then
      (s, js.map fun j => (j.2.fid, match j.2.fault with
        | some tr => if stx && !good.isEmpty then .retry else .trap tr
        | none => .retry))
    else
      let (uni, s) := if rd then s.openUni x f.d (Wf.tyWide f.t1) (lanes.map (·.fid)) else (none, s)
      let meets (ea : Nat) : Bool := !remote && (t.watch? (spadWatch ea) n rd (!rd)).isSome
      let block (fid : Nat) : Bool := uni.isSome || remote || js.any fun j => j.2.fid == fid && meets j.1
      let s := if lanes.isEmpty then s
        else s.beginSpad x t kind remote block none uni (if rd then some (f.d, Wf.tyWide f.t1) else none)
          (if stx then js.map (·.2) else lanes)
      let s := go.foldl (fun s j => if meets j.1 then s.watchLater x j.2.fid (spadWatch j.1) n rd (!rd) else s) s
      (s, js.map fun j => (j.2.fid, match j.2.fault with
        | some tr => if stx && !lanes.isEmpty then .block else .trap tr
        | none => if stops j.2.fid then .retry else if block j.2.fid then .block else .done))

def execLds (f : FM) (s : State) : Host.Outcome State Fault Refusal := issue (.lds f) f.h noCheck (spadBody f (.load f.t1) false) s
def execSts (f : FM) (s : State) : Host.Outcome State Fault Refusal := issue (.sts f) f.h noCheck (spadBody f (.store f.t1) false) s
def execLdx (f : FM) (s : State) : Host.Outcome State Fault Refusal := issue (.ldx f) f.h noCheck (spadBody f (.load f.t1) true) s
def execStx (f : FM) (s : State) : Host.Outcome State Fault Refusal := issue (.stx f) f.h noCheck (spadBody f (.store f.t1) true) s

-- remote accesses on their way

/-- Requests at a mesh port enter the bank queues, those of one source core in their order, each once its queue has room (R311). -/
def State.portEnter (s : State) (tgt : Nat) : State :=
  let r := (s.core tgt).portq.foldl (fun (acc : State × List (Nat × List SpReq)) e =>
    if acc.2.any (·.1 == e.1) || !(acc.1.core tgt).bankRoom e.2 then (acc.1, acc.2 ++ [e]) else (acc.1.enqueue tgt e.2, acc.2)) (s, [])
  r.1.modCore tgt fun k => { k with portq := r.2 }

/-- The requests of a lane's atomic stand together, every other by itself. -/
def SpOp.together (o : SpOp) (rs : List SpReq) : List (List SpReq) :=
  match o.kind with
  | .atom .. => ((rs.map (·.lane)).eraseDups).map fun l => rs.filter (·.lane == l)
  | _ => rs.map ([·])

/-- Lanes that R309 refuses at a target: they carry the cause, and a write of theirs counts no more. -/
def State.spRefuse (s : State) (o : SpOp) (bad : SpLane → Bool) : State :=
  let s := s.modOp o.id fun p => { p with lanes := modWhere (fun l => !l.refused && bad l) (fun l => { l with fault := some (o.refusal l) }) p.lanes }
  if o.kind.isLoad then s
  else (o.lanes.filter fun l => !l.refused && bad l).foldl (fun s l => s.modFibre o.core o.slot l.fid fun f => { f with unack := f.unack - 1 }) s

/-- R311: an operation arrives at a target, in the order in which its core issued; the target checks its lanes by R309, and its requests
enter the bank queues as there is room. -/
def execRemoteScratchpadArrival (s : State) : Host.Outcome State Fault Refusal :=
  let tgt := s.par.k
  let enter (s : State) : State :=
    let s := s.portEnter tgt
    if (s.core tgt).portq.isEmpty then s else s.spawnOnce .remoteScratchpadArrival s.par
  match s.spOps.find? fun o => o.id == s.par.id && o.toArrive.contains tgt with
  | none => .next (enter s)
  | some o =>
    if s.spOps.any fun p => p.core == o.core && decide (p.id < o.id) && p.toArrive.contains tgt then
      .next (s.spawn .remoteScratchpadArrival s.par)
    else
      let (n, s) := s.fresh
      let s := s.spRefuse o fun l => spCore l.off == tgt && decide (spOff l.off < pageBase) && !s.clusterHolds o.ctx tgt o.kind (spOff l.off)
      let s := s.modOp o.id fun p => { p with toArrive := p.toArrive.filter (· != tgt) }
      let rs := (((s.spOps.find? (·.id == o.id)).getD o).requests tgt).map fun r => { r with arr := if o.core = tgt then o.id else n }
      let s := s.modCore tgt fun k => { k with portq := k.portq ++ (o.together rs).map fun g => (o.core, g) }
      .next ((enter (s.spServed o.id ((o.requests tgt).length - rs.length))).spAdmit o.id)

/-- R312. -/
def execRemoteScratchpadResponse (s : State) : Host.Outcome State Fault Refusal :=
  match s.spOps.find? (·.id == s.par.id) with
  | none => .next s
  | some o => if o.remote && o.left == 0 && o.toArrive.isEmpty then .next (s.spFinish o) else .next s

/-- R314: an access of the barrier network is applied at its target, if R309 admits it there. -/
def execBarrierNetworkArrival (s : State) : Host.Outcome State Fault Refusal :=
  match s.netArr.find? fun a => a.id == s.par.id && a.tgt == s.par.k && a.off == s.par.off with
  | none => .next s
  | some a =>
    let s := { s with netArr := s.netArr.filter (· != a) }
    match s.spOps.find? (·.id == a.id) with
    | none => .next s
    | some o =>
      let here (l : SpLane) : Bool := l.off == spGlobal a.tgt a.off
      if s.clusterHolds o.ctx a.tgt o.kind a.off then
        let s := if a.wr then a.lanes.foldl (fun s l => s.pageArrive a.tgt a.off l.2.toNat) s
          else
            let v := BitVec.ofNat 64 (s.pageRead a.tgt a.off o.kind.len)
            s.modOp o.id fun o => { o with lanes := modWhere here (fun l => { l with res := v }) o.lanes }
        .next ((s.spServed o.id a.lanes.length).spAdmit o.id)
      else .next (((s.spRefuse o here).spServed o.id a.lanes.length).spAdmit o.id)

end Sys2Proof.Machine
end

