-- ==== Sys2Proof/Machine/Atomics.lean ====
section
/-!
DEFINITION. Atomics and reductions (R219-R224) on memory, on other packages (R458, R462) and on scratchpads.
-/
namespace Sys2Proof.Machine

open Sys2Proof

/-- Check 9 of `.fadd` (R220): a float entry of width 16 or 32. -/
def atomCheck (op : AtomOp) (t1 : BitVec 6) : Ctx → State → List (Nat × Trap) :=
  if op == .fadd then tariffCheck [(t1, fun e => e.cls == 0 && (e.w == 16 || e.w == 32))] else noCheck

/-- A lane of an atomic as judged at issue: at memory, or at a scratchpad byte of this core or of the cluster (R223). -/
inductive AtomAcc where
  | mem (a : LaneAcc)
  | spad (cluster : Bool) (g : Nat)
  deriving DecidableEq, Repr

def AtomAcc.stays : AtomAcc → Bool
  | .mem .retry | .mem .held => true
  | _ => false

/-- The judgement of one lane (R205, R223, R224): tags in bits [63:56], then the release wait, then the translation. -/
def State.judgeAtom (s : State) (c : Nat) (t : Team) (fid ea len : Nat) (kind : SpKind) (ret rel : Bool) : AtomAcc :=
  let tag := ea / 2 ^ 56
  if tag = 0xFE || tag = 0xFD then
    match s.judgeSpad c t (tag == 0xFD) kind (ea % 2 ^ 56) ea with
    | .error tr => .mem (.trap tr)
    | .ok g =>
      if rel && !s.relReady c t.slot fid then .mem .held
      else if s.acqOpen c t.slot fid || s.countFull c t.slot fid then .mem .retry
      else .spad (tag == 0xFD) g
  else if ret then
    match s.judgeRead c t fid ea len .atomic with
    | .go l =>
      if rel && !s.relReady c t.slot fid then .mem .held
      else if s.countFull c t.slot fid then .mem .retry
      else if 5 ≤ l.apt then .mem (.trap (memTrap .permitDenied ea true))
      else .mem (.go l)
    | a => .mem a
  else .mem (s.judgeWrite c t fid ea len .atomic rel)

/-- The returning lanes of one address set out (R221, R224); a request to another package blocks its fibres (R458), and so does one that
meets a watchpoint (R300). -/
def State.beginAtomic (s : State) (x : Ctx) (f : FM) (watched : Bool) (a : Atomic) : State :=
  let wide := Wf.atomWide a.op f.t1
  let s := a.lanes.foldl (fun s l =>
    (s.countStore x.core x.slot l.1).modFibre x.core x.slot l.1 fun g =>
      match a.uni with
      | some u => { g with wait := some (.uniform u) }
      | none =>
        let g := g.oweOperand f.d wide 0 .out a.id
        if watched || a.leaf.apt == 4 then { g with wait := some (.remote a.id) } else g) s
  if a.leaf.apt == 4 then s.remoteAsk a.leaf a.va (a.leaf.ord == 0) (.atom x.core x.slot a)
  else (s.modCore x.core fun k => { k with atomics := k.atomics ++ [a] }).spawn .atomicResponse { core := x.core, id := a.id }

/-- The body of `atom` and `red` in every active lane. `ret` says that it returns; the scopes are those of its release and acquire. -/
def atomBody (op : AtomOp) (f : FM) (ret : Bool) (rel acq : Option (BitVec 3)) (x : Ctx) (s : State) : State × List (Nat × LaneRes) :=
  match x.team s with
  | none => (s, [])
  | some t =>
    let tar := if op == .fadd then t.tar f.t1.toNat else 0
    let len := atomLen op f.t1 tar
    let wide := Wf.atomWide op f.t1
    let kind : SpKind := .atom op f.t1 tar len ret
    let operand (fid : Nat) : BitVec 64 := x.rd s fid wide (if ret then f.b else f.d)
    let cmp (fid : Nat) : BitVec 64 := if op == .cas then x.rd s fid wide f.d else 0
    let js0 := x.act.map fun fid => (fid, x.ea s fid f, s.judgeAtom x.core t fid (x.ea s fid f) len kind ret rel.isSome)
    let gather := ret && isUniform f.d && js0.any fun j => j.2.2.stays
    let js := if gather then js0.map fun j => match j.2.2 with
        | .mem (.trap tr) => (j.1, j.2.1, .mem (.trap tr))
        | .mem .held => (j.1, j.2.1, .mem .held)
        | _ => (j.1, j.2.1, .mem .retry)
      else js0
    let s := js.foldl (fun s j => match j.2.2 with
      | .mem a => if j.2.1 / 2 ^ 56 = 0 then s.afterJudge x.core t j.1 j.2.1 .atomic rel.isSome a
                  else if a == .held then s.releaseWork x.core x.slot j.1 else s
      | .spad .. => s) s
    -- scratchpad lanes, by the core's own banks and by the cluster
    let spLanes (cluster : Bool) : List SpLane := js.filterMap fun j => match j.2.2 with
      | .spad cl g => if cl == cluster then some ⟨j.1, g, operand j.1, cmp j.1, 0, none⟩ else none
      | _ => none
    let meets (ea : Nat) : Bool := ea / 2 ^ 56 != 0xFD && (t.watch? ea len true true).isSome
    let noRoom (cluster : Bool) : Bool := !s.spadRoom x kind cluster (spLanes cluster)
    -- memory lanes
    let inReg (fid : Nat) (l : Leaf) : Bool := l.apt == 4 && s.inRegion x.core x.slot fid
    let mem := js.filterMap fun j => match j.2.2 with | .mem (.go l) => some (j.1, j.2.1, l) | _ => none
    let regionLanes := mem.filter fun m => inReg m.1 m.2.2
    let lanes := mem.filter fun m => !inReg m.1 m.2.2
    let goes := lanes.map (·.1) ++ (if noRoom false then [] else (spLanes false).map (·.fid)) ++ (if noRoom true then [] else (spLanes true).map (·.fid))
    let (uni, s) := if ret then s.openUni x f.d wide goes else (none, s)
    let addrs := (lanes.map (·.2.1)).eraseDups
    let batch := s.uid
    let (s, full) := addrs.foldl (fun (acc : State × List Nat) va =>
      let ls := lanes.filter (·.2.1 == va)
      match ls.head? with
      | none => acc
      | some m =>
        if ret then
          let (id, s) := acc.1.fresh
          (s.beginAtomic x f (meets va) ⟨id, x.slot, op, f.t1, tar, va, m.2.2, len, ls.map fun l => (l.1, operand l.1, cmp l.1), acq, uni, batch⟩, acc.2)
        else match acc.1.enterRed x.core x.slot x.pc rel op f.t1 tar len va m.2.2 (ls.map fun l => (l.1, operand l.1)) with
          | some s => (s, acc.2)
          | none => (acc.1, acc.2 ++ ls.map (·.1))) (s, [])
    let begin (cluster : Bool) (s : State) : State :=
      if (spLanes cluster).isEmpty || noRoom cluster then s
      else s.beginSpad x t kind cluster (fun fid => cluster || js.any fun j => j.1 == fid && meets j.2.1) acq uni (if ret then some (f.d, wide) else none) (spLanes cluster)
    let s := begin true (begin false s)
    let ends (s : State) (fid ea : Nat) (waits : Bool) : State × LaneRes :=
      (if meets ea then s.watchLater x fid ea len true true else s, if uni.isSome || waits || meets ea then .block else .done)
    js.foldl (fun (acc : State × List (Nat × LaneRes)) j =>
      let (fid, ea, a) := j
      let r : State × LaneRes := match a with
        | .spad cl _ => if noRoom cl then (acc.1, .retry) else ends acc.1 fid ea cl
        | .mem (.go l) =>
          if regionLanes.any (·.1 == fid) then
            if ret then (acc.1.rollback x.core x.slot fid 9, .trap { cause := .regionAbort, info := 9 })
            else acc.1.stage x fid ea len l (some (op, f.t1)) (operand fid).toNat
          else if full.contains fid then (acc.1, .retry)
          else if ret then ends acc.1 fid ea (l.apt == 4)
          else (acc.1, x.watched acc.1 ea len true true .done)
        | .mem (.log cause) =>
          match acc.1.logWrite x.core t fid ea x.pc (.red op f.t1 tar len (operand fid)) cause rel with
          | some s => (s, x.watched s ea len true true .done)
          | none => (acc.1, .retry)
        | .mem a => (acc.1, a.res)
      (r.1, acc.2 ++ [(fid, r.2)])) (s, [])

def execAtom (op : AtomOp) (f : FM) (s : State) : Host.Outcome State Fault Refusal :=
  issue (.atom op f) f.h (atomCheck op f.t1) (atomBody op f true none none) s

def execAtomAcq (op : AtomOp) (f : FM) (s : State) : Host.Outcome State Fault Refusal :=
  issue (.atomAcq op f) f.h (atomCheck op f.t1) (atomBody op f true none (some f.sc)) s

def execAtomRel (op : AtomOp) (f : FM) (s : State) : Host.Outcome State Fault Refusal :=
  issue (.atomRel op f) f.h (atomCheck op f.t1) (atomBody op f true (some f.sc) none) s

def execAtomAr (op : AtomOp) (f : FM) (s : State) : Host.Outcome State Fault Refusal :=
  issue (.atomAr op f) f.h (atomCheck op f.t1) (atomBody op f true (some f.sc) (some f.sc)) s

def execRed (op : AtomOp) (f : FM) (s : State) : Host.Outcome State Fault Refusal :=
  issue (.red op f) f.h (atomCheck op f.t1) (atomBody op f false none none) s

def execRedRel (op : AtomOp) (f : FM) (s : State) : Host.Outcome State Fault Refusal :=
  issue (.redRel op f) f.h (atomCheck op f.t1) (atomBody op f false (some f.sc) none) s

/-- An atomic waits for older accesses of its fibres to its bytes, for the SO order, and for older groups of its own instruction that
overlap it (R221, R330, R331). -/
def State.atomHeld (s : State) (c : Nat) (a : Atomic) : Bool :=
  let k := s.core c
  let pa := a.leaf.phys a.va
  let mask := (2 ^ a.len - 1) * 2 ^ (a.va % 32)
  (a.lanes.any fun l =>
    (k.olderLoads a.slot l.1 a.id).any (·.overlaps pa mask) || (k.olderStores a.slot l.1 a.id).any (·.overlaps pa mask) ||
    s.soHeld c a.slot l.1 a.id a.leaf) || s.lineStaged pa ||
  k.atomics.any fun b => b.batch == a.batch && decide (b.id < a.id) && sectorOf (b.leaf.phys b.va) == sectorOf pa &&
    (2 ^ b.len - 1) * 2 ^ (b.va % 32) &&& mask != 0

/-- The fetched values of a group reach its fibres; it is acknowledged, an acquire takes effect, and fibres that waited go on (R213, R224). -/
def State.atomAnswer (s : State) (c : Nat) (a : Atomic) (vals : List Nat) : State :=
  let s := match a.acq with | some sc => s.acquire c sc | none => s
  let s := (a.lanes.zip vals).foldl (fun s l =>
    (s.modFibre c a.slot l.1.1 fun f => { f with unack := f.unack - 1 }).resultOf c a.slot l.1.1 a.id a.uni (BitVec.ofNat 64 l.2)) s
  s.performed c a.slot a.id (a.lanes.map (·.1))

/-- R224. -/
def execAtomicResponse (s : State) : Host.Outcome State Fault Refusal :=
  let c := s.par.core
  match (s.core c).atomics.find? (·.id == s.par.id) with
  | none => .next s
  | some a =>
    if s.atomHeld c a then .next (s.spawn .atomicResponse s.par)
    else
      let r := s.atomAtHome c a.op a.t1 a.tar (a.leaf.phys a.va) a.len (a.lanes.map fun l => l.2)
      let s := r.2.modCore c fun k => { k with atomics := k.atomics.filter (·.id != a.id) }
      .next (s.atomAnswer c a r.1)

end Sys2Proof.Machine
end

