-- ==== Sys2Proof/Machine/EngineOps.lean ====
section
/-!
DEFINITION. What the engines share: tensor descriptors (R201-R204), the bits of scratchpad elements, the engine queues and their fences
(R199, R227, R246), the holds on an engine's scratchpad accesses (R186, R228), and an engine's first NaN (R249).
-/
namespace Sys2Proof.Machine

open Sys2Proof

-- descriptors

/-- The fields of a descriptor (R202). -/
def Desc.of (b : BitVec 512) : Desc :=
  let f (off n : Nat) : Nat := bits b.toNat (8 * off) (8 * n)
  let fl := f 0x35 3
  { base := f 0 8
    size := (List.range 5).map fun i => f (8 + 4 * i) 4
    stride := 0 :: (List.range 4).map fun i => f (0x1C + 5 * i) 5
    box := (List.range 5).map fun i => f (0x30 + i) 1
    etar := bits fl 0 6
    star := bits fl 6 6
    blk := bits fl 12 2
    rank := bits fl 14 3
    wld := fl.testBit 17
    spc := fl.testBit 18
    rsv := bits fl 19 5
    fill := f 0x38 4
    sbase := f 0x3C 4 }

/-- Entry `td`n of a team (R201). -/
def Team.desc (t : Team) (n : Nat) : Desc := Desc.of (sparseGet 0 t.tdesc n)

def Desc.sz (d : Desc) (i : Nat) : Nat := nth 1 d.size i
def Desc.bx (d : Desc) (i : Nat) : Nat := nth 0 d.box i

/-- The block length of a descriptor's block code. -/
def Desc.blkLen (d : Desc) : Nat := if d.blk = 1 then 16 else 32

/-- The byte and bit of an element (R203, R75). -/
def Desc.elemPos (d : Desc) (w : Nat) (idx : List Nat) : Nat × Nat :=
  let row := d.base + (((idx.zip d.stride).drop 1).map fun p => p.1 * p.2).sum
  (row + w * nth 0 idx 0 / 8, w * nth 0 idx 0 % 8)

/-- The byte of an element's scale code (R203). -/
def Desc.scalePos (d : Desc) (idx : List Nat) : Nat :=
  let i (n : Nat) : Nat := nth 0 idx n
  d.sbase + i 0 / d.blkLen + (d.sz 0 + d.blkLen - 1) / d.blkLen * (i 1 + d.sz 1 * (i 2 + d.sz 2 * (i 3 + d.sz 3 * i 4)))

/-- The block code that an element entry asks for (R84). -/
def Fmt.blkCode (e : Fmt) : Nat := if e.bsk = 0 then 0 else if e.bsk = 3 then 1 else 2

/-- A descriptor that an instruction may name (R204). -/
def Desc.legal (t : Team) (d : Desc) : Bool :=
  let e := Fmt.of (t.tar d.etar)
  d.rsv == 0 && decide (d.base < 2 ^ 56) && (!d.spc || decide (d.base < 2 ^ 20)) && decide (1 ≤ d.rank) && decide (d.rank ≤ 5) &&
  ((List.range 5).all fun i => if i < d.rank then d.sz i != 0 else d.sz i == 1 && nth 0 d.stride i == 0 && d.bx i == 0) &&
  !(decide (e.w < 8) && decide (1 < d.rank) && (d.sz 0 * e.w % 8 != 0 || (d.bx 0 + 1) * e.w % 8 != 0)) &&
  d.blk == e.blkCode &&
  (d.blk == 0 || (decide (t.spadBase ≤ d.sbase) &&
    decide (d.scalePos [d.sz 0 - 1, d.sz 1 - 1, d.sz 2 - 1, d.sz 3 - 1, d.sz 4 - 1] < t.spadBase + t.spadSize))) &&
  !(d.wld && !t.world) && decide (d.fill < 2 ^ e.w)

/-- A `tdset` of one of the entries has not landed (R247). -/
def State.tdHeld (s : State) (c slot : Nat) (ns : List Nat) : Bool :=
  s.spOps.any fun o => o.core == c && o.slot == slot && (match o.kind with | .desc n => ns.contains n | _ => false)

/-- The entry that decodes the scale codes of an element entry (R84). -/
def scaleReq (t : Team) (d : Desc) : List (Nat × (Fmt → Bool)) :=
  let e := Fmt.of (t.tar d.etar)
  let want := t.tar (if e.bsk = 2 then 14 else 13)
  if e.bsk = 0 then [] else [(d.star, fun _ => (t.tar d.star).extractLsb' 0 38 == want.extractLsb' 0 38)]

/-- Check 9 of an engine instruction (R73, R204): tariff entries with what each must be, then descriptors. -/
def engineCheck (tds : List Nat) (tars : Team → List (Nat × (Fmt → Bool))) (descs : Team → List (Nat × (Desc → Bool))) (x : Ctx)
    (s : State) : List (Nat × Trap) :=
  match x.team s with
  | none => []
  | some t =>
    if s.tdHeld x.core x.slot tds then []
    else match (tars t).find? fun r => let e := Fmt.of (t.tar r.1); !(e.legal && r.2 e) with
      | some r => x.act.map fun fid => (fid, { cause := .tariffIllegal, info := BitVec.ofNat 64 r.1 })
      | none => match (descs t).find? fun r => let d := t.desc r.1; !(d.legal t && r.2 d) with
        | some r => x.act.map fun fid => (fid, { cause := .descriptorIllegal, info := BitVec.ofNat 64 r.1 })
        | none => []

-- elements in scratchpad

/-- A number with `n` bits from bit `lo` replaced. -/
def putBits (v lo n x : Nat) : Nat := v - bits v lo n * 2 ^ lo + x % 2 ^ n * 2 ^ lo

/-- A byte as an engine reads it. -/
def State.engByte (s : State) (c a : Nat) : Nat :=
  if a < spadBytes (s.core c).l1kib then (Memory.get (s.core c).spad a).toNat else (Config.outsideSpad a).toNat

/-- `w` bits from bit `bit` of byte `a` of a core's scratchpad. -/
def State.engBits (s : State) (c a bit w : Nat) : Nat :=
  bits (leNat ((List.range ((bit + w + 7) / 8)).map fun i => BitVec.ofNat 8 (s.engByte c (a + i)))) bit w

/-- The same written; a byte outside the scratchpad takes none. -/
def State.putEngBits (s : State) (c a bit w v : Nat) : State :=
  let n := (bit + w + 7) / 8
  if a + n ≤ spadBytes (s.core c).l1kib then s.spadWrite c a n (putBits (s.spadRead c a n) bit w v) else s

/-- An engine's access to bytes of a core is held: by an older range entry of another command (R186), where an engine's access counts as
issued with its command (notes/assumptions/64.md); or by an access to a word of them that a fibre of the core issued before, or that
arrived before from another core (R187, R228). -/
def State.engHeld (s : State) (c before cmd lo hi : Nat) : Bool :=
  let k := s.core c
  let meets (r : SpReq) : Bool := decide (r.arr < before) && decide (r.word < hi) && decide (lo < r.word + 4)
  (k.ranges.any fun r => decide (r.id < before) && r.cmd != cmd && decide (r.lo < hi) && decide (lo < r.hi)) ||
  k.bankq.any meets || (k.portq.any fun e => e.2.any meets) ||
  s.spOps.any fun o => o.core == c && decide (o.id < before) && o.toArrive.contains c && o.lanes.any fun l =>
    !l.refused && spCore l.off == c && decide (spOff l.off < hi) && decide (lo < spOff l.off + o.kind.len)

-- engine queues

/-- A command as it enters a queue. -/
def EngCmd.fresh (id slot fid : Nat) (pc : BitVec 56) (kind : EngKind) : EngCmd where
  id := id
  slot := slot
  fid := fid
  pc := pc
  kind := kind
  prog := 0
  latch := none
  readAll := false
  moved := false
  acted := false
  stopped := false
  asked := false
  tile := []
  sectors := []
  targets := []
  delivered := []

/-- The queue of a bit of a fence's mask (R246). -/
def Core.eq (k : Core) (q : Nat) : List EngCmd := if q = 0 then k.eqmx else if q = 1 then k.eqcp else k.eqgx

def Core.modEq (k : Core) (q : Nat) (f : List EngCmd → List EngCmd) : Core :=
  if q = 0 then { k with eqmx := f k.eqmx } else if q = 1 then { k with eqcp := f k.eqcp } else { k with eqgx := f k.eqgx }

/-- A stopped command of a team under pre-emption leaves its queue: it stands as its side-log entry, and what was behind it may begin (R200,
R245). -/
def Core.leaves (k : Core) (e : EngCmd) : Bool := e.stopped && (k.team? e.slot).any (·.preempt.isSome)

/-- A queue has a free entry (R199); a copy that only awaits its completion action holds none. -/
def Core.eqRoom (k : Core) (q : Nat) : Bool :=
  decide (((k.eq q).filter fun e => !e.moved && !k.leaves e).length < if q = 1 then 32 else 16)

/-- The command in its queue. -/
def Core.cmd? (k : Core) (q id : Nat) : Option EngCmd := (k.eq q).find? (·.id == id)

/-- A change of a command wherever it stands. -/
def State.modCmd (s : State) (c id : Nat) (f : EngCmd → EngCmd) : State :=
  s.modCore c fun k => { k with eqmx := modWhere (·.id == id) f k.eqmx, eqcp := modWhere (·.id == id) f k.eqcp,
                                eqgx := modWhere (·.id == id) f k.eqgx }

/-- A command of a queue may begin: every one before it has read all its operands (R199), and none of them is a fence (R246). -/
def Core.mayBegin (k : Core) (q id : Nat) : Bool := ((k.eq q).takeWhile (·.id != id)).all fun e => e.readAll || e.moved || k.leaves e

def EngKind.isFence : EngKind → Bool
  | .fence _ => true
  | _ => false

/-- A fence's point is not reached: a command of its team that entered a named queue before it has not completed (R246). -/
def Core.fenceOpen (k : Core) (e : EngCmd) : Bool :=
  match e.kind with
  | .fence m => (List.range 3).any fun q => m.getLsbD q && (k.eq q).any fun x =>
      x.slot == e.slot && decide (x.id < e.id) && !x.moved && !k.leaves x && !x.kind.isFence
  | _ => false

/-- The tile of a matrix command. -/
def EngKind.acc? : EngKind → Option Nat
  | .mxzero a | .mxloop a .. | .mxdrain a .. => some a
  | _ => none

/-- What an `mxwait` waits for has not come about (R237). -/
def Core.matrixOpen (k : Core) (slot id : Nat) (acc : Option Nat) (rd : Bool) : Bool :=
  k.eqmx.any fun e => e.slot == slot && decide (e.id < id) && e.kind.acc?.isSome && (acc.isNone || e.kind.acc? == acc) &&
    !(if rd then e.readAll || e.moved else e.moved)

/-- Fences whose point is reached leave their queues, and fibres go on that waited for them or in `mxwait` (R237, R246). -/
def State.engineWake (s : State) (c : Nat) : State :=
  let k := s.core c
  let go (e : EngCmd) : Bool := !(e.kind.isFence && !k.fenceOpen e)
  let s := s.setCore c { k with eqmx := k.eqmx.filter go, eqcp := k.eqcp.filter go, eqgx := k.eqgx.filter go }
  let k := s.core c
  let waiting (slot : Nat) (f : Fibre) : Bool := match f.wait with
    | some (.fence id) => !((List.range 3).any fun q => (k.eq q).any (·.id == id))
    | some (.matrix id acc rd) => !k.matrixOpen slot id acc rd
    | _ => false
  k.teams.foldl (fun s t =>
    match (t.fibres.filter (waiting t.slot)).map (·.fid) with
    | [] => s
    | fids => s.complete c t.slot fids (s.now c + 1)) s

/-- A command leaves its queues. -/
def State.finishCmd (s : State) (c id : Nat) : State := (s.dropCmd id).engineWake c

/-- Every active fibre waits at issue, in a wait that other parties may prolong. -/
def Ctx.wait (x : Ctx) : List (Nat × LaneRes) := x.act.map (·, .waitAgain)

/-- Every active fibre takes one cause. -/
def Ctx.trapAll (x : Ctx) (t : Trap) : List (Nat × LaneRes) := x.act.map (·, .trap t)

-- the first NaN of an engine (R249)

def State.engineNan (s : State) (c : Nat) (e : EngCmd) (tidx unit elem kind : Nat) (ops : BitVec 64) : State :=
  match s.team? c e.slot with
  | none => s
  | some t =>
    if t.trapsNan then
      (s.nanFirst c t (nanRecord e.pc 0 e.fid tidx unit elem kind ops)).modFibre c e.slot e.fid fun f =>
        { f with pendTrap := f.pendTrap <|> some { cause := .nanFirst } }
    else s

-- engine fences (R246)

def fenceMask (f : FR) : BitVec 3 := match f.a with | .imm i => i.setWidth 3 | _ => 0

def fenceBody (f : FR) (w : Bool) (x : Ctx) (s : State) : State × List (Nat × LaneRes) :=
  let m := fenceMask f
  let qs := (List.range 3).filter m.getLsbD
  match x.act with
  | [] => (s, [])
  | fid :: _ =>
    if !(qs.all (s.core x.core).eqRoom) then (s, x.wait)
    else
      let (id, s) := s.fresh
      let e := EngCmd.fresh id x.slot fid x.pc (.fence m)
      if !(s.core x.core).fenceOpen e then (s, [])
      else
        let s := s.modCore x.core fun k => qs.foldl (fun k q => k.modEq q (· ++ [e])) k
        if w then
          (s.modTeam x.core x.slot fun t =>
            { t with fibres := modWhere (fun g => x.act.contains g.fid) (fun g => { g with wait := some (.fence id) }) t.fibres },
            x.act.map (·, .block))
        else (s, [])

def execEqfence (f : FR) (s : State) : Host.Outcome State Fault Refusal := issue (.eqfence f) f.h noCheck (fenceBody f false) s
def execEqfenceW (f : FR) (s : State) : Host.Outcome State Fault Refusal := issue (.eqfenceW f) f.h noCheck (fenceBody f true) s

-- descriptor and tariff instructions (R247, R248)

/-- The address of `tdset` and `tdget`, as judged. -/
def judgeDesc (t : Team) (a : Nat) (wr : Bool) : Option Trap :=
  if a % 64 ≠ 0 then some (memTrap .misaligned a wr)
  else if t.spadBase ≤ a && a + 64 ≤ t.spadBase + t.spadSize then none else some (memTrap .permitDenied a wr)

/-- `tdset` and `tdget` (R247); a lane that an acquire or its counter holds back waits by itself. -/
def tdBody (f : FE) (get : Bool) (x : Ctx) (s : State) : State × List (Nat × LaneRes) :=
  match x.team s with
  | none => (s, [])
  | some t =>
    let n := f.tda.toNat
    let js := x.act.map fun fid => (fid, (x.rd s fid false f.a).toNat % 2 ^ 32)
    let ok := js.filter fun j => (judgeDesc t j.2 get).isNone
    let lane (o : Nat) (d : BitVec 64) (j : Nat × Nat) : SpLane := ⟨j.1, spGlobal x.core (j.2 + o), d, 0, 0, none⟩
    let stops (fid : Nat) : Bool := s.acqOpen x.core x.slot fid ||
      (get && decide (65527 ≤ (match s.fibre? x.core x.slot fid with | some g => g.unack | none => 0)))
    let go := ok.filter fun j => !stops j.1
    let rs := go.flatMap fun j => (wordsOf j.2 64).map fun w => (⟨s.uid, w, none, s.uid⟩ : SpReq)
    if s.tdHeld x.core x.slot [n] || !(s.core x.core).bankRoom rs || !(get || s.spadRoom x (.desc n) false (go.map (lane 0 0))) then
      (s, js.map fun j => (j.1, match judgeDesc t j.2 get with | none => .retry | some tr => .trap tr))
    else
      let v := sparseGet 0 t.tdesc n
      let s := if go.isEmpty then s
        else if get then (List.range 8).foldl (fun s i =>
          s.beginSpad x t (.store 9) false (fun _ => false) none none none (go.map (lane (8 * i) (v.extractLsb' (64 * i) 64)))) s
        else s.beginSpad x t (.desc n) false (fun _ => false) none none none (go.map (lane 0 0))
      (s, js.map fun j => (j.1, match judgeDesc t j.2 get with
        | none => if stops j.1 then .retry else .done
        | some tr => .trap tr))

def execTdset (f : FE) (s : State) : Host.Outcome State Fault Refusal := issue (.tdset f) f.h noCheck (tdBody f false) s
def execTdget (f : FE) (s : State) : Host.Outcome State Fault Refusal := issue (.tdget f) f.h noCheck (tdBody f true) s

/-- The number of an immediate operand. -/
def immNat : Operand → Nat
  | .imm i => i.toNat
  | _ => 0

/-- R90, R248: in force for every instruction that issues later. -/
def execTset (f : FR) (s : State) : Host.Outcome State Fault Refusal :=
  issue (.tset f) f.h noCheck (fun x s =>
    match x.act with
    | [] => (s, [])
    | _ =>
      let v := x.rdU s true f.b
      (s.modTeam x.core x.slot fun t => { t with tariff := setAt t.tariff (immNat f.a - 16) v }, [])) s

def execTget (f : FR) (s : State) : Host.Outcome State Fault Refusal :=
  issue (.tget f) f.h noCheck (fun x s =>
    match x.team s with
    | none => (s, [])
    | some t => s.deliverAll x f.d true (t.tar (immNat f.a))) s

/-- `CPFILL` as read, and cleared where `clr` says so (R248). -/
def fillBody (f : FR) (clr : Bool) (x : Ctx) (s : State) : State × List (Nat × LaneRes) :=
  match x.team s, x.act with
  | none, _ | _, [] => (s, [])
  | some t, _ =>
    let s := if clr then s.modTeam x.core x.slot fun t => { t with cpfill := 0 } else s
    s.deliverAll x f.d false (BitVec.ofNat 64 t.cpfill)

def execTgetFill (f : FR) (s : State) : Host.Outcome State Fault Refusal := issue (.tgetFill f) f.h noCheck (fillBody f false) s
def execTgetFillc (f : FR) (s : State) : Host.Outcome State Fault Refusal := issue (.tgetFillc f) f.h noCheck (fillBody f true) s

end Sys2Proof.Machine
end

