-- ==== Sys2Proof/Machine/Barriers.lean ====
section
/-!
DEFINITION. Team barriers (R270-R276), cluster, die and package barriers (R315-R317, R369, R438-R440, R465), and the gangs that merge or
lose their entry (R108, R111).
-/
namespace Sys2Proof.Machine

open Sys2Proof

-- team barriers

/-- The barrier number of an operand. -/
def barNum : Operand → Nat
  | .b n => n.toNat
  | _ => 0

/-- An arrival by a fibre is a release: it waits by R190 first (R274). -/
def arriveLane (n : Nat) (bytes : Ctx → State → Nat → Nat) (x : Ctx) (fid : Nat) (s : State) : State × LaneRes :=
  if s.relReady x.core x.slot fid then (s.arrive x.core x.slot n (bytes x s fid) (some fid), .done)
  else (s.releaseWork x.core x.slot fid, .waitAgain)

def execBarv (f : FR) (s : State) : Host.Outcome State Fault Refusal :=
  issue (.barv f) f.h noCheck (fun x => laneFold x (arriveLane (barNum f.a) fun _ _ _ => 0)) s

def execBarvB (f : FR) (s : State) : Host.Outcome State Fault Refusal :=
  issue (.barvB f) f.h noCheck (fun x => laneFold x (arriveLane (barNum f.a) fun x s fid => (x.rd s fid false f.b).toNat % 2 ^ 32)) s

/-- The phase bit that a fibre's waits see. -/
def State.phaseBit (s : State) (c slot n : Nat) : Bool :=
  match s.team? c slot with
  | some t => (nth ⟨0, 0, 0, 0, 0, 0, false⟩ t.bars n).ph.getLsbD 0
  | none => false

/-- `Wait` of R272 in a fibre: it has a completed phase before it, or it waits for one. -/
def waitLane (n : Nat) (x : Ctx) (fid : Nat) (s : State) : State × LaneRes :=
  let bit := 1#16 <<< n
  let ph := s.phaseBit x.core x.slot n
  match s.fibre? x.core x.slot fid with
  | none => (s, .done)
  | some g =>
    if g.bpar.getLsbD n != ph then
      (s.modFibre x.core x.slot fid fun g =>
        { g with bwait := false, bpar := if ph then g.bpar ||| bit else g.bpar &&& ~~~bit }, .done)
    else (s.modFibre x.core x.slot fid fun g => { g with wait := some (.barrier n) }, .block)

/-- `barw` leaves `BWAIT` as it is. -/
def barwLane (n : Nat) (x : Ctx) (fid : Nat) (s : State) : State × LaneRes :=
  let keep := match s.fibre? x.core x.slot fid with | some g => g.bwait | none => false
  let r := waitLane n x fid s
  (r.1.modFibre x.core x.slot fid fun g => { g with bwait := keep }, r.2)

def execBarw (f : FR) (s : State) : Host.Outcome State Fault Refusal :=
  issue (.barw f) f.h noCheck (fun x => laneFold x (barwLane (barNum f.a))) s

/-- `barvw` in a fibre (R275): its arrival, once, then its wait. -/
def barvwLane (n : Nat) (x : Ctx) (fid : Nat) (s : State) : State × LaneRes :=
  match s.fibre? x.core x.slot fid with
  | none => (s, .done)
  | some g =>
    if g.bwait then waitLane n x fid s
    else if s.relReady x.core x.slot fid then
      waitLane n x fid ((s.arrive x.core x.slot n 0 (some fid)).modFibre x.core x.slot fid fun g => { g with bwait := true })
    else (s.releaseWork x.core x.slot fid, .waitAgain)

def execBarvw (f : FR) (s : State) : Host.Outcome State Fault Refusal :=
  issue (.barvw f) f.h noCheck (fun x => laneFold x (barvwLane (barNum f.a))) s

/-- A member leaves a barrier (R275). -/
def State.leaveBarrier (s : State) (c slot n fid : Nat) : State :=
  match s.fibre? c slot fid with
  | some g =>
    if g.bmem.getLsbD n then
      (s.memberEnds c slot fid n false).modFibre c slot fid fun g => { g with bmem := g.bmem &&& ~~~(1#16 <<< n) }
    else s
  | none => s

/-- `barx` (R275): the lanes arrive, and those that have arrived leave; the arrivals of an instruction come before its member ends
(R273). -/
def barxBody (n : Nat) (x : Ctx) (s : State) : State × List (Nat × LaneRes) :=
  let r := laneFold x (arriveLane n fun _ _ _ => 0) s
  ((r.2.filter fun p => match p.2 with | .done => true | _ => false).foldl (fun s p => s.leaveBarrier x.core x.slot n p.1) r.1, r.2)

def execBarx (f : FR) (s : State) : Host.Outcome State Fault Refusal :=
  issue (.barx f) f.h noCheck (barxBody (barNum f.a)) s

/-- `bars` (R276): a barrier's word as read, and the barrier as it is left. -/
def barsBody (f : FR) (word : Barrier → Nat → Nat) (after : Barrier → Barrier) (x : Ctx) (s : State) : State × List (Nat × LaneRes) :=
  match x.team s, x.act with
  | none, _ | _, [] => (s, [])
  | some t, _ =>
    let n := barNum f.a
    let v := word (nth ⟨0, 0, 0, 0, 0, 0, false⟩ t.bars n) t.slot
    (s.modTeam x.core x.slot fun t => { t with bars := modAt t.bars n after }).deliverAll x f.d true (BitVec.ofNat 64 v)

def execBars (f : FR) (s : State) : Host.Outcome State Fault Refusal :=
  issue (.bars f) f.h noCheck (barsBody f Barrier.status id) s

def execBarsClr (f : FR) (s : State) : Host.Outcome State Fault Refusal :=
  issue (.barsClr f) f.h noCheck (barsBody f Barrier.status fun b => { b with loss := false }) s

def execBarsB (f : FR) (s : State) : Host.Outcome State Fault Refusal :=
  issue (.barsB f) f.h noCheck (barsBody f (fun b _ => b.lbyt * 2 ^ 32 + b.byt) id) s

-- cluster, die and package barriers

def State.pkgBar (s : State) (n : Nat) : PkgBar := assocGet PkgBar.reset s.forum.pbars n

def State.setPkgBar (s : State) (n : Nat) (b : PkgBar) : State := s.modForum fun g => { g with pbars := assocPut g.pbars n b }

/-- The fields of a barrier of a level that an instruction reads: `PH`, the count of the released, `LOSS`, `OWN`. -/
structure BarView where
  ph : BitVec 16
  vis : BitVec 16
  loss : Bool
  own : Option Nat

/-- Barrier `n` of level 0, 1 or 2 (cluster, die, package) as a core sees it. -/
def State.barView (s : State) (level c n : Nat) : BarView :=
  if level = 0 then let b := s.clusBar (clusOf c) n; ⟨b.ph, b.vis, b.loss, b.own⟩
  else if level = 1 then let b := s.dieBar (dieOf c) n; ⟨b.ph, b.vis, b.loss, b.own⟩
  else let b := s.pkgBar n; ⟨b.ph, b.vis, b.loss, b.own⟩

/-- *st* of R317. -/
def BarView.st (b : BarView) : BitVec 64 := BitVec.ofNat 64 (b.ph.toNat + if b.loss then 2 ^ 16 else 0)

/-- Check 10 of `cbar`, `dbar` and `pbar` (R317, R369, R440). -/
def State.barRefuses (s : State) (level c : Nat) (t : Team) (n : Nat) (arrives : Bool) : Bool :=
  decide ((if level = 0 then 63 else 255) < n) || (s.barView level c n).own != some t.ctx ||
  (arrives && level != 2 && !(if level = 0 then (s.teamBarriers c t).1 else (s.teamBarriers c t).2).contains n)

/-- The scope of a completed wait (R317, R369, R440, R465). -/
def State.barScope (s : State) (level n : Nat) : BitVec 3 :=
  if level = 0 then 3 else if level = 1 then 4 else if (s.pkgBar n).parent.isSome then 6 else 5

/-- The arrival of a gang (R317): a release of every active fibre, then the report on its way. -/
def reportBody (level n : Nat) (dst : Operand) (aw : Bool) (x : Ctx) (s : State) : State × List (Nat × LaneRes) :=
  if x.act.all (s.relReady x.core x.slot) then
    let (id, s) := s.fresh
    let dom := if level = 0 then clusOf x.core else if level = 1 then dieOf x.core else 0
    let r : Report := ⟨id, level, dom, n, x.core, x.slot, x.act, dst, aw, false⟩
    let s := x.act.foldl (fun s fid => s.modFibre x.core x.slot fid fun f => { f with wait := some (.report id) }) s
    let ev : Instr := if level = 0 then .clusterBarrierReport else if level = 1 then .dieBarrierReport else .packageBarrierArrival
    ({ s with reports := s.reports ++ [r] }.spawn ev { id := id }, x.act.map (·, .block))
  else (x.act.foldl (fun s fid => if s.relReady x.core x.slot fid then s else s.releaseWork x.core x.slot fid) s, x.wait)

/-- A wait of a gang past count `b` (R317): the waiters see the count that has been released. -/
def barWaitBody (level n : Nat) (b : BitVec 16) (dst : Operand) (x : Ctx) (s : State) : State × List (Nat × LaneRes) :=
  let v := s.barView level x.core n
  let d := (v.vis - b).toNat
  if 1 ≤ d && d ≤ 0x7FFF then (s.acquire x.core (s.barScope level n)).deliverAll x dst false v.st
  else (s, x.wait)

/-- Which of the three forms (R317). -/
inductive BarForm where
  | a | w | aw
  deriving DecidableEq, Repr

/-- `cbar`, `dbar` and `pbar`, once for the gang. -/
def barBody (level : Nat) (form : BarForm) (f : FR) (x : Ctx) (s : State) : State × List (Nat × LaneRes) :=
  match x.act, x.team s with
  | [], _ => (s, [])
  | _, none => (s, [])
  | _, some t =>
    let n := (x.rdU s false f.a).toNat % 2 ^ 32
    let d := x.rdU s false f.d
    let arrives := form == .a || (form == .aw && !d.getLsbD 31)
    if s.barRefuses level x.core t n arrives then (s, x.trapAll { cause := .permitDenied })
    else match form with
      | .a => reportBody level n f.d false x s
      | .w => barWaitBody level n ((x.rdU s false f.b).extractLsb' 0 16) f.d x s
      | .aw => if arrives then reportBody level n f.d true x s else barWaitBody level n (d.extractLsb' 0 16) f.d x s

def execCbarA (f : FR) (s : State) : Host.Outcome State Fault Refusal := issue (.cbarA f) f.h noCheck (barBody 0 .a f) s
def execCbarW (f : FR) (s : State) : Host.Outcome State Fault Refusal := issue (.cbarW f) f.h noCheck (barBody 0 .w f) s
def execCbarAw (f : FR) (s : State) : Host.Outcome State Fault Refusal := issue (.cbarAw f) f.h noCheck (barBody 0 .aw f) s
def execDbarA (f : FR) (s : State) : Host.Outcome State Fault Refusal := issue (.dbarA f) f.h noCheck (barBody 1 .a f) s
def execDbarW (f : FR) (s : State) : Host.Outcome State Fault Refusal := issue (.dbarW f) f.h noCheck (barBody 1 .w f) s
def execDbarAw (f : FR) (s : State) : Host.Outcome State Fault Refusal := issue (.dbarAw f) f.h noCheck (barBody 1 .aw f) s
def execPbarA (f : FR) (s : State) : Host.Outcome State Fault Refusal := issue (.pbarA f) f.h noCheck (barBody 2 .a f) s
def execPbarW (f : FR) (s : State) : Host.Outcome State Fault Refusal := issue (.pbarW f) f.h noCheck (barBody 2 .w f) s
def execPbarAw (f : FR) (s : State) : Host.Outcome State Fault Refusal := issue (.pbarAw f) f.h noCheck (barBody 2 .aw f) s

/-- The answer of a report to the fibres that wait for it: D, and for the combined form D with bit 31 in the step of the arrival, after
which they wait (R317). An earlier write of D that has not landed counts as landed before it (R56). -/
def State.answerReport (s : State) (r : Report) (st : BitVec 64) : State :=
  let waiting := r.fids.filter fun fid => (s.fibre? r.core r.slot fid).bind (·.wait) == some (.report r.id)
  if waiting.isEmpty then s
  else if r.aw then
    let v : BitVec 32 := 0x80000000#32 ||| st.extractLsb' 0 32
    let s := match r.dst with
      | .k i => s.modTeam r.core r.slot fun t =>
          match waiting.head?.bind t.fibre? with
          | some g =>
            { t with upend := t.upend.filter fun w => !(w.role == g.role && w.k == i.toNat && w.fids.any waiting.contains) }.setUreg g.role i.toNat v
          | none => t
      | _ => s
    let s := s.modTeam r.core r.slot fun t =>
      { t with fibres := modWhere (fun g => waiting.contains g.fid) (fun g =>
          { (match r.dst with
              | .v i => { g with pend := g.pend.filter fun w => w.loc != Loc.v i.toNat }.setReg i.toNat v
              | _ => g) with wait := none }) t.fibres }
    s.formGangs r.core r.slot waiting (s.now r.core + 1)
  else (s.answer r.core r.slot waiting r.dst false st).complete r.core r.slot waiting (s.now r.core + 1)

def State.takeReport (s : State) (id : Nat) : State := { s with reports := s.reports.filter (·.id != id) }

/-- R316: a report reaches the root router of its cluster. -/
def execClusterBarrierReport (s : State) : Host.Outcome State Fault Refusal :=
  match s.reports.find? fun r => r.id == s.par.id && r.level == 0 with
  | none => .next s
  | some r =>
    let s := s.takeReport r.id
    let st := (s.barView 0 r.core r.num).st
    let s := s.clusBarOp r.dom r.num fun b =>
      if b.msk.contains r.core && !b.rpt.contains r.core then { b with rpt := b.rpt ++ [r.core] } else b
    .next (s.answerReport r st)

/-- R316: the release is seen by the waiters of the cluster. -/
def execClusterBarrierRelease (s : State) : Host.Outcome State Fault Refusal :=
  let b := s.clusBar s.par.clus s.par.n
  .next (s.setClusBar s.par.clus s.par.n { b with vis := b.ph })

/-- R369. -/
def execDieBarrierReport (s : State) : Host.Outcome State Fault Refusal :=
  match s.reports.find? fun r => r.id == s.par.id && r.level == 1 with
  | none => .next s
  | some r =>
    let s := s.takeReport r.id
    let st := (s.barView 1 r.core r.num).st
    let s := match s.team? r.core r.slot with
      | some t =>
        let me := t.member
        s.dieBarOp r.dom r.num fun b => if b.memb.contains me && !b.rep.contains me then { b with rep := b.rep ++ [me] } else b
      | none => s
    .next (s.answerReport r st)

/-- R369: the waiters of the die see the release. -/
def execDieBarrierRelease (s : State) : Host.Outcome State Fault Refusal :=
  let b := s.dieBar s.par.die s.par.n
  .next (s.setDieBar s.par.die s.par.n { b with vis := b.ph })

-- package barriers

/-- A message to another package, recorded; one to this package is the event given. -/
def State.tell (s : State) (pkg : Nat) (m : SentMsg) (own : State → State) : State :=
  if pkg = s.forum.pkg.toNat then own s else s.modForum fun g => { g with sent := g.sent ++ [(pkg, m)] }

/-- A package barrier's phase completes (R438, R439): the waiters are released, and the children that forwarded in it (R465). -/
def State.pkgComplete (s : State) (n : Nat) : State :=
  let b := s.pkgBar n
  let s := s.setPkgBar n { b with ph := b.ph + 1, cnt := 0, exp := b.nextExp.getD b.exp, nextExp := none, forwarded := false, children := [] }
  let s := b.children.foldl (fun s k =>
    s.tell k.1 (.barrierRelease k.2 b.loss) (·.spawn .fabricBarrierRelease { n := k.2, flag := b.loss })) s
  s.spawn .packageBarrierRelease { n := n }

/-- One arrival (R439); a linked barrier that reaches `EXP` forwards it (R465). -/
def State.pkgArrive (s : State) (n : Nat) (child : Option (Nat × Nat)) (loss : Bool) : State :=
  let b := s.pkgBar n
  let b := { b with cnt := b.cnt + 1, loss := b.loss || loss, children := b.children ++ child.toList }
  let s := s.setPkgBar n b
  if b.cnt = b.exp then
    if b.parent.isSome then s.spawn .fabricBarrierForward { n := n } else s.pkgComplete n
  else s

/-- R439: the arrival of a gang of the package, or that of a linked barrier (R465): one of this package, or of package `src` as a packet
of `KIND` 13 (`len` 13). -/
def execPackageBarrierArrival (s : State) : Host.Outcome State Fault Refusal :=
  match s.reports.find? fun r => r.id == s.par.id && r.level == 2 with
  | some r =>
    let s := s.takeReport r.id
    let st := (s.barView 2 r.core r.num).st
    .next ((s.pkgArrive r.num none false).answerReport r st)
  | none =>
    if s.par.len = 13 && (s.pkgBar s.par.n).own.isSome then .next (s.pkgArrive s.par.n (some (s.par.src, s.par.k)) s.par.flag)
    else .next s

/-- R439: the waiters are released. -/
def execPackageBarrierRelease (s : State) : Host.Outcome State Fault Refusal :=
  let b := s.pkgBar s.par.n
  .next (s.setPkgBar s.par.n { b with vis := b.ph })

/-- R465: a linked barrier that has reached `EXP` sends its arrival to its parent. -/
def execFabricBarrierForward (s : State) : Host.Outcome State Fault Refusal :=
  let n := s.par.n
  let b := s.pkgBar n
  match b.parent with
  | some p =>
    if b.forwarded || b.cnt < b.exp then .next s
    else
      let me := s.forum.pkg.toNat
      .next ((s.setPkgBar n { b with forwarded := true }).tell p.1 (.barrierArrival p.2 n b.loss)
        fun s =>
          let (id, s) := s.fresh
          s.spawn .packageBarrierArrival { id := id, len := 13, n := p.2, src := me, k := n, flag := b.loss })
  | none => .next s

/-- R465: the parent's release arrives, with its `LOSS`. -/
def execFabricBarrierRelease (s : State) : Host.Outcome State Fault Refusal :=
  let n := s.par.n
  let b := s.pkgBar n
  if b.parent.isSome && b.forwarded then .next ((s.setPkgBar n { b with loss := b.loss || s.par.flag }).pkgComplete n) else .next s

-- gangs that merge or lose their entry

/-- Two gangs may merge (R108). -/
def Core.mergeable (k : Core) (g h : Gang) : Bool :=
  g.slot == h.slot && decide (g.fids.length + h.fids.length ≤ 32) &&
  match k.team? g.slot with
  | none => false
  | some t =>
    let fs := g.fids.filterMap t.fibre?
    let hs := h.fids.filterMap t.fibre?
    (fs ++ hs).all (fun f => f.runnable && !f.stepping && f.bond == 0) && fs.all fun f => hs.all fun e => f.sameCourse e && f.rep == e.rep && f.lane != e.lane

/-- R108: the merged gang waits out the later stall. -/
def execGangMerge (s : State) : Host.Outcome State Fault Refusal :=
  let c := s.par.core
  let k := s.core c
  match k.gangs[s.par.n]?, k.gangs[s.par.k]?, decide (s.par.n < s.par.k) with
  | some g, some h, true =>
    if k.mergeable g h then
      let fids := match k.team? g.slot with
        | some t => (sortBy (·.lane) ((g.fids ++ h.fids).filterMap t.fibre?)).map (·.fid)
        | none => []
      .next (s.setCore c { k with gangs := (setAt k.gangs s.par.n ⟨g.slot, fids, max g.readyAt h.readyAt⟩).eraseIdx s.par.k })
    else .next s
  | _, _, _ => .next s

/-- R111: once a fibre without an entry has been ready longer than every gang that holds one, it gets the entry held longest. -/
def execGangEntryFree (s : State) : Host.Outcome State Fault Refusal :=
  let c := s.par.core
  let k := s.core c
  match sortBy (·.readyAt) (k.loose k.gangs), k.gangs with
  | g :: _, _ :: r =>
    if k.gangs.length < 64 then .next (s.regang c)
    else if k.gangs.all fun h => decide (g.readyAt < k.readySince h) then .next ((s.setCore c { k with gangs := r ++ [g] }).regang c)
    else .next (s.spawnOnce .gangEntryFree s.par)
  | _, _ => .next s

end Sys2Proof.Machine
end

