-- ==== Sys2Proof/Machine/Lane.lean ====
section
/-!
DEFINITION. The lane instructions and masked synchronisation (R160-R166).
-/
namespace Sys2Proof.Machine

open Sys2Proof

/-- A participant of a lane instruction: its fibre, its lane, and its A. -/
structure Peer where
  fid : Nat
  lane : Nat
  a : BitVec 64

/-- The participants: the active fibres of the gang. -/
def Ctx.peers (x : Ctx) (s : State) (wide : Bool) (a : Operand) : List Peer :=
  x.act.map fun fid => ⟨fid, match s.fibre? x.core x.slot fid with | some f => f.lane | none => 0, x.rd s fid wide a⟩

/-- A lane instruction: each participant's result, 10 cycles later (R54, R160). -/
def laneOp (i : Instr) (f : FR) (aWide dWide : Bool) (g : Ctx → State → List Peer → Peer → BitVec 64) (s : State) :
    Host.Outcome State Fault Refusal :=
  issue i f.h noCheck (fun x s =>
    let ps := x.peers s aWide f.a
    s.deliver x (.at (x.now + 10)) (ps.map fun p => (p.fid, [(f.d, dWide, g x s ps p)]))) s

/-- `shfl` (R160): the A of the source lane, or the participant's own where that lane has no participant. -/
def shfl (i : Instr) (f : FR) (src : Nat → BitVec 64 → Int) (s : State) : Host.Outcome State Fault Refusal :=
  let w := Wf.tyWide f.t1
  laneOp i f w w (fun x s ps p =>
    match ps.find? fun q => (q.lane : Int) == src p.lane (x.rd s p.fid false f.b) with
    | some q => q.a
    | none => p.a) s

def execShflPick (f : FR) (s : State) : Host.Outcome State Fault Refusal := shfl (.shflPick f) f (fun _ b => (b.toNat % 32 : Nat)) s
def execShflShift (f : FR) (s : State) : Host.Outcome State Fault Refusal := shfl (.shflShift f) f (fun l b => (l : Int) + toSigned 32 b.toNat) s
def execShflRot (f : FR) (s : State) : Host.Outcome State Fault Refusal :=
  shfl (.shflRot f) f (fun l b => ((l : Int) + toSigned 32 b.toNat) % 32) s
def execShflMir (f : FR) (s : State) : Host.Outcome State Fault Refusal := shfl (.shflMir f) f (fun l b => (l ^^^ (b.toNat % 32) : Nat)) s

/-- A lane set as a word. -/
def peerMask (ps : List Peer) : BitVec 64 := BitVec.ofNat 64 (maskOf (ps.map (·.lane)))

def execVoteEvery (f : FR) (s : State) : Host.Outcome State Fault Refusal :=
  laneOp (.voteEvery f) f false false (fun _ _ ps _ => if ps.all (·.a != 0) then 1 else 0) s
def execVoteSome (f : FR) (s : State) : Host.Outcome State Fault Refusal :=
  laneOp (.voteSome f) f false false (fun _ _ ps _ => if ps.any (·.a != 0) then 1 else 0) s
def execVoteMask (f : FR) (s : State) : Host.Outcome State Fault Refusal :=
  laneOp (.voteMask f) f false false (fun _ _ ps _ => peerMask (ps.filter (·.a != 0))) s
def execVoteCount (f : FR) (s : State) : Host.Outcome State Fault Refusal :=
  laneOp (.voteCount f) f false false (fun _ _ ps _ => BitVec.ofNat 64 (ps.filter (·.a != 0)).length) s

/-- The operations of `redux` and `scan` (R161). -/
def redFold (op : RedOp) (t : BitVec 6) (a b : BitVec 64) : BitVec 64 :=
  match op with
  | .add => BitVec.ofNat 64 ((a.toNat + b.toNat) % 2 ^ tyBits t)
  | .min => if readInt t b < readInt t a then b else a
  | .max => if readInt t a < readInt t b then b else a
  | .and => a &&& b
  | .or => a ||| b
  | .xor => a ^^^ b

/-- The identity of an exclusive scan (R161). -/
def redUnit (op : RedOp) (t : BitVec 6) : BitVec 64 :=
  match op with
  | .add | .or | .xor => 0
  | .and => BitVec.ofNat 64 (2 ^ tyBits t - 1)
  | .min => BitVec.ofNat 64 (BitVec.ofInt (tyBits t) (tyHi t)).toNat
  | .max => BitVec.ofNat 64 (BitVec.ofInt (tyBits t) (tyLo t)).toNat

/-- A fold over participants in ascending lane order; the identity where there is none. -/
def foldPeers (op : RedOp) (t : BitVec 6) (ps : List Peer) : BitVec 64 :=
  match sortBy (·.lane) ps with
  | [] => redUnit op t
  | p :: r => r.foldl (fun v q => redFold op t v (q.a &&& BitVec.ofNat 64 (2 ^ tyBits t - 1))) (p.a &&& BitVec.ofNat 64 (2 ^ tyBits t - 1))

def execRedux (op : RedOp) (f : FR) (s : State) : Host.Outcome State Fault Refusal :=
  let w := Wf.tyWide f.t1
  laneOp (.redux op f) f w w (fun _ _ ps _ => foldPeers op f.t1 ps) s
def execScan (op : RedOp) (f : FR) (s : State) : Host.Outcome State Fault Refusal :=
  let w := Wf.tyWide f.t1
  laneOp (.scan op f) f w w (fun _ _ ps p => foldPeers op f.t1 (ps.filter fun q => decide (q.lane ≤ p.lane))) s
def execScanEx (op : RedOp) (f : FR) (s : State) : Host.Outcome State Fault Refusal :=
  let w := Wf.tyWide f.t1
  laneOp (.scanEx op f) f w w (fun _ _ ps p => foldPeers op f.t1 (ps.filter fun q => decide (q.lane < p.lane))) s

/-- The participants whose A equals one's own, in the width of the type. -/
def equalPeers (t : BitVec 6) (ps : List Peer) (p : Peer) : List Peer :=
  ps.filter fun q => q.a.toNat % 2 ^ tyBits t == p.a.toNat % 2 ^ tyBits t

def execMatchPeers (f : FR) (s : State) : Host.Outcome State Fault Refusal :=
  laneOp (.matchPeers f) f (Wf.tyWide f.t1) false (fun _ _ ps p => peerMask (equalPeers f.t1 ps p)) s
def execMatchFirst (f : FR) (s : State) : Host.Outcome State Fault Refusal :=
  laneOp (.matchFirst f) f (Wf.tyWide f.t1) false (fun _ _ ps p => BitVec.ofNat 64 (((equalPeers f.t1 ps p).map (·.lane)).min?.getD 0)) s
def execMatchSame (f : FR) (s : State) : Host.Outcome State Fault Refusal :=
  laneOp (.matchSame f) f (Wf.tyWide f.t1) false (fun _ _ ps p => if (equalPeers f.t1 ps p).length == ps.length then 1 else 0) s

-- masked synchronisation

/-- A conflict of two arrived or arriving fibres of one role (R165): their numbers, the lower first, with their masks. -/
structure Clash where
  lo : Nat
  hi : Nat
  mlo : BitVec 32
  mhi : BitVec 32

/-- The conflicts in which an arriving fibre takes part, in the order of R165. -/
def clashes (arrived arriving : List (Nat × BitVec 32)) : List Clash :=
  let all := sortBy (·.1) (arrived ++ arriving)
  all.flatMap fun a => all.filterMap fun b =>
    if a.1 < b.1 && a.2 != b.2 && ((lsyncNames a.1 a.2).contains b.1 || (lsyncNames b.1 b.2).contains a.1) &&
        arriving.any (fun n => n.1 == a.1 || n.1 == b.1) then some ⟨a.1, b.1, a.2, b.2⟩ else none

/-- The other mask of a conflict for a fibre that it traps (R165). -/
def Clash.other (k : Clash) (h : Nat) : BitVec 32 :=
  if h = k.lo then k.mhi else if h = k.hi then k.mlo else if (lsyncNames k.lo k.mlo).contains h then k.mlo else k.mhi

/-- The fibres that conflicts trap, each with the other mask of the first that names it. -/
def clashHits (ks : List Clash) : List (Nat × BitVec 32) :=
  ks.foldl (fun acc k =>
    ((lsyncNames k.lo k.mlo ++ lsyncNames k.hi k.mhi).eraseDups).foldl (fun acc h =>
      if acc.any (·.1 == h) then acc else acc ++ [(h, k.other h)]) acc) []

def maskTrap (own other : BitVec 32) : Trap := { cause := .masksyncMismatch, info := other ++ own }

/-- `lsync` in the active fibres (R163-R165). -/
def lsyncBody (f : FR) (x : Ctx) (s : State) : State × List (Nat × LaneRes) :=
  match x.team s, (x.act.head?.bind (s.fibre? x.core x.slot)).map (·.role) with
  | some t, some role =>
    let own (fid : Nat) : BitVec 32 := (x.rd s fid false f.a).extractLsb' 0 32 ||| (1#32 <<< (fid % 32))
    let pending := x.act.filterMap fun fid => (t.fibre? fid).bind fun g => if g.msp then some (fid, g.mspm) else none
    let arriving := (x.act.filter fun fid => !pending.any (·.1 == fid)).map fun fid => (fid, own fid)
    let arrived := (t.roleFibres role).filterMap fun g => g.lsyncMask?.map (g.fid, ·)
    let hits := (clashHits (clashes arrived arriving)).filter fun h => match t.fibre? h.1 with | some g => g.role == role | none => false
    let hit (fid : Nat) : Option (BitVec 32) := (hits.find? (·.1 == fid)).map (·.2)
    -- fibres that have not arrived keep the mismatch; those that trap clear it
    let s := s.modTeam x.core x.slot fun t =>
      { t with fibres := t.fibres.map fun g =>
          if pending.any (·.1 == g.fid) then { g with msp := false, mspm := 0 }
          else match hit g.fid with
            | some m => if arriving.any (·.1 == g.fid) || arrived.any (·.1 == g.fid) then { g with msp := false, mspm := 0 }
                        else if g.msp then g else { g with msp := true, mspm := m }
            | none => if arriving.any (·.1 == g.fid) then { g with wait := some (.lsync (own g.fid)) } else g }
    let s := arrived.foldl (fun s a => match hit a.1 with
      | some m => s.failWaiting x.core x.slot a.1 (maskTrap a.2 m)
      | none => s) s
    let s := s.lsyncCheck x.core x.slot
    (s, x.act.map fun fid =>
      match pending.find? (·.1 == fid), hit fid with
      | some p, _ => (fid, .trap (maskTrap (own fid) p.2))
      | none, some m => (fid, .trap (maskTrap (own fid) m))
      | none, none => (fid, .block))
  | _, _ => (s, [])

def execLsync (f : FR) (s : State) : Host.Outcome State Fault Refusal := issue (.lsync f) f.h noCheck (lsyncBody f) s

end Sys2Proof.Machine
end

