-- ==== Sys2Proof/Machine/Control.lean ====
section
/-!
DEFINITION. Branches, calls, the repeat prefix, the creation and end of fibres, and the return from a handler (R99-R101, R149-R159,
R170).
-/
namespace Sys2Proof.Machine

open Sys2Proof

-- the window allocator

/-- The windows in use on a core: lane, first register, size (R99). -/
def Core.windows (k : Core) : List (Nat × Nat × Nat) := k.teams.flatMap fun t => t.fibres.map fun f => (f.lane, f.wbase, f.wsize)

/-- The lowest free run of a bank that starts at a multiple of 8 (R101). -/
def bankRun (ws : List (Nat × Nat × Nat)) (lane size : Nat) : Option Nat :=
  let mine := ws.filter (·.1 == lane)
  ((List.range 256).map (8 * ·)).find? fun b =>
    decide (b + size ≤ 2048) && !mine.any fun w => decide (w.2.1 < b + size) && decide (b < w.2.1 + w.2.2)

/-- The first bank at or after a lane, wrapping, that has a run (R101). -/
def placeOne (ws : List (Nat × Nat × Nat)) (start size : Nat) : Option (Nat × Nat) :=
  (List.range 32).findSome? fun i => (bankRun ws ((start + i) % 32) size).map fun b => ((start + i) % 32, b)

/-- All windows of a creation, or none (R101). -/
def placeAll : List Nat → Nat → List (Nat × Nat × Nat) → Option (List (Nat × Nat))
  | [], _, _ => some []
  | n :: r, start, ws =>
    match placeOne ws start n with
    | none => none
    | some p => (placeAll r (p.1 + 1) (ws ++ [(p.1, p.2, n)])).map (p :: ·)

/-- The fibres of a core (R171). -/
def Core.fibreCount (k : Core) : Nat := (k.teams.map fun t => t.fibres.length).sum

-- branches

/-- The target of format C (R50). -/
def Ctx.target (x : Ctx) (off : BitVec 32) : BitVec 56 := x.pc + 4 * off.signExtend 56

def execBra (f : FC) (s : State) : Host.Outcome State Fault Refusal :=
  issue (.bra f) f.h noCheck (fun x s => (s, x.act.map fun fid => (fid, .jump (x.target f.off)))) s

def execBrx (f : FR) (s : State) : Host.Outcome State Fault Refusal :=
  issue (.brx f) f.h noCheck (fun x s => (s, x.act.map fun fid => (fid, .jump ((x.rd s fid true f.a).extractLsb' 0 56)))) s

/-- The store of a call record as judged (R150): a cause is precise, and side-log entries of the granule are waited for. -/
def State.judgeRecord (s : State) (c : Nat) (t : Team) (fid a : Nat) : LaneAcc :=
  match addrTrap a 8 true with
  | some tr => .trap tr
  | none =>
    if s.acqOpen c t.slot fid || s.countFull c t.slot fid then .retry
    else match s.look c t.ctx t.world .write a with
      | .miss => .retry
      | .fault x => .trap (memTrap x a true)
      | .ok l =>
        if s.logged c t.slot fid a then .retry
        else if s.hostGone l a then .trap { memTrap .pageFault a true with info := 9 }
        else .go l

/-- `Call` of R149 in every active fibre. A record in a page of another package or of a collective is stored before the fibre goes on, so
that a refusal there is precise (R150). DESIGN CHOICE: the spec does not say whether the record's store or load meets a data watchpoint; in
the model it meets none (notes/assumptions/16.md). -/
def callBody (d : Operand) (target : Ctx → State → Nat → BitVec 56) (x : Ctx) (s : State) : State × List (Nat × LaneRes) :=
  match x.team s with
  | none => (s, [])
  | some t =>
    let back := (x.pc + 12).setWidth 64
    let js := x.act.map fun fid =>
      let a := x.rd s fid true d - 8
      (fid, a, target x s fid, s.judgeRecord x.core t fid a.toNat)
    let s := js.foldl (fun s j => s.afterJudge x.core t j.1 j.2.1.toNat .write false j.2.2.2) s
    let puts := js.filterMap fun j => match j.2.2.2 with
      | .go l => if l.apt < 4 then some (⟨j.1, j.2.1.toNat, 8, back.toNat, l⟩ : Put) else none
      | _ => none
    let (s, waits) := s.bufferStores x none puts
    let dn := match d with | .v i => i | _ => 0
    js.foldl (fun (acc : State × List (Nat × LaneRes)) j =>
      let (fid, a, tgt, acc') := j
      let goes (s : State) : State × LaneRes :=
        let (id, s) := s.fresh
        (s.modFibre x.core x.slot fid (·.oweOperand d true a .ready id), .jump tgt)
      let r : State × LaneRes := match acc' with
        | .go l =>
          if waits.contains fid then (acc.1, .retry)
          else if l.apt == 4 && acc.1.inRegion x.core x.slot fid then
            match acc.1.stage x fid a.toNat 8 l none back.toNat with
            | (s, .trap tr) => if tr.cause == .regionAbort then (s, .trap tr) else goes s
            | (s, _) => goes s
          else if l.apt < 4 then goes acc.1
          else match acc.1.enterCall x.core x.slot x.pc ⟨fid, a.toNat, 8, back.toNat, l⟩ ⟨fid, dn, a, tgt⟩ with
            | some s => (s, .block)
            | none => (acc.1, .retry)
        | a => (acc.1, a.res)
      (r.1, acc.2 ++ [(fid, r.2)])) (s, [])

def execCall (f : FC) (s : State) : Host.Outcome State Fault Refusal :=
  issue (.call f) f.h noCheck (callBody f.d fun x _ _ => x.target f.off) s

def execCalli (f : FR) (s : State) : Host.Outcome State Fault Refusal :=
  issue (.calli f) f.h noCheck (callBody f.d fun x s fid => (x.rd s fid true f.a).extractLsb' 0 56) s

/-- The fibre's earlier accesses to bytes of a sector that a load of it may not pass (R330, R331). -/
def State.readHeld (s : State) (c slot fid va n : Nat) (l : Leaf) : Bool := s.loadHeld c ⟨s.uid, slot, fid, if n = 8 then 9 else 8, va, l, none, none⟩

/-- `Ret` of R149 in a fibre: the record is read at once, as the target depends on it. -/
def retLane (d : Operand) (x : Ctx) (t : Team) (fid : Nat) (s : State) : State × LaneRes :=
  let sp := x.rd s fid true d
  let a := s.judgeRead x.core t fid sp.toNat 8 .read
  let s := s.afterJudge x.core t fid sp.toNat .read false a
  match a with
  | .go l =>
    if l.apt == 4 then
      let dn := match d with | .v i => i | _ => 0
      let (id, s) := s.fresh
      let s := s.modFibre x.core x.slot fid fun g => { g with wait := some (.remote id) }
      (s.remoteAsk l sp.toNat (l.ord == 0) (.ret x.core x.slot fid dn (sp + 8) sp.toNat), .block)
    else if s.readHeld x.core x.slot fid sp.toNat 8 l then (s, .retry)
    else
      let pa := l.phys sp.toNat
      let (sec, s) := s.loadSector x.core x.slot fid s.uid l (sectorOf pa)
      let (id, s) := s.fresh
      (s.modFibre x.core x.slot fid (·.oweOperand d true (sp + 8) .ready id), .jump (BitVec.ofNat 56 (bits sec (8 * (pa % 32)) 64)))
  | a => (s, a.res)

def execRet (f : FR) (s : State) : Host.Outcome State Fault Refusal :=
  issue (.ret f) f.h noCheck (fun x s => match x.team s with
    | none => (s, [])
    | some t => laneFold x (fun x fid s => retLane f.d x t fid s) s) s

-- the return from a handler

/-- Bytes at a virtual address as a fibre's own loads read them, sector by sector. -/
def State.readOwn (s : State) (c : Nat) (t : Team) (fid va : Nat) : Nat → State × List Byte
  | 0 => (s, [])
  | n + 1 =>
    match s.lookWalk t.ctx t.world .read va with
    | .ok l =>
      let (sec, s) := s.loadSector c t.slot fid s.uid l (sectorOf (l.phys va))
      let r := State.readOwn s c t fid (va + 32) n
      (r.1, leBytes sec 32 ++ r.2)
    | _ => (s, [])

/-- `PRED`[15:1] restored (R170): a predicate that an earlier instruction has still to write takes its value after that (R56). -/
def Fibre.restorePred (f : Fibre) (v : BitVec 16) (id : Nat) : Fibre :=
  (List.range 16).foldl (fun f n =>
    if f.pend.any (·.loc == .p n) then f.owe (.p n) false (if v.getLsbD n then 1 else 0) .ready id else f.setPred n (v.getLsbD n)) f

/-- `ret.trap` in a fibre (R170); whether `RPC` names a repeat prefix is read as a fetch reads it. With `BPSKIP`, check 1 is skipped until an
instruction of the fibre has completed: at a repeat prefix, for the prefix and its first iteration. The fibre's own stores to its record reach the L1 or their home first. -/
def retTrapLane (raw : BitVec 64) (x : Ctx) (t : Team) (fid : Nat) (s : State) : State × LaneRes :=
  match s.fibre? x.core x.slot fid with
  | none => (s, .done)
  | some g =>
    if !g.inh then (s, .trap { cause := .illegalOpcode, info := raw })
    else
      let ra := recordAddr t fid
      if (s.core x.core).sb.any fun e => e.slot == x.slot && e.kind.fids.contains fid && (sectorOf e.va == sectorOf ra || sectorOf e.va == sectorOf ra + 32) then
        (s, .retry)
      else
        let (s, bs) := s.readOwn x.core t fid ra 2
        let (rpc, rc, pred, flags) := readRecord bs
        let back (pre : Bool) (s : State) : State × LaneRes :=
          let (id, s) := s.fresh
          let s := s.modFibre x.core x.slot fid fun g =>
            { g.restorePred pred id with rc := if pre then rc else 0, inh := false, rep := none }
          let s := s.writeVirt x.core t.ctx t.world (ra + 31) (leBytes (flags - bits flags 2 1 * 4) 1)
          (s, if flags.testBit 2 then .jumpSkip rpc else .jump rpc)
        match s.fetch x.core t rpc with
        | .wait s => (s, .retry)
        | .fault _ s => back false s
        | .word w s => back (w.extractLsb' 0 8 == 0x6F) s

def execRetTrap (f : FR) (s : State) : Host.Outcome State Fault Refusal :=
  issue (.retTrap f) f.h noCheck (fun x s => match x.team s with
    | none => (s, [])
    | some t => laneFold x (fun x fid s => retTrapLane (rawInfo (encodeFibre (.retTrap f))) x t fid s) s) s

-- fibres come and go

/-- The fibres that a `fork` creates (R96-R98, R156, R271). -/
def forked (t : Team) (g : Fibre) (arg : BitVec 32) (target : BitVec 56) (size : Nat) (places : List (Nat × Nat)) : List Fibre :=
  let bpar := BitVec.ofNat 16 (maskOf ((List.range 16).filter fun n => (nth ⟨0, 0, 0, 0, 0, 0, false⟩ t.bars n).ph.getLsbD 0))
  ((List.range places.length).zip places).map fun (j, p) =>
    { Fibre.blank with
      fid := t.nextFid + j, role := g.role, pc := target, lane := p.1, wbase := p.2, wsize := size, bpar := bpar,
      regs := [BitVec.ofNat 32 j, arg] ++ List.replicate (size - 2) 0 }

/-- `Fork` creates no fibre for this count (R156). -/
def Team.forkFails (t : Team) (n : Nat) : Bool := n == 0 || decide (1024 < n) || decide (32767 < t.nextFid + n - 1)

/-- `Fork` of R156 in one fibre. -/
def forkLane (f : FC) (x : Ctx) (fid : Nat) (s : State) : State × LaneRes :=
  match s.team? x.core x.slot, s.fibre? x.core x.slot fid with
  | some t, some g =>
    let n := (x.rd s fid false f.a).toNat % 2 ^ 32
    let arg := (x.rd s fid false f.b).extractLsb' 0 32
    let size := 8 * ((f.cm.toNat % 32) + 1)
    if t.forkFails n then (s.answer x.core x.slot [fid] f.d false 0xFFFFFFFF, .done)
    else if !s.relReady x.core x.slot fid then (s.releaseWork x.core x.slot fid, .waitAgain)
    else if 1024 < (s.core x.core).fibreCount + n then (s, .waitAgain)
    else match placeAll (List.replicate n size) 0 (s.core x.core).windows with
      | none => (s, .waitAgain)
      | some places =>
        let fs := forked t g arg (x.target f.off) size places
        let s := s.modTeam x.core x.slot fun t => { t with nextFid := t.nextFid + n, fibres := t.fibres ++ fs }
        let s := s.formGangs x.core x.slot (fs.map (·.fid)) (x.now + 1)
        (s.answer x.core x.slot [fid] f.d false (BitVec.ofNat 64 t.nextFid), .done)
  | _, _ => (s, .done)

/-- Several fibres that would write different numbers to one uniform register (R103). -/
def forkClash (f : FC) (x : Ctx) (s : State) : List Nat :=
  match x.team s with
  | none => []
  | some t =>
    let ok := x.act.filter fun fid => !t.forkFails ((x.rd s fid false f.a).toNat % 2 ^ 32)
    if isUniform f.d && decide (1 < x.act.length) && !ok.isEmpty then
      (if ok.head? == x.act.head? then x.act.drop 1 else ok) else []

def execFork (f : FC) (s : State) : Host.Outcome State Fault Refusal :=
  issue (.fork f) f.h noCheck (fun x s =>
    match forkClash f x s, x.team s with
    | [], _ => laneFoldInOrder x (forkLane f) s
    | diff, some t => (s, x.act.map fun fid => (fid, .trap { cause := .nonuniform, opnd := 2, lmask := some (laneMask t diff) }))
    | _, none => (s, [])) s

/-- R157. -/
def execExit (f : FR) (s : State) : Host.Outcome State Fault Refusal :=
  issue (.exit f) f.h noCheck (fun x => laneFold x fun x fid s => (s.endFibre x.core x.slot fid false, .ended)) s

/-- R158: only readiness changes, which the agenda stands for (notes/assumptions/3.md). -/
def execYield (f : FR) (s : State) : Host.Outcome State Fault Refusal := issue (.yield f) f.h noCheck (fun _ s => (s, [])) s

/-- R159. -/
def execTrap (f : FI) (s : State) : Host.Outcome State Fault Refusal :=
  issue (.trap f) f.h noCheck (fun x s =>
    (s, x.act.map fun fid => (fid, .trap { cause := .softwareTrap, info := f.imm.setWidth 64, next := true }))) s

def execBrk (f : FI) (s : State) : Host.Outcome State Fault Refusal :=
  issue (.brk f) f.h noCheck (fun x s =>
    (s, x.act.map fun fid => (fid, .trap { cause := .breakpoint, info := f.imm.setWidth 64, next := true }))) s

-- the repeat prefix

/-- The prefix of a pair of `n` iterations (R153), its second word checked: nothing is left to do, or the iterations follow, each issued as
an instruction of its own. -/
def repBody (f : FP) (n : Nat) (x : Ctx) (s : State) : State × List (Nat × LaneRes) :=
  let rc := match s.fibre? x.core x.slot (x.act.headD 0) with | some g => g.rc.toNat | none => 0
  let set (p : Fibre → Fibre) (r : LaneRes) : State × List (Nat × LaneRes) :=
    (s.modTeam x.core x.slot (·.modGang x.act p), x.act.map (·, r))
  if n = 0 then set id (.jump (x.pc + 24))
  else if n ≤ rc then set (fun g => { g with rc := 0 }) (.jump (x.pc + 24))
  else set (fun g => { g with rep := some ⟨n, f.dstr, f.astr, f.bstr, f.cstr⟩ }) .block

/-- The prefix's own hints apply nowhere (R153), and it takes no cycle. -/
def repIssue (f : FP) (n : Nat) (s : State) : State :=
  let s' := issueState (.rep f) ⟨0, false, 0, false, false⟩ noCheck (repBody f n) s
  let c := s.cur.core
  let started := s.cur.fids.filter fun fid => match s'.fibre? c s.cur.slot fid with | some g => g.rep.isSome | none => false
  if started.isEmpty then s' else s'.modCore c (·.restart s.cur.slot started (s.now c))

/-- The count of a pair as its prefix reads it (R61): an immediate, or a uniform register of the gang's role. -/
def repCount (f : FP) (s : State) (t : Team) (g : Fibre) : Nat := (readOperand s s.cur.core t g 0 0 false f.a).toNat % 2 ^ 32

/-- R61, R62, R153: with a count, the second word is fetched and checked before the prefix's own check 6 (R68). -/
def execRep (f : FP) (s : State) : Host.Outcome State Fault Refusal :=
  let c := s.cur.core
  let slot := s.cur.slot
  let landed := s.landTeam c slot
  match landed.team? c slot with
  | none => .next landed
  | some t =>
    match s.cur.fids.filterMap t.fibre? with
    | [] => .next landed
    | g :: _ =>
      let fids := s.cur.fids
      let n := repCount f landed t g
      if n = 0 then .next (repIssue f 0 s)
      else match s.fetch c t (g.pc + 12) with
        | .wait s => .next (s.modCore c (·.stall slot fids (s.now c + 1)))
        | .fault tr s => .next (s.trapGang c slot fids g.pc true tr)
        | .word w s =>
          match pairCheck (s.context t.ctx).supervisor t fids f w with
          | some tr => .next (s.trapGang c slot fids g.pc true tr)
          | none => .next (repIssue f n s)

end Sys2Proof.Machine
end

