-- ==== Sys2Proof/Machine/Streamer.lean ====
section
/-!
DEFINITION. The streamer (R240-R245, R318, R319, R383, R433, R434, R458): the issue of copies, their elements, their completion and
retirement.
-/
namespace Sys2Proof.Machine

open Sys2Proof

/-- The captured operands of a copy, under names. -/
structure Copy where
  kind : CopyKind
  nofill : Bool
  da : Desc
  db : Desc
  ta : BitVec 64
  off : Nat
  org : List Int
  ev : Nat
  bar : Option Nat
  ring : Option Nat
  mcm : BitVec 32

def EngKind.copy? : EngKind → Option Copy
  | .copy k nofill da db ta _ off org ev bar ring mcm _ => some ⟨k, nofill, da, db, ta, off, org, ev, bar, ring, mcm⟩
  | _ => none

/-- Width of an element. -/
def Copy.w (p : Copy) : Nat := (Fmt.of p.ta).w

/-- Elements of the tile box. -/
def Copy.count (p : Copy) : Nat := (p.da.box.map (· + 1)).foldl (· * ·) 1

/-- The box element of a linear index, dimension 0 innermost. -/
def boxIndex : List Nat → Nat → List Nat
  | [], _ => []
  | b :: r, i => i % (b + 1) :: boxIndex r (i / (b + 1))

def Copy.box (p : Copy) (i : Nat) : List Nat := boxIndex p.da.box i

/-- The tensor element that a box element pairs with (R240), none where it is clipped (R241). -/
def Copy.tensor (p : Copy) (i : Nat) : Option (List Nat) :=
  let cs : List Int := (p.box i).zip p.org |>.map fun x => x.2 + (x.1 : Int)
  let out := (List.range p.da.rank).any fun d => decide (nth 0 cs d < 0) || decide ((p.da.sz d : Int) ≤ nth 0 cs d)
  if out then none else some (cs.map Int.toNat)

/-- The scratchpad byte and bit of a box element (R240). -/
def Copy.spad (p : Copy) (i : Nat) : Nat × Nat :=
  let q := p.db.elemPos p.w (p.box i)
  (q.1 + p.off, q.2)

/-- The scratchpad bytes of the whole tile box (R185, R240). -/
def Copy.range (p : Copy) : Nat × Nat :=
  let lo := p.db.base + p.off
  (lo, lo + ((p.da.box.zip p.db.stride).map fun x => x.1 * x.2).sum + ((p.da.bx 0 + 1) * p.w + 7) / 8)

/-- The bytes that an arrival carries (R242). -/
def Copy.bytes (p : Copy) : Nat := (p.count * p.w + 7) / 8

/-- The kind of access by which a copy reaches the tensor (R244). -/
def Copy.access (p : Copy) : Access :=
  match p.kind with
  | .st => .write
  | .red _ => .atomic
  | _ => .read

-- issue

/-- Check 9 of a copy (R84, R204, R240, R243). -/
def copyCheck (f : FE) (red pf : Bool) : Ctx → State → List (Nat × Trap) :=
  engineCheck (if pf then [f.tda.toNat] else [f.tda.toNat, f.tdb.toNat])
    (fun t =>
      let da := t.desc f.tda.toNat
      let db := t.desc f.tdb.toNat
      let w := (Fmt.of (t.tar da.etar)).w
      (da.etar, fun e => !red || (e.cls == 0 && (e.w == 16 || e.w == 32)) || (e.cls == 1 && e.w == 32)) :: scaleReq t da ++
      (if pf then [] else (db.etar, fun e => e.w == w) :: scaleReq t db))
    (fun t =>
      let da := t.desc f.tda.toNat
      (f.tda.toNat, fun d => !d.spc) ::
      (if pf then [] else [(f.tdb.toNat, fun d => d.spc && (List.range 5).all fun i => decide (da.bx i + 1 ≤ d.sz i))]))

/-- What a copy captures (R227, R240). -/
def copyOf (f : FE) (k : CopyKind) (nofill : Bool) (sub : Nat) (x : Ctx) (s : State) (t : Team) : EngKind :=
  let da := t.desc f.tda.toNat
  let db := t.desc f.tdb.toNat
  let role := match x.act.head?.bind t.fibre? with | some g => g.role | none => .copy
  let a := match f.a with | .k i => i.toNat | _ => 0
  let org := (List.range 5).map fun d => (t.ureg role (a + d)).toInt
  let dv := x.rdU s (k == .mc) f.d
  let ev := f.ev.toNat % 4
  let ring := if ev = 2 then some ((x.rdU s false f.b).toNat % 2 ^ 32) else none
  let bar := match f.b with | .b n => if ev = 1 then some n.toNat else none | _ => none
  .copy k nofill da db (t.tar da.etar) (t.tar db.etar) (dv.extractLsb' 0 32).toNat org ev bar ring
    (if k == .mc then dv.extractLsb' 32 32 else 0) sub

/-- The target team of a core (R318): of the launch, in the lowest team slot. -/
def State.targetTeam (s : State) (launch c : Nat) : Option Team :=
  match sortBy (·.slot) ((s.core c).teams.filter (·.launch == launch)) with
  | [] => none
  | t :: _ => some t

/-- The cores that a multicast mask names (R243): those of a block of 4 × 4, by their position in it (R307). -/
def mcCores (c : Nat) (mcm : BitVec 32) : List Nat :=
  let b := bits mcm.toNat 16 4
  (setBits (mcm.toNat % 2 ^ 16) 16).map fun i => 256 * clusOf c + 16 * (4 * (b / 4) + i / 4) + 4 * (b % 4) + i % 4

/-- The targets of a copy, as 16 * core + team slot; none where a masked core holds no team of the launch (R318). -/
def State.copyTargets (s : State) (c : Nat) (t : Team) (p : Copy) : Option (List Nat) :=
  if p.kind == .mc then
    let ts := (mcCores c p.mcm).map fun k => (s.targetTeam t.launch k).map fun u => 16 * k + u.slot
    if p.mcm.extractLsb' 20 12 != 0 || ts.isEmpty || ts.any (·.isNone) then none else some (ts.filterMap id)
  else some [16 * c + t.slot]

/-- The granules of the tensor that a copy's box meets, in the order of its rows (R383). -/
def Copy.pages (p : Copy) : List Nat :=
  let n0 := p.da.bx 0 + 1
  let o0 := nth 0 p.org 0
  let lo := max o0 0
  let hi := min (o0 + (p.da.bx 0 : Int)) ((p.da.sz 0 : Int) - 1)
  if hi < lo then []
  else
    ((List.range (p.count / n0)).flatMap fun r =>
      match p.tensor (r * n0 + (lo - o0).toNat) with
      | none => []
      | some cs =>
        let a := (p.da.elemPos p.w cs).1
        let z := p.da.elemPos p.w (hi.toNat :: cs.drop 1)
        let last := (z.1 + (z.2 + p.w - 1) / 8) / 2 ^ 16
        (List.range (last - a / 2 ^ 16 + 1)).map (a / 2 ^ 16 + ·)).eraseDups

/-- The first revoking page that an extent meets (R383). -/
def State.revokingPage (s : State) (c ctx : Nat) (pages : List Nat) : Option Nat :=
  pages.findSome? fun g => ((s.core c).tlb.find? fun e => e.covers ctx (g * 2 ^ 16) && e.revoking).map (·.va)

/-- A command captures the pinned entries of its extent, which are walked for where the TLB does not hold them (R383). -/
def State.capturePins (s : State) (c : Nat) (t : Team) (id : Nat) (pages : List Nat) : State :=
  pages.foldl (fun s g =>
    let va := g * 2 ^ 16
    let s := if (s.core c).tlb.any (·.covers t.ctx va) then s
      else match s.walk t.ctx va with
        | .leaf l => if l.pin then s.enterTlb c t.ctx va l else s
        | _ => s
    s.modCore c fun k =>
      { k with tlb := modWhere (fun e => e.covers t.ctx va && e.leaf.pin && !e.users.contains id)
                        (fun e => { e with users := e.users ++ [id] }) k.tlb }) s

/-- The check of a ring's address (R242). -/
def ringTrap (t : Team) (a : Nat) : Option Trap :=
  if a % 64 ≠ 0 then some (memTrap .misaligned a true)
  else if a < 2 ^ 20 && t.spadBase ≤ a && a + 64 ≤ t.spadBase + t.spadSize then none
  else some (memTrap .permitDenied a true)

/-- The causes of check 10 of a copy (R240, R242, R243, R318, R383). DESIGN CHOICE: of several, the range comes first, then the targets, the
ring, and the pins (notes/assumptions/64.md). -/
def State.copyTrap (s : State) (c : Nat) (t : Team) (p : Copy) : Option Trap :=
  let r := p.range
  let fills := p.kind == .ld || p.kind == .mc
  if p.kind != .pf && (decide (r.1 < t.spadBase) || decide (t.spadBase + t.spadSize < r.2)) then some (memTrap .permitDenied r.1 fills)
  else if (s.copyTargets c t p).isNone then some (memTrap .permitDenied r.1 true)
  else match p.ring.bind (ringTrap t) with
    | some tr => some tr
    | none => (s.revokingPage c t.ctx p.pages).map fun va => { cause := .pinRevoked, addr := BitVec.ofNat 64 va }

/-- The issue of a copy (R227, R243): `eq.cp`, and a range entry where it writes the own core's scratchpad (R185). -/
def copyBody (f : FE) (k : CopyKind) (nofill : Bool) (sub : Nat) (x : Ctx) (s : State) : State × List (Nat × LaneRes) :=
  match x.act, x.team s with
  | [], _ | _, none => (s, [])
  | fid :: _, some t =>
    if s.tdHeld x.core x.slot (if k == .pf then [f.tda.toNat] else [f.tda.toNat, f.tdb.toNat]) then (s, x.act.map (·, .retry))
    else
      let kind := copyOf f k nofill sub x s t
      match kind.copy? with
      | none => (s, [])
      | some p =>
        match s.copyTrap x.core t p with
        | some tr => (s, x.trapAll tr)
        | none =>
          let targets := (s.copyTargets x.core t p).getD []
          let own := (k == .ld || k == .mc) && targets.any (· / 16 == x.core)
          if !(s.core x.core).eqRoom 1 || (own && decide (64 ≤ (s.core x.core).ranges.length)) then (s, x.wait)
          else
            let (id, s) := s.fresh
            let e := { EngCmd.fresh id x.slot fid x.pc kind with targets := if k == .pf then [] else targets }
            let r : RangeEnt := ⟨id, id, p.range.1 / 32 * 32, (p.range.2 + 31) / 32 * 32⟩
            let s := s.modCore x.core fun c => { c with eqcp := c.eqcp ++ [e], ranges := if own then c.ranges ++ [r] else c.ranges }
            ((s.capturePins x.core t id p.pages).spawn .streamerCopyRun { core := x.core, id := id }, [])

def execCpyLd (f : FE) (s : State) : Host.Outcome State Fault Refusal := issue (.cpyLd f) f.h (copyCheck f false false) (copyBody f .ld false 0) s
def execCpyLdNf (f : FE) (s : State) : Host.Outcome State Fault Refusal :=
  issue (.cpyLdNf f) f.h (copyCheck f false false) (copyBody f .ld true 1) s
def execCpySt (f : FE) (s : State) : Host.Outcome State Fault Refusal := issue (.cpySt f) f.h (copyCheck f false false) (copyBody f .st false 0) s
def execCpyRed (op : CpyOp) (f : FE) (s : State) : Host.Outcome State Fault Refusal :=
  issue (.cpyRed op f) f.h (copyCheck f true false)
    (copyBody f (.red op) false (match op with | .add => 0 | .min => 1 | .max => 2)) s
def execCpyMc (f : FE) (s : State) : Host.Outcome State Fault Refusal := issue (.cpyMc f) f.h (copyCheck f false false) (copyBody f .mc false 0) s
def execCpyMcNf (f : FE) (s : State) : Host.Outcome State Fault Refusal :=
  issue (.cpyMcNf f) f.h (copyCheck f false false) (copyBody f .mc true 1) s
def execCpyPf (f : FE) (s : State) : Host.Outcome State Fault Refusal := issue (.cpyPf f) f.h (copyCheck f false true) (copyBody f .pf false 0) s

-- elements

/-- A lookup of a command: a translation that it captured, or a walk (R193, R383). -/
def State.cmdLook (s : State) (c : Nat) (t : Team) (id : Nat) (k : Access) (va : Nat) : Look :=
  match (s.core c).tlb.find? fun e => e.covers t.ctx va && e.users.contains id with
  | some e => match s.permit t.world k va e.leaf with
    | some x => .fault x
    | none => .ok e.leaf
  | none => s.lookWalk t.ctx t.world k va

/-- Where the bytes of an element are: a cause; another package; an alias page's sector (R433); or the home of each byte. -/
inductive ElemAt where
  | stop (cause : Nat)
  | remote (l : Leaf)
  | viaAlias (l : Leaf)
  | home (pa : Nat → Nat)

/-- The place of the `n` bytes of an element (R244, R245, R395, R405, R434). -/
def State.elemAt (s : State) (c : Nat) (t : Team) (id : Nat) (k : Access) (va n : Nat) : ElemAt :=
  let va2 := (va + n - 1) / 2 ^ 16 * 2 ^ 16
  let second : Look := if va2 ≤ va then s.cmdLook c t id k va else s.cmdLook c t id k va2
  match s.cmdLook c t id k va, second with
  | .fault x, _ => .stop x.code
  | _, .fault x => .stop x.code
  | .ok l, .ok l2 =>
    if l.apt == 4 then .remote l
    else if s.hostGone l va then .stop Cause.pageFault.code
    else if 5 ≤ l.apt then
      if k != .read then .viaAlias l
      else match s.aliasRead t.world l va with
        | none => .stop Cause.permitDenied.code
        | some a => if s.worldRefuses t.world (a.phys va) then .stop Cause.worldViolation.code else .home fun i => a.pa + (va % 32 + i)
    else
      let pa (i : Nat) : Nat := if va + i < va2 then l.phys (va + i) else l2.phys (va + i)
      if k != .write && (List.range n).any fun i => s.poisoned (pa i) 1 then .stop Cause.pageFault.code else .home pa
  | _, _ => .stop Cause.pageFault.code

/-- `n` bytes at the home, and the same written. -/
def State.homeBytes (s : State) (pa : Nat → Nat) (n : Nat) : Nat := leNat ((List.range n).map fun i => Memory.get s.mem (pa i))

def State.putHomeBytes (s : State) (pa : Nat → Nat) (n v : Nat) : State :=
  (List.range n).foldl (fun s i => s.homeWrite (pa i) 1 (bits v (8 * i) 8)) s

/-- `m` *op* `s` of `cpy.red` on codes (R243): the code, the counts, and the kind of a NaN that neither had. -/
def redElem (e : Fmt) (op : CpyOp) (m s : Nat) : Nat × Cnt × Option Nat :=
  if e.cls = 1 then
    let less (a b : Nat) : Bool := (e.decode a).cmp (e.decode b) == some .lt
    match op with
    | .add => ((m + s) % 2 ^ e.w, .zero, none)
    | .min => (if less s m then s else m, .zero, none)
    | .max => (if less m s then s else m, .zero, none)
  else
    let a := e.decodeIn m
    let b := e.decodeIn s
    let x := match op with
      | .add => a.1.add b.1 0
      | .min => a.1.minMax b.1 false
      | .max => a.1.minMax b.1 true
    let r := e.encode x 0 0
    (r.1, (a.2.add b.2).add r.2,
      if op == .add && !a.1.isNan && !b.1.isNan && (e.decode r.1).isNan then some (if x.isNan then 0 else 1) else none)

/-- Bits of an element joined to the sectors of alias pages that a command writes (R433). -/
def joinSector (secs : List (Nat × Nat × Leaf × Nat × Nat)) (i va bit w : Nat) (l : Leaf) (v : Nat) : List (Nat × Nat × Leaf × Nat × Nat) :=
  let sec := va / 32 * 32
  let pos := 8 * (va % 32) + bit
  let mask := (2 ^ ((pos + w + 7) / 8) - 1) / 2 ^ (pos / 8) * 2 ^ (pos / 8) % 2 ^ 32
  if secs.any (·.2.1 == sec) then
    modWhere (·.2.1 == sec) (fun x => (x.1, sec, x.2.2.1, x.2.2.2.1 ||| mask, putBits x.2.2.2.2 pos w v)) secs
  else secs ++ [(i, sec, l, mask, putBits 0 pos w v)]

/-- The same for an element that may cross into the next sector. -/
def joinSectors (secs : List (Nat × Nat × Leaf × Nat × Nat)) (i va bit w : Nat) (l : Leaf) (v : Nat) : List (Nat × Nat × Leaf × Nat × Nat) :=
  let first := min w (256 - (8 * (va % 32) + bit))
  let secs := joinSector secs i va bit first l v
  if first < w then joinSector secs i (va / 32 * 32 + 32) 0 (w - first) l (v / 2 ^ first) else secs

/-- What becomes of a copy at an element. -/
inductive ElemRes where
  | next
  | stop (va cause : Nat)
  | ask (va : Nat) (l : Leaf)

/-- A value read from the tensor goes to its scratchpad element, or into the tile of a multicast. -/
def State.elemIn (s : State) (c : Nat) (e : EngCmd) (p : Copy) (i v : Nat) : State :=
  if p.kind == .mc then s.modCmd c e.id fun q => { q with tile := q.tile ++ [some v] }
  else
    let q := p.spad i
    s.putEngBits c q.1 q.2 p.w v

/-- The counts of an element of `cpy.red` (R243), and its first NaN (R249). -/
def State.redCounted (s : State) (c : Nat) (e : EngCmd) (p : Copy) (i m src : Nat) (r : Nat × Cnt × Option Nat) : State :=
  let s := s.modTeam c e.slot (·.count 2 r.2.1)
  match r.2.2 with
  | some k => s.engineNan c e p.da.etar 2 (i % 2 ^ 16) k (BitVec.ofNat 64 (m + src * 2 ^ 32))
  | none => s

/-- Element `i` of a copy (R241, R243, R244). -/
def State.copyElem (s : State) (c : Nat) (t : Team) (e : EngCmd) (p : Copy) (i : Nat) : State × ElemRes :=
  match p.tensor i with
  | none =>
    if p.kind == .ld || p.kind == .mc then
      if p.nofill then
        (if p.kind == .mc then s.modCmd c e.id fun q => { q with tile := q.tile ++ [none] } else s, .next)
      else
        ((s.elemIn c e p i p.da.fill).modTeam c e.slot fun t => { t with cpfill := min (t.cpfill + 1) 0xFFFFFFFF }, .next)
    else (s, .next)
  | some cs =>
    let (va, bit) := p.da.elemPos p.w cs
    let n := (bit + p.w + 7) / 8
    let src := let q := p.spad i; s.engBits c q.1 q.2 p.w
    match s.elemAt c t e.id p.access va n with
    | .stop x => (s, .stop va x)
    | .remote l => (s, .ask va l)
    | .viaAlias l => (s.modCmd c e.id fun q => { q with sectors := joinSectors q.sectors i va bit p.w l src }, .next)
    | .home pa =>
      let old := s.homeBytes pa n
      match p.kind with
      | .ld | .mc => (s.elemIn c e p i (bits old bit p.w), .next)
      | .st => (s.putHomeBytes pa n (putBits old bit p.w src), .next)
      | .red op =>
        let m := bits old bit p.w
        let r := redElem (Fmt.of p.ta) op m src
        ((s.putHomeBytes pa n (putBits old bit p.w r.1)).redCounted c e p i m src r, .next)
      | .pf => (s, .next)

/-- The elements of a copy from `i` on: where it ends, and how. -/
def State.copyRun (s : State) (c : Nat) (t : Team) (e : EngCmd) (p : Copy) : Nat → Nat → State × Nat × ElemRes
  | 0, i => (s, i, .next)
  | n + 1, i =>
    match s.copyElem c t e p i with
    | (s, .next) => State.copyRun s c t e p n (i + 1)
    | (s, r) => (s, i, r)

/-- How the sending of a copy's packets ends: all accepted, one not taken yet, or one refused at an element and address. -/
inductive Sending where
  | sent
  | waits
  | refused (i va : Nat)
  deriving DecidableEq, Repr

/-- The sectors of alias pages are sent, one packet each (R433); a refused one stops the command (R245, R418). -/
def State.sendSectors (s : State) (c : Nat) (e : EngCmd) : List (Nat × Nat × Leaf × Nat × Nat) → State × Sending
  | [] => (s, .sent)
  | (i, sec, l, mask, data) :: r =>
    let p := s.aliasPacket (dieOf c) l sec mask data
    if !s.packetReady (s.forum.packets.map (·.2)) p then (s, .waits)
    else match s.packetAtHome p with
      | (true, s) => State.sendSectors (s.modCmd c e.id fun q => { q with sectors := q.sectors.drop 1 }) c e r
      | (false, s) => (s, .refused i sec)

/-- A copy stops at an element (R245, R283, R284): its entry enters the side log, or it waits in its queue for room. -/
def State.copyStop (s : State) (c : Nat) (t : Team) (e : EngCmd) (i va cause : Nat) : State :=
  if (s.core c).logRoom 4 then
    ((s.modCmd c e.id fun q => { q with stopped := true }).logEnter c t e.fid va e.pc (.copy e.id i) cause none).engineWake c
  else s.spawn .streamerCopyRun { core := c, id := e.id }

/-- R240: a copy that may begin, and whose scratchpad accesses are not held (R186, R187, R228), moves its tile box. -/
def execStreamerCopyRun (s : State) : Host.Outcome State Fault Refusal :=
  let c := s.par.core
  match (s.core c).cmd? 1 s.par.id with
  | none => .next s
  | some e =>
    match e.kind.copy?, s.team? c e.slot with
    | some p, some t =>
      let r := p.range
      if e.moved || e.stopped || e.asked || e.readAll then .next s
      else if !(s.core c).mayBegin 1 e.id || (p.kind != .pf && p.kind != .mc && s.engHeld c e.id e.id r.1 r.2) then
        .next (s.spawn .streamerCopyRun s.par)
      else if p.kind == .pf then .next (s.finishCmd c e.id)
      else
        let (s, i, res) := s.copyRun c t e p (p.count - e.prog) e.prog
        let s := s.modCmd c e.id fun q => { q with prog := i }
        match res with
        | .stop va x => .next (s.copyStop c t e i va x)
        | .ask va l =>
          .next ((s.modCmd c e.id fun q => { q with asked := true }).remoteAsk l va (l.ord == 0) (.copy c e.id))
        | .next =>
          let secs := match (s.core c).cmd? 1 e.id with | some q => q.sectors | none => []
          match s.sendSectors c e secs with
          | (s, .refused i sec) => .next (s.copyStop c t e i sec Cause.permitDenied.code)
          | (s, .waits) => .next (s.spawn .streamerCopyRun s.par)
          | (s, .sent) =>
            if p.kind == .mc then
              let s := s.modCmd c e.id fun q => { q with readAll := true }
              .next (e.targets.foldl (fun s g => s.spawn .multicastDelivery { core := c, id := e.id, k := g / 16 }) s)
            else
              let s := s.modCmd c e.id fun q => { q with readAll := true, moved := true }
              .next ((s.spawn .streamerCompletionAction s.par).engineWake c)
    | _, _ => .next s

/-- The answer to an element request at another package (R458): the bytes of a read, an acknowledgement, with what the home held for an
element of `cpy.red`, which counts here (R243), or a refusal by cause. -/
def State.copyAnswer (s : State) (c id : Nat) (ans : RemoteAns) : State :=
  match (s.core c).cmd? 1 id with
  | none => s
  | some e =>
    match e.kind.copy?, s.team? c e.slot, e.asked with
    | some p, some t, true =>
      let s := s.modCmd c id fun q => { q with asked := false }
      let va (_ : Unit) : Nat := match p.tensor e.prog with | some cs => (p.da.elemPos p.w cs).1 | none => 0
      let on (s : State) : State :=
        (s.modCmd c id fun q => { q with prog := q.prog + 1 }).spawn .streamerCopyRun { core := c, id := id }
      match ans with
      | .refuse x => s.copyStop c t e e.prog (va ()) x
      | .poisoned _ => s.copyStop c t e e.prog (va ()) Cause.pageFault.code
      | .data v =>
        let bit := match p.tensor e.prog with | some cs => (p.da.elemPos p.w cs).2 | none => 0
        on (if p.kind == .ld || p.kind == .mc then s.elemIn c e p e.prog (bits v bit p.w) else s)
      | .ack v =>
        match p.kind, p.tensor e.prog with
        | .red op, some cs =>
          let m := bits v (p.da.elemPos p.w cs).2 p.w
          let src := let q := p.spad e.prog; s.engBits c q.1 q.2 p.w
          on (s.redCounted c e p e.prog m src (redElem (Fmt.of p.ta) op m src))
        | _, _ => on s
      | _ => on s
    | _, _, _ => s

-- completion

/-- A copy has finished with a target core; the last retires it (R187, R242). A range entry of another core is freed with it. -/
def State.copyTargetDone (s : State) (c id k : Nat) : State :=
  let s := if k = c then s else s.modCore k fun x => { x with ranges := x.ranges.filter (·.cmd != id) }
  let s := s.modCmd c id fun q => { q with targets := q.targets.filter (· / 16 != k) }
  match (s.core c).cmd? 1 id with
  | some e =>
    if e.targets.isEmpty && e.moved then (s.modCmd c id fun q => { q with acted := true }).spawn .rangeEntryRetire { core := c, id := id }
    else s
  | none => s

/-- The completion action of a copy at a target (R242, R268, R319): none, an arrival, or a push that its keeper performs. -/
def State.copyAction (s : State) (c : Nat) (e : EngCmd) (p : Copy) (k slot : Nat) : State :=
  match p.bar, p.ring with
  | some n, _ => (s.arrive k slot n p.bytes none).copyTargetDone c e.id k
  | none, some a =>
    let base (c slot : Nat) : Nat := match s.team? c slot with | some t => t.spadBase | none => 0
    let (id, s) := s.fresh
    let o : QOp :=
      { id := id, who := .engine c e.id e.slot e.fid, tgt := .ring k (a - base c e.slot + base k slot),
        kind := .push (BitVec.ofNat 64 p.off) false false, dst := .v 0, status := .v 0, parked := false, grp := id, ea := 0xFE * 2 ^ 56 + a }
    { s with qops := s.qops ++ [o] }.spawn .enginePush { id := id }
  | none, none => s.copyTargetDone c e.id k

/-- A multicast of another team that has read its tile is still to finish with a team (R319). -/
def State.deliveryTo (s : State) (c slot : Nat) : Bool :=
  s.coreNums.any fun x => (s.core x).eqcp.any fun e => e.readAll && e.targets.contains (16 * c + slot) && !(x == c && e.slot == slot)

/-- The push of a command is on its way or parked. -/
def State.pushing (s : State) (c id : Nat) : Bool := s.qops.any fun o => match o.who with | .engine c' q _ _ => c' == c && q == id | _ => false

/-- R242. -/
def execStreamerCompletionAction (s : State) : Host.Outcome State Fault Refusal :=
  let c := s.par.core
  match (s.core c).cmd? 1 s.par.id with
  | none => .next s
  | some e =>
    match e.kind.copy? with
    | some p =>
      if !e.moved || e.acted || p.kind == .mc || s.pushing c e.id then .next s
      else .next (s.copyAction c e p c e.slot)
    | none => .next s

/-- The tile of a multicast written at a target (R318): the addresses move with the target team's allotment. -/
def State.writeTile (s : State) (k : Nat) (e : EngCmd) (p : Copy) (shift : Int) : State :=
  ((List.range e.tile.length).zip e.tile).foldl (fun s x =>
    match x.2 with
    | some v =>
      let q := p.spad x.1
      s.putEngBits k ((q.1 : Int) + shift).toNat q.2 p.w v
    | none => s) s

/-- R319: the delivery to one target: its range entry, the tile, and the completion action there. -/
def execMulticastDelivery (s : State) : Host.Outcome State Fault Refusal :=
  let c := s.par.core
  let k := s.par.k
  match (s.core c).cmd? 1 s.par.id with
  | none => .next s
  | some e =>
    match e.kind.copy?, e.targets.find? (· / 16 == k), s.team? c e.slot with
    | some p, some g, some t =>
      if !e.readAll || e.delivered.contains k then .next s
      else match s.team? k (g % 16) with
        | none =>
          let s := s.modCmd c e.id fun q =>
            { q with delivered := q.delivered ++ [k], moved := decide (popCount p.mcm.toNat 16 ≤ q.delivered.length + 1) }
          .next ((s.copyTargetDone c e.id k).engineWake c)
        | some u =>
          let shift : Int := (u.spadBase : Int) - t.spadBase
          let lo := ((p.range.1 : Int) + shift).toNat
          let hi := ((p.range.2 : Int) + shift).toNat
          match (s.core k).ranges.find? (·.cmd == e.id) with
          | none =>
            if 64 ≤ (s.core k).ranges.length then .next (s.spawn .multicastDelivery s.par)
            else
              let (id, s) := s.fresh
              let s := s.modCore k fun x => { x with ranges := x.ranges ++ [⟨id, e.id, lo / 32 * 32, (hi + 31) / 32 * 32⟩] }
              .next (s.spawn .multicastDelivery s.par)
          | some r =>
            if s.engHeld k r.id e.id lo hi then .next (s.spawn .multicastDelivery s.par)
            else
              let s := s.writeTile k e p shift
              let s := s.modCmd c e.id fun q =>
                { q with delivered := q.delivered ++ [k], moved := decide (popCount p.mcm.toNat 16 ≤ q.delivered.length + 1) }
              .next ((s.copyAction c e p k u.slot).engineWake c)
    | _, _, _ => .next s

/-- R187: a copy that has performed its action retires, and its range entry is free. -/
def execRangeEntryRetire (s : State) : Host.Outcome State Fault Refusal :=
  let c := s.par.core
  match (s.core c).cmd? 1 s.par.id with
  | some e => .next (if e.acted then s.finishCmd c e.id else s)
  | none => .next s

end Sys2Proof.Machine
end

