-- ==== Sys2Proof/Machine/Queues.lean ====
section
/-!
DEFINITION. Queue objects (R250-R269): the instructions, the keeper's performing of one operation, parking and waking, the completion
pushes of copies, and the notices that a core pushes (R282).
-/
namespace Sys2Proof.Machine

open Sys2Proof

-- the answers

/-- The core that sends an operation (R255). -/
def QWho.core : QWho → Nat
  | .fibres c _ _ | .engine c _ _ _ | .notice c | .replay c _ _ _ => c

/-- The fibres that still wait for an operation. -/
def State.queueWaiters (s : State) (o : QOp) : List Nat :=
  match o.who with
  | .fibres c slot fids => fids.filter fun fid =>
      match (s.fibre? c slot fid).bind (·.wait) with
      | some (.queue id) | some (.keeper id) => id == o.id
      | _ => false
  | _ => []

/-- The fibres of a queue instruction go on once the keeper has answered for every active lane (R257): those whose operation failed trap. -/
def State.laneAnswers (s : State) (c slot grp : Nat) : State :=
  match s.team? c slot, s.qops.any (·.grp == grp) with
  | some t, false =>
    let mine := t.fibres.filterMap fun f => match f.wait with
      | some (.answered g fault) => if g = grp then some (f.fid, fault) else none
      | _ => none
    let s := s.complete c slot ((mine.filter (·.2.isNone)).map (·.1)) (s.now c + 1)
    let bad := mine.filterMap fun x => x.2.map (x.1, ·)
    bad.foldl (fun s x =>
      s.failWaiting c slot x.1 { x.2 with lmask := some (laneMask t ((bad.filter (·.2.cause == x.2.cause)).map (·.1))) }) s
  | _, _ => s

/-- The keeper has answered for some lanes of an instruction. -/
def State.laneAnswered (s : State) (c slot grp : Nat) (ws : List Nat) (fault : Option Trap) : State :=
  (s.modTeam c slot (·.modGang ws fun f => { f with wait := some (.answered grp fault) })).laneAnswers c slot grp

/-- An operation returns (R260): its status, its element, and the scope of an acquire (R261). -/
def State.queueReply (s : State) (o : QOp) (ok : Bool) (wide : Bool) (x : Option Nat) (acq : Option Nat) : State :=
  match o.who with
  | .fibres c slot _ =>
    let ws := s.queueWaiters o
    let s := match acq with | some sc => s.acquire c (BitVec.ofNat 3 sc) | none => s
    let s := match x with | some v => s.answer c slot ws o.dst wide (BitVec.ofNat 64 v) | none => s
    (s.answer c slot ws o.status false (if ok then 1 else 0)).laneAnswered c slot o.grp ws none
  | .engine c cmd _ _ => match o.tgt with
      | .ring k _ => s.copyTargetDone c cmd k
      | .global .. => s
  | .notice c =>
    match o.tgt with
    | .global _ va ctx =>
      let s := s.modCore c fun k => { k with notices := match k.notices.findIdx? (fun n => n.1 == ctx && n.2.1 == va) with
        | some i => k.notices.eraseIdx i
        | none => k.notices }
      if (s.core c).notices.isEmpty then s else s.spawn .noticePush { core := c }
    | .ring .. => s
  | .replay .. => s

/-- The cause of a failed operation in each of its fibres (R266); a completion push raises it in the copy's fibre (R268), and a notice is
reported (R282). -/
def State.queueFail (s : State) (o : QOp) (tr : Trap) : State :=
  let later (s : State) (c slot fid : Nat) : State := s.modFibre c slot fid fun f => { f with pendTrap := f.pendTrap <|> some tr }
  match o.who with
  | .fibres c slot _ =>
    let ws := s.queueWaiters o
    s.laneAnswered c slot o.grp ws (some tr)
  | .engine c _ slot fid => (later s c slot fid).queueReply o false false none none
  | .notice _ => s.report.queueReply o false false none none
  | .replay c slot fid _ => later s c slot fid

def corrupt : Trap := { cause := .queueCorrupt }

/-- A drop on a closed queue is counted (R251, R268, R282). -/
def QWho.counted : QWho → Bool
  | .fibres .. => false
  | _ => true

-- the keeper

def State.dropOp (s : State) (o : QOp) : State := { s with qops := s.qops.filter (·.id != o.id) }

/-- A parked operation leaves the keeper's store, and `WSUM` falls (R251). -/
def State.unpark (s : State) (o : QOp) : State := (s.dropOp o).writeBlock o.tgt (wsumAdd (s.readBlock o.tgt) o.kind false)

/-- Poison a block (R253): `STATE` 3, and every parked operation is woken with its cause. -/
def State.poisonBlock (s : State) (t : QTgt) : State :=
  let parked := s.parkedOn t
  let s := s.writeBlock t (putField (s.readBlock t) 0x17 1 3)
  parked.foldl (fun s o => (s.dropOp o).queueFail o corrupt) s

/-- The element size of an operation differs from `ESZ` (R260). -/
def QOp.sizeBad (o : QOp) (b : List Byte) : Bool :=
  match o.who, o.kind with
  | .fibres .., .push _ wide _ | .fibres .., .pop wide _ | .fibres .., .peek wide => wide != (Block.esz b % 2 == 1)
  | _, _ => false

/-- What an operation comes to when the keeper tries it: performed, to be parked, or a wrong phase (R267). -/
inductive QTry where
  | done (s : State)
  | park
  | phase

/-- `Push` of R260. -/
def State.tryPush (s : State) (o : QOp) (x : BitVec 64) (tried behind : Bool) : QTry :=
  let b := s.readBlock o.tgt
  if Block.state b = 1 then
    let s := if o.who.counted then s.writeBlock o.tgt (putField b 0x2C 2 (min (Block.drops b + 1) 0xFFFF)) else s
    .done (s.queueReply o false false none (some (Block.scope b)))
  else if Block.state b = 2 || Block.free b = 0 || behind then (if tried then .done (s.queueReply o false false none none) else .park)
  else if o.tgt.ring? && Block.pushPhaseBad b then .phase
  else
    let i := Block.tail b % Block.slots b
    let s := s.slotWrite o.tgt b i x.toNat
    let b := if o.tgt.ring? then
        putField b 0x20 8 (Block.phase b - bits (Block.phase b) i 1 * 2 ^ i + Block.lap b (Block.tail b) * 2 ^ i)
      else b
    let b := putField (putField b 0x0C 4 (Block.tail b + 1)) 0x10 4 (Block.free b - 1)
    .done ((s.writeBlock o.tgt b).queueReply o true false none none)

/-- `Pop` of R260. -/
def State.tryPop (s : State) (o : QOp) (wide tried behind : Bool) : QTry :=
  let b := s.readBlock o.tgt
  if Block.occ b = 0 || behind then
    if Block.state b = 1 && Block.occ b = 0 then .done (s.queueReply o false wide none (some (Block.scope b)))
    else if tried then .done (s.queueReply o false wide none none) else .park
  else if o.tgt.ring? && Block.popPhaseBad b then .phase
  else
    let x := s.slotRead o.tgt b (Block.head b % Block.slots b)
    let b' := putField (putField b 0x08 4 (Block.head b + 1)) 0x10 4 (Block.free b + 1)
    .done ((s.writeBlock o.tgt b').queueReply o true wide (some x) (some (Block.scope b)))

/-- A parked operation has become possible (R256, R260, R265). -/
def QKind.possible (k : QKind) (b : List Byte) : Bool :=
  match k with
  | .push .. => Block.state b == 1 || (Block.state b == 0 && Block.free b != 0)
  | .pop .. => Block.state b == 1 || Block.occ b != 0
  | .drain => Block.occ b == 0
  | _ => false

/-- The keeper performs the parked operations that have become possible, oldest first (R256, R260, R265). A drain that is still parked when
`qinit` has opened the queue and an older parked push has filled it again stays parked on an open queue: the spec does not say whether
`STATE` is draining again (notes/assumptions/65.md). -/
def State.qEvaluate (s : State) (t : QTgt) : Nat → State
  | 0 => s
  | n + 1 =>
    let b := s.readBlock t
    match (s.parkedOn t).find? fun o => o.sizeBad b || o.kind.possible b with
    | none => s
    | some o =>
      if o.sizeBad b then State.qEvaluate ((s.unpark o).queueFail o (memTrap .permitDenied o.ea true)) t n
      else
        let go (r : QTry) : State := match r with
          | .done s => State.qEvaluate s t n
          | _ => s.poisonBlock t
        match o.kind with
        | .push x _ tried => go ((s.unpark o).tryPush o x tried false)
        | .pop wide tried => go ((s.unpark o).tryPop o wide tried false)
        | _ =>
          let s := if Block.state b = 2 then s.writeBlock t (putField b 0x17 1 0) else s
          let drains := (s.parkedOn t).filter fun p => p.kind == .drain
          State.qEvaluate (drains.foldl (fun s p => (s.unpark p).queueReply p true false none none) s) t n

/-- After a change of the queue, the parked operations are looked at. -/
def State.qChanged (s : State) (t : QTgt) : State := s.qEvaluate t ((s.parkedOn t).length + 1)

/-- The keeper of a block (R250, R326): its L2 slice, or its core. -/
def QTgt.keeper : QTgt → Nat
  | .global pa _ _ => 2 ^ 20 + pa / 2 ^ 38 * 64 + (bits pa 6 6 ^^^ bits pa 12 6 ^^^ bits pa 18 6 ^^^ bits pa 24 6)
  | .ring c _ => c

/-- Parked operations that a keeper holds at most (R256). -/
def QTgt.room : QTgt → Nat
  | .global .. => 4096
  | .ring .. => 1024

/-- Park an operation; one that finds the store full is sent again (R256). -/
def State.parkOp (s : State) (o : QOp) (again : Instr) : State :=
  if o.tgt.room ≤ (s.qops.filter fun p => p.parked && p.tgt.keeper == o.tgt.keeper).length then
    { s with qops := (s.dropOp o).qops ++ [o] }.spawn again { id := o.id }
  else
    let b := s.readBlock o.tgt
    let b := if o.kind == .drain && Block.state b == 0 then putField b 0x17 1 2 else b
    { s with qops := (s.dropOp o).qops ++ [{ o with parked := true }] }.writeBlock o.tgt (wsumAdd b o.kind true)

/-- The fresh block of `qinit` (R259). -/
def Block.init (ring : Bool) (old : List Byte) (base : BitVec 64) (cfg : BitVec 32) : List Byte :=
  let log2 := bits cfg.toNat 0 5
  let n := 2 ^ log2
  leBytes base.toNat 8 ++ leBytes 0 8 ++ leBytes n 4 ++ leBytes log2 1 ++ leBytes (bits cfg.toNat 5 1) 1 ++
    leBytes (bits cfg.toNat 6 3) 1 ++ leBytes 0 1 ++ leBytes (Block.wsum old % 2 ^ 48) 8 ++ leBytes (if ring then 2 ^ n - 1 else 0) 8 ++
    leBytes 0 24

/-- The word of `qstat` (R263). -/
def State.statWord (s : State) (t : QTgt) : Nat :=
  let b := s.readBlock t
  let parked (l : Nat) : Nat := if (s.parkedOn t).any fun o => o.kind.lane == l then 1 else 0
  Block.drops b * 2 ^ 48 + parked 2 * 2 ^ 45 + parked 1 * 2 ^ 44 + parked 0 * 2 ^ 43 + Block.scope b % 8 * 2 ^ 40 +
    Block.esz b % 2 * 2 ^ 39 + Block.log2 b % 32 * 2 ^ 34 + Block.state b % 4 * 2 ^ 32 + Block.occ b

/-- The keeper performs one operation (R253, R255, R259-R266), or parks it. -/
def State.queuePerform (s : State) (o : QOp) (again : Instr) : State :=
  let b := s.readBlock o.tgt
  let ring := o.tgt.ring?
  match o.kind with
  | .init base cfg =>
    (((s.dropOp o).writeBlock o.tgt (Block.init ring b base cfg)).queueReply o true false none none).qChanged o.tgt
  | .stat =>
    let s := if Block.inconsistent ring b then s.poisonBlock o.tgt else s
    (s.dropOp o).queueReply o true true (some (s.statWord o.tgt)) none
  | _ =>
    if o.sizeBad b then (s.dropOp o).queueFail o (memTrap .permitDenied o.ea true)
    else if Block.inconsistent ring b then ((s.dropOp o).poisonBlock o.tgt).queueFail o corrupt
    else if Block.state b = 3 then (s.dropOp o).queueFail o corrupt
    else
      let behind := (s.parkedOn o.tgt).any fun p => p.kind.lane == o.kind.lane
      let go (r : QTry) : State := match r with
        | .done s => s.qChanged o.tgt
        | .park => s.parkOp o again
        | .phase => ((s.dropOp o).poisonBlock o.tgt).queueFail o corrupt
      match o.kind with
      | .push x _ tried => go ((s.dropOp o).tryPush o x tried behind)
      | .pop wide tried => go ((s.dropOp o).tryPop o wide tried behind)
      | .peek wide =>
        if Block.occ b = 0 then
          (s.dropOp o).queueReply o false wide none none
        else if ring && Block.popPhaseBad b then ((s.dropOp o).poisonBlock o.tgt).queueFail o corrupt
        else
          let x := s.slotRead o.tgt b (Block.head b % Block.slots b)
          (s.dropOp o).queueReply o true wide (some x) (some (Block.scope b))
      | .close =>
        (((s.dropOp o).writeBlock o.tgt (putField b 0x17 1 1)).queueReply o true false none none).qChanged o.tgt
      | _ => if Block.occ b = 0 then (s.dropOp o).queueReply o true false none none else s.parkOp o again

/-- A ring's keeper waits for older scratchpad accesses to its block and slots, and for older range entries over them, its own copy's
apart (R184, R186). -/
def State.ringHeld (s : State) (o : QOp) : Bool :=
  match o.tgt with
  | .global .. => false
  | .ring c off =>
    let b := s.readBlock o.tgt
    let base := Block.base b % 2 ^ 32
    let span := 2 ^ min (Block.log2 b) 6 * if Block.esz b % 2 = 1 then 8 else 4
    let hits (lo hi : Nat) : Bool := (decide (lo < off + 64) && decide (off < hi)) || (decide (lo < base + span) && decide (base < hi))
    let own := match o.who with | .engine _ cmd _ _ => some cmd | _ => none
    ((s.core c).bankq.any fun r => decide (r.op < o.id) && hits r.word (r.word + 4)) ||
    (s.core c).ranges.any fun r => decide (r.id < o.id) && own != some r.cmd && hits r.lo r.hi

/-- An operation is the next of its core that its keeper has not received (R255). -/
def State.queueNext (s : State) (o : QOp) : Bool :=
  !((s.qops.takeWhile (·.id != o.id)).any fun p => !p.parked && p.who.core == o.who.core && p.tgt.keeper == o.tgt.keeper)

/-- The keeper receives operation `id` of the senders given, if it may, with those that came with it: the lanes of one instruction that
name one queue arrive together, in lane order (R255). -/
def State.queueReceive (s : State) (id : Nat) (mine : QWho → Bool) (ev : Instr) : State :=
  match s.qops.find? fun o => o.id == id && !o.parked && mine o.who with
  | none => s
  | some o =>
    if !s.queueNext o || s.ringHeld o then s.spawn ev { id := id }
    else
      (s.qops.filter fun p => !p.parked && p.grp == o.grp && p.tgt.same o.tgt).foldl (fun s p =>
        let gone := match p.who, p.tgt with
          | .fibres c slot _, .ring k off => k != c && (match s.team? c slot with | some t => !s.clusterHolds t.ctx k (.desc 0) off | none => false)
          | _, _ => false
        if gone then (s.dropOp p).queueFail p (memTrap .permitDenied p.ea true) else s.queuePerform p ev) s

/-- The lanes of a team's queue instructions that have all been answered go on (R257). -/
def State.lanesGoOn (s : State) (c slot : Nat) : State :=
  match s.team? c slot with
  | none => s
  | some t =>
    ((t.fibres.filterMap fun f => match f.wait with | some (.answered g _) => some g | _ => none).eraseDups).foldl
      (fun s g => s.laneAnswers c slot g) s

/-- R255; and the lanes that waited for one that has been withdrawn. -/
def execQueueOpAtKeeper (s : State) : Host.Outcome State Fault Refusal :=
  .next ((s.queueReceive s.par.id (fun w => match w with | .fibres .. => true | _ => false) .queueOpAtKeeper).lanesGoOn s.par.core s.par.slot)

/-- R268, R286. -/
def execEnginePush (s : State) : Host.Outcome State Fault Refusal :=
  .next (s.queueReceive s.par.id (fun w => match w with | .engine .. | .replay .. => true | _ => false) .enginePush)

/-- R282: the oldest notice of a mailbox onto which the core has no push under way is sent; and the keeper receives a push that was sent. -/
def execNoticePush (s : State) : Host.Outcome State Fault Refusal :=
  let c := s.par.core
  let s := s.queueReceive s.par.id (fun w => match w with | .notice _ => true | _ => false) .noticePush
  let sent (ctx va : Nat) : Bool := s.qops.any fun o => o.who == .notice c && match o.tgt with | .global _ a x => a == va && x == ctx | _ => false
  match (s.core c).notices.find? fun n => !sent n.1 n.2.1 with
  | none => .next s
  | some (ctx, va, w) =>
    let (id, s) := s.fresh
    let op (pa : Nat) : QOp :=
      { id := id, who := .notice c, tgt := .global pa va ctx, kind := .push w true false, dst := .imm 0, status := .imm 0, parked := false, grp := id,
        ea := va }
    match s.lookWalk ctx (s.context ctx).world .atomic va with
    | .ok l =>
      if l.apt < 2 && va % 64 == 0 then
        .next ({ s with qops := s.qops ++ [op (l.phys va)] }.spawn .noticePush { core := c, id := id })
      else .next (s.report.queueReply (op 0) false false none none)
    | _ => .next (s.report.queueReply (op 0) false false none none)

-- the instructions

/-- The block that an address names, as judged at check 10 (R250, R266): the block, a cause, or none while a walk goes on. -/
def State.judgeQueue (s : State) (c : Nat) (t : Team) (ea : Nat) : Except (Option Trap) QTgt :=
  let tag := ea / 2 ^ 56
  let addr := ea % 2 ^ 32
  let denied : Except (Option Trap) QTgt := .error (some (memTrap .permitDenied ea true))
  if tag ≠ 0 && tag ≠ 0xFE && tag ≠ 0xFD then .error (some (memTrap .pageFault ea true))
  else if ea % 64 ≠ 0 then .error (some (memTrap .misaligned ea true))
  else if tag = 0xFE then
    if bits ea 32 24 == 0 && decide (addr < 2 ^ 20) && t.holds (.desc 0) addr then .ok (.ring c addr) else denied
  else if tag = 0xFD then
    if bits ea 32 24 != 0 then denied
    else match s.judgeSpad c t true (.desc 0) addr ea with
      | .ok g => .ok (.ring (spCore g) (spOff g))
      | .error _ => denied
  else match s.look c t.ctx t.world .atomic ea with
    | .miss => .error none
    | .fault x => .error (some (memTrap x ea true))
    | .ok l => if l.apt < 2 then .ok (.global (l.phys ea) ea t.ctx) else denied

/-- The page of a global block, as virtual bounds. -/
def State.pageOf (s : State) (c ctx va : Nat) : Nat × Nat :=
  match (s.core c).tlb.find? (·.covers ctx va) with
  | some e => (e.va, e.va + e.leaf.size)
  | none => (0, 0)

/-- The limits of `qinit` (R250, R259). -/
def State.initOk (s : State) (c : Nat) (t : Team) (tgt : QTgt) (base : BitVec 64) (cfg : BitVec 32) : Bool :=
  let log2 := bits cfg.toNat 0 5
  let size := if cfg.getLsbD 5 then 8 else 4
  let scope := bits cfg.toNat 6 3
  let span := 2 ^ log2 * size
  let b := base.toNat
  let apart (lo blk : Nat) : Bool := decide (lo + span ≤ blk) || decide (blk + 64 ≤ lo)
  cfg.toNat < 2 ^ 9 && b % size == 0 && scope != 0 &&
  match tgt with
  | .global _ va ctx =>
    let (lo, hi) := s.pageOf c ctx va
    decide (log2 ≤ 24) && decide (scope ≤ 5) && decide (lo ≤ b) && decide (b + span ≤ hi) && apart b va
  | .ring k off =>
    let a := b % 2 ^ 32
    decide (log2 ≤ 6) && decide (scope ≤ 3) && b / 2 ^ 32 == 0xFE000000 && apart a off &&
    ((if k = c && t.holds (.desc 0) off then [t] else (s.core k).teams.filter fun u => u.ctx == t.ctx && u.holds (.desc 0) off).any fun u =>
      decide (u.spadBase ≤ a) && decide (a + span ≤ u.spadBase + u.spadSize))

/-- How a queue instruction goes: its operation per lane or for the gang (R258), whether it waits by R190 (R261, R264), and whether it
may park (R257). -/
structure QForm where
  gang : Bool
  rel : Bool
  parks : Bool
  kind : Ctx → State → Nat → QKind
  dst : Operand
  status : Operand

/-- The fibre has a queue instruction ready to send, each of its fibres in a gang form. -/
def State.readyToSend (s : State) (c : Nat) (t : Team) (f : Fibre) : Bool :=
  match f.sending with
  | some (pc, n) =>
    f.runnable && f.bond == 0 && pc == f.pc &&
      (t.fibres.filter fun g => g.sending == some (pc, n)).all fun g => s.relReady c t.slot g.fid && !s.acqOpen c t.slot g.fid
  | none => false

/-- Of the queue instructions of a core that have become ready to send, one that issued first goes first (R255): another goes before the
one of fibre `fid`. -/
def State.sendsBefore (s : State) (c slot : Nat) (pc : BitVec 56) (fid : Nat) : Bool :=
  let mine := match (s.fibre? c slot fid).bind (·.sending) with
    | some (p, n) => if p = pc then n else s.uid
    | none => s.uid
  (s.core c).teams.any fun t => t.fibres.any fun f => s.readyToSend c t f && (f.sending.any fun x => decide (x.2 < mine))

/-- A queue instruction that has to wait before it is sent keeps its place in the order of issue (R255). -/
def State.keepPlace (s : State) (c slot : Nat) (pc : BitVec 56) (fids : List Nat) : State :=
  let (id, s) := s.fresh
  s.modTeam c slot fun t =>
    { t with fibres := modWhere (fun g => fids.contains g.fid && !(g.sending.any fun x => x.1 == pc)) (fun g => { g with sending := some (pc, id) }) t.fibres }

/-- One operation of a queue instruction, for a lane or for the gang; `grp` is the number that the lanes share. -/
def queueLane (f : FM) (q : QForm) (grp : Nat) (x : Ctx) (t : Team) (acc : State × List (Nat × LaneRes)) (fids : List Nat) :
    State × List (Nat × LaneRes) :=
  let s := acc.1
  let all (r : LaneRes) : List (Nat × LaneRes) := acc.2 ++ fids.map (·, r)
  match fids with
  | [] => acc
  | lead :: _ =>
    let ea := x.ea s lead f
    match s.judgeQueue x.core t ea with
    | .error (some tr) => (if ea / 2 ^ 56 = 0 then s.takeFail x.core t.ctx ea else s, all (.trap tr))
    | .error none => (s.beginWalk x.core t.ctx ea, all .retry)
    | .ok tgt =>
      let k := q.kind x s lead
      let bad := match k with | .init base cfg => !s.initOk x.core t tgt base cfg | _ => false
      if bad then (s, all (.trap (memTrap .permitDenied ea true)))
      else if q.rel && !fids.all (s.relReady x.core x.slot) then
        (fids.foldl (fun s fid => if s.relReady x.core x.slot fid then s else s.releaseWork x.core x.slot fid)
          (s.keepPlace x.core x.slot x.pc fids), all .waitAgain)
      else if fids.any (s.acqOpen x.core x.slot) || s.sendsBefore x.core x.slot x.pc lead then (s.keepPlace x.core x.slot x.pc fids, all .retry)
      else
        let (id, s) := s.fresh
        let o : QOp :=
          { id := id, who := .fibres x.core x.slot fids, tgt := tgt, kind := k, dst := q.dst, status := q.status, parked := false, grp := grp, ea := ea }
        let w : Wait := if q.parks then .queue id else .keeper id
        let s := fids.foldl (fun s fid =>
          (s.modFibre x.core x.slot fid fun g => { g with wait := some w, sending := none }).watchLater x fid ea 64 true k.writes) s
        ({ s with qops := s.qops ++ [o] }.spawn .queueOpAtKeeper { id := id }, all .block)

/-- A queue instruction: its lanes, or the gang. A lane that faults at once traps with the others' answers (R257). -/
def queueBody (f : FM) (q : QForm) (x : Ctx) (s : State) : State × List (Nat × LaneRes) :=
  match x.team s with
  | none => (s, [])
  | some t =>
    let (grp, s) := s.fresh
    let r := (if q.gang then [x.act] else x.act.map fun fid => [fid]).foldl (queueLane f q grp x t) (s, [])
    if r.2.any (·.2 == .block) then
      let bad := r.2.filterMap fun p => p.2.trap?.map (p.1, ·)
      (bad.foldl (fun s p => s.modFibre x.core x.slot p.1 fun g => { g with wait := some (.answered grp (some p.2)), sending := none }) r.1,
        r.2.map fun p => (p.1, if p.2.trap?.isSome then .block else p.2))
    else r

def execQinit (f : FM) (s : State) : Host.Outcome State Fault Refusal :=
  issue (.qinit f) f.h noCheck (queueBody f ⟨true, false, false,
    fun x s _ => .init (x.rdU s true f.d) ((x.rdU s false f.b).setWidth 32), .imm 0, .imm 0⟩) s

/-- The element of a push (R206, R260). -/
def pushKind (f : FM) (tried : Bool) (x : Ctx) (s : State) (fid : Nat) : QKind :=
  let wide := Wf.tyWide f.t1
  let v := x.rd s fid wide f.d
  .push (if wide then v else v &&& 0xFFFFFFFF) wide tried

def execQpush (f : FM) (s : State) : Host.Outcome State Fault Refusal :=
  issue (.qpush f) f.h noCheck (queueBody f ⟨isUniform f.d, true, true, pushKind f false, .imm 0, f.b⟩) s

def execQtpush (f : FM) (s : State) : Host.Outcome State Fault Refusal :=
  issue (.qtpush f) f.h noCheck (queueBody f ⟨isUniform f.d, true, false, pushKind f true, .imm 0, f.b⟩) s

def execQpop (f : FM) (s : State) : Host.Outcome State Fault Refusal :=
  issue (.qpop f) f.h noCheck
    (queueBody f ⟨isUniform f.d, false, true, fun _ _ _ => .pop (Wf.tyWide f.t1) false, f.d, f.b⟩) s

def execQtpop (f : FM) (s : State) : Host.Outcome State Fault Refusal :=
  issue (.qtpop f) f.h noCheck
    (queueBody f ⟨isUniform f.d, false, false, fun _ _ _ => .pop (Wf.tyWide f.t1) true, f.d, f.b⟩) s

def execQpeek (f : FM) (s : State) : Host.Outcome State Fault Refusal :=
  issue (.qpeek f) f.h noCheck
    (queueBody f ⟨isUniform f.d, false, false, fun _ _ _ => .peek (Wf.tyWide f.t1), f.d, f.b⟩) s

def execQstat (f : FM) (s : State) : Host.Outcome State Fault Refusal :=
  issue (.qstat f) f.h noCheck (queueBody f ⟨true, false, false, fun _ _ _ => .stat, f.d, .imm 0⟩) s

def execQclose (f : FM) (s : State) : Host.Outcome State Fault Refusal :=
  issue (.qclose f) f.h noCheck (queueBody f ⟨true, true, false, fun _ _ _ => .close, .imm 0, .imm 0⟩) s

def execQdrain (f : FM) (s : State) : Host.Outcome State Fault Refusal :=
  issue (.qdrain f) f.h noCheck (queueBody f ⟨true, false, true, fun _ _ _ => .drain, .imm 0, .imm 0⟩) s

end Sys2Proof.Machine
end

