-- ==== Sys2Proof/Machine/Sched.lean ====
section
/-!
DEFINITION. What the die scheduler does (R346-R368): the records it reads, the domains of a launch, which cores qualify, the set-up of a
team, its termination (R292), the continuation queues with the range matcher, and join counters.
-/
namespace Sys2Proof.Machine

open Sys2Proof

-- reads of records

/-- What a fibre's record reads have received from other packages. -/
def Core.received (k : Core) (slot fid : Nat) : List (Nat × List Byte) :=
  (k.rrecs.filter fun e => e.1 == slot && e.2.1 == fid && e.2.2.2.2 == 0).map fun e => (e.2.2.1, e.2.2.2.1)

/-- A read by a fibre, through its core's TLB, behind its side-log entries of the granule (R210, R361). -/
def State.fibreRead (s : State) (c : Nat) (t : Team) (fid va n : Nat) : Rd :=
  match (s.core c).rrecs.find? fun e => e.1 == t.slot && e.2.1 == fid && e.2.2.2.2 != 0 with
  | some e => .cause { memTrap (Cause.ofCode (e.2.2.2.2 % 32)) e.2.2.1 false with info := if 32 ≤ e.2.2.2.2 then 16 else 0 }
  | none => s.readPieces (some c) t.world (s.look c t.ctx t.world .read) ((s.core c).received t.slot fid) (n / 2 ^ 16 + 2) va n

/-- What a read that has not its bytes yet leaves behind: a walk, a failed walk taken, a request to another package. -/
def State.afterRead (s : State) (c : Nat) (t : Team) (fid : Nat) : Rd → State
  | .walk va => s.beginWalk c t.ctx va
  | .cause tr => (s.takeFail c t.ctx tr.addr.toNat).modCore c fun k =>
      { k with rrecs := k.rrecs.filter fun e => !(e.1 == t.slot && e.2.1 == fid) }
  | .need va n l =>
    let w : RemoteFor := .record c t.slot fid va n
    if s.forum.out.any fun o => o.what == w then s else s.remoteAsk l va (l.ord == 0) w
  | .bytes _ => s

/-- The received bytes of a fibre are used up. -/
def State.forgetReads (s : State) (c slot fid : Nat) : State :=
  s.modCore c fun k => { k with rrecs := k.rrecs.filter fun e => !(e.1 == slot && e.2.1 == fid) }

-- the launch record (R349)

def LaunchRec.parse (b : List Byte) : LaunchRec where
  ver := field b 0 2
  nlv := field b 2 1
  flags := BitVec.ofNat 8 (field b 3 1)
  win := field b 4 2
  l1 := field b 6 2
  spad := field b 8 4
  teams := field b 0x0C 4
  entry := field b 0x10 8
  roles := (List.range 4).map fun i => BitVec.ofNat 64 (field b (0x18 + 8 * i) 8)
  srseed := BitVec.ofNat 64 (field b 0x38 8)
  tvec := BitVec.ofNat 64 (field b 0x40 8)
  tmask := BitVec.ofNat 64 (field b 0x48 8)
  fmbox := BitVec.ofNat 64 (field b 0x50 8)
  pinpool := field b 0x58 8
  pincnt := field b 0x60 4
  cbn := field b 0x64 1
  dbn := field b 0x65 1
  join := field b 0x68 8
  tarimg := field b 0x70 8
  tdimg := field b 0x78 8
  unimg := field b 0x80 8
  ppt := field b 0x88 8
  pptn := field b 0x90 4
  bars := (List.range 16).map fun i => BitVec.ofNat 32 (field b (0xA0 + 4 * i) 4)
  levels := (List.range 7).map fun i => BitVec.ofNat 64 (field b (0xE0 + 8 * i) 8)
  rsvZero := field b 0x66 2 == 0 && field b 0x94 12 == 0 && field b 0x118 8 == 0

/-- The declared levels above `lv0`: kind code and count. -/
def LaunchRec.lv (r : LaunchRec) : List (Nat × Nat) :=
  (r.levels.take r.nlv).map fun w => ((w.extractLsb' 0 4).toNat, (w.extractLsb' 32 32).toNat)

/-- Fibres of a role, and its entry offset. -/
def LaunchRec.role (r : LaunchRec) (i : Nat) : Nat × Nat :=
  let w := nth 0 r.roles i
  ((w.extractLsb' 32 11).toNat, (w.extractLsb' 0 32).toNat)

def LaunchRec.fibres (r : LaunchRec) : Nat := ((List.range 4).map fun i => (r.role i).1).sum

/-- Kinds rise from level to level (R346). -/
def rising : List Nat → Bool
  | a :: b :: r => decide (a < b) && rising (b :: r)
  | _ => true

/-- The record is not malformed (R351, `0xFFFF_FF01`). -/
def LaunchRec.wellFormed (r : LaunchRec) : Bool :=
  let kinds := r.lv.map (·.1)
  r.rsvZero && r.ver == 1 && decide (r.nlv ≤ 7) && r.flags.extractLsb' 3 5 == 0 &&
  decide (8 ≤ r.win) && decide (r.win ≤ 256) && r.win % 8 == 0 && (r.l1 == 64 || r.l1 == 128 || r.l1 == 192 || r.l1 == 256) &&
  r.spad % 256 == 0 && decide (r.spad ≤ 576 * 1024) && r.entry % 16 == 0 &&
  (r.roles.all fun w => w.extractLsb' 43 21 == 0 && w.extractLsb' 0 2 == 0) &&
  r.pinpool % 2 ^ 16 == 0 && decide (1 ≤ r.pincnt) && decide (r.pincnt ≤ 65535) && decide (r.cbn ≤ 64) && decide (r.dbn ≤ 64) &&
  (r.bars.all fun w => decide (1 ≤ (w.extractLsb' 0 11).toNat) && decide ((w.extractLsb' 0 11).toNat ≤ 1024) && w.extractLsb' 11 5 == 0 &&
    w.extractLsb' 20 12 == 0) &&
  (r.levels.all fun w => w.extractLsb' 4 28 == 0) && ((r.levels.drop r.nlv).all (· == 0)) &&
  (kinds.all fun k => decide (1 ≤ k) && decide (k ≤ 8)) && rising kinds && (r.lv.all fun l => l.1 != 8 || decide (l.2 ≤ 1)) &&
  decide (1 ≤ r.fibres) && decide (r.fibres ≤ 1024)

-- domains (R346, R347)

/-- A domain: its package, its kind, and its number in the package: cores, quads, blocks and clusters counted by cluster, dies; the
group for kind 7. -/
structure Dom where
  pkg : Nat
  kind : Nat
  id : Nat
  deriving DecidableEq, Repr

/-- Domains of a kind in one cluster (R307). -/
def perCluster (kind : Nat) : Nat := if kind = 1 then 256 else if kind = 2 then 64 else if kind = 3 then 16 else 1

/-- The packages of the fabric domain, this one among them, with their groups, by number. -/
def State.packages (s : State) : List (Nat × Nat) :=
  sortBy (·.1) ((s.forum.pkg.toNat, s.forum.fgrp.toNat) :: s.forum.peers.filter (·.1 != s.forum.pkg.toNat))

/-- The packages of a domain. -/
def State.domPkgs (s : State) (p : Dom) : List Nat :=
  if p.kind = 7 then (s.packages.filter (·.2 == p.id)).map (·.1) else if p.kind = 8 then s.packages.map (·.1) else [p.pkg]

/-- The fabric groups that hold a package, ascending. -/
def State.groups (s : State) : List Nat := sortBy id ((s.packages.map (·.2)).eraseDups)

/-- Domains of a kind in one package, within a domain of kind 4 or wider: the first and how many. -/
def pkgSubs (p : Dom) (kind : Nat) : Nat × Nat :=
  if kind = 6 then (0, 1)
  else if kind = 5 then (0, 8)
  else
    let (c0, n) := if p.kind = 4 then (p.id, 1) else if p.kind = 5 then (2 * p.id, 2) else (0, 16)
    (c0 * perCluster kind, n * perCluster kind)

/-- The number of domains of a kind in a domain. -/
def State.subCount (s : State) (p : Dom) (kind : Nat) : Nat :=
  if p.kind ≤ 3 then (if p.kind = 3 then (if kind = 1 then 16 else 4) else 4)
  else if kind = 7 then s.groups.length
  else (s.domPkgs p).length * (pkgSubs p kind).2

/-- Domain number `i` of a kind in a domain, in the order of R346. -/
def State.sub (s : State) (p : Dom) (kind i : Nat) : Dom :=
  if p.kind = 3 then
    let c := p.id / 16
    let b := p.id % 16
    if kind = 1 then ⟨p.pkg, 1, 256 * c + 16 * (4 * (b / 4) + i / 4) + 4 * (b % 4) + i % 4⟩
    else ⟨p.pkg, 2, 64 * c + 8 * (2 * (b / 4) + i / 2) + 2 * (b % 4) + i % 2⟩
  else if p.kind = 2 then
    let c := p.id / 64
    let q := p.id % 64
    ⟨p.pkg, 1, 256 * c + 16 * (2 * (q / 8) + i / 2) + 2 * (q % 8) + i % 2⟩
  else if kind = 7 then ⟨p.pkg, 7, nth 0 s.groups i⟩
  else
    let (first, n) := pkgSubs p kind
    let pkg := nth 0 (s.domPkgs p) (i / max n 1)
    ⟨pkg, kind, if kind = 6 then pkg else first + i % max n 1⟩

/-- The cores of a domain that lie in this package. -/
def State.domCores (s : State) (p : Dom) : List Nat :=
  if p.kind = 1 then [p.id]
  else (((List.range (s.subCount p 1)).map (s.sub p 1)).filter (·.pkg == s.forum.pkg.toNat)).map (·.id)

/-- The root domain of a launch (R347). -/
def State.rootDom (s : State) (r : LaunchRec) (die : Nat) : Dom :=
  let top := match r.lv.getLast? with | some l => l.1 | none => 0
  let me := s.forum.pkg.toNat
  if top ≤ 4 then ⟨me, 5, die⟩ else if top = 5 then ⟨me, 6, me⟩ else if top = 6 then ⟨me, 7, s.forum.fgrp.toNat⟩ else ⟨me, 8, 0⟩

/-- The instances of `lv1` of a launch, in the launch as a whole (R348). -/
def LaunchRec.instances (r : LaunchRec) : Nat := if r.teams = 0 then 0 else (r.lv.map (·.2)).foldl (· * ·) 1

/-- The indices of instance `j` of `lv1`, level 1 first (R105). -/
def levelIdx : List (Nat × Nat) → Nat → List Nat
  | [], _ => []
  | l :: r, j => j % max l.2 1 :: levelIdx r (j / max l.2 1)

/-- The domain of instance `j` of `lv1`: from the root downward (R347). -/
def State.domOf (s : State) (r : LaunchRec) (die j : Nat) : Dom :=
  ((r.lv.zip (levelIdx r.lv j)).reverse).foldl (fun p l => s.sub p l.1.1 (l.2 % max (s.subCount p l.1.1) 1)) (s.rootDom r die)

/-- The die whose expander generates an instance (R354): that of its domain; the launch's own for a domain wider than a die that this
package lies in. -/
def State.dieOfDom (s : State) (l : Launch) (p : Dom) : Option Nat :=
  if (p.kind ≤ 6 && p.pkg != s.forum.pkg.toNat) || (p.kind = 7 && p.id != s.forum.fgrp.toNat) then none
  else if p.kind = 5 then some p.id
  else if p.kind ≤ 4 then some (p.id / (2 * perCluster p.kind))
  else some l.die

-- which cores qualify (R172, R355, R402)

/-- What a team needs: per role its fibres and entry, its window size and its scratchpad bytes. -/
structure Shape where
  roles : List (Role × Nat × BitVec 56)
  win : Nat
  spad : Nat

def Shape.fibres (h : Shape) : Nat := (h.roles.map (·.2.1)).sum

def Shape.matrix (h : Shape) : Bool := h.roles.any fun r => r.1 == .matrix && r.2.1 != 0

def LaunchRec.shape (r : LaunchRec) : Shape where
  roles := (List.range 4).map fun i => (roleOf i, (r.role i).1, BitVec.ofNat 56 (r.entry + (r.role i).2))
  win := r.win
  spad := r.spad

/-- The shape of a continuation record (R357, R358). -/
def ContRec.form (q : ContRec) : Shape where
  roles := (List.range 4).map fun i => (roleOf i, (q.shape.extractLsb' (11 * i) 11).toNat, BitVec.ofNat 56 q.code)
  win := 8 * ((q.shape.extractLsb' 44 5).toNat + 1)
  spad := 256 * (q.shape.extractLsb' 49 12).toNat

/-- Windows of a shape on a core (R101), by the windows in use. -/
def Shape.place (h : Shape) (ws : List (Nat × Nat × Nat)) : Option (List (Nat × Nat)) := placeAll (List.replicate h.fibres h.win) 0 ws

/-- The lowest free run of scratchpad (R176). -/
def Core.spadRun (k : Core) (size limit : Nat) : Option Nat :=
  let used := (k.teams.filter (·.spadSize != 0)).map fun t => (t.spadBase, t.spadSize)
  (sortBy id (0 :: used.map fun u => u.1 + u.2)).find? fun o =>
    decide (o + size ≤ limit) && !used.any fun u => decide (u.1 < o + size) && decide (o < u.1 + u.2)

/-- The world of a core (R401). -/
def State.coreWorld (s : State) (c : Nat) : Bool :=
  let i := c % 512
  (nth 0 (s.die (dieOf c)).wmcore (i / 64)).getLsbD (i % 64)

/-- No team is resident in the cluster of a core. -/
def State.clusterEmpty (s : State) (c : Nat) : Bool := !(s.coreNums.any fun x => clusOf x == clusOf c && !(s.core x).teams.isEmpty)

/-- The core has, or can take, the launch's L1 size and fused state (R172, R320, R355). -/
def State.stateFits (s : State) (c : Nat) (r : LaunchRec) : Bool :=
  let k := s.core c
  (k.fused == r.flags.getLsbD 0 && (k.l1kib == r.l1 || (!k.fused && k.teams.isEmpty))) || 
    ((k.fused || r.flags.getLsbD 0) && s.clusterEmpty c)

/-- The team frames of a context's pool in use. -/
def State.framesUsed (s : State) (ctx : Nat) : List Nat :=
  (s.allTeams.filter (·.2.ctx == ctx)).map (·.2.frame) ++
    (s.saved.filter fun x => x.team.ctx == ctx).map (·.team.frame)

/-- A free frame of a launch's pool (R350). -/
def State.freeFrame (s : State) (l : Launch) : Option Nat :=
  let used := s.framesUsed l.ctx
  ((List.range (min l.record.pincnt (used.length + 1))).map fun i => l.record.pinpool + 0x210000 * i).find? (!used.contains ·)

/-- R172, R355 and R402, and no resident team of another context, whose scratchpad R176 would clear. -/
def State.coreFits (s : State) (c : Nat) (l : Launch) (h : Shape) : Bool :=
  let k := s.core c
  !k.marked && decide (k.teams.length < 16) && s.coreWorld c == l.world && (k.teams.all (·.ctx == l.ctx)) && s.stateFits c l.record &&
  decide (k.fibreCount + h.fibres ≤ 1024) && (h.place k.windows).isSome && (k.spadRun h.spad (spadBytes l.record.l1)).isSome &&
  !(h.matrix && k.teams.any (·.matrix)) && !(l.record.cbn != 0 && k.teams.any (·.launch == l.num)) && (s.freeFrame l).isSome

/-- The qualifying core with the fewest teams, then the lowest number (R355). -/
def State.chooseCore (s : State) (cores : List Nat) (l : Launch) (h : Shape) : Option Nat :=
  match cores.filter fun c => s.coreFits c l h with
  | [] => none
  | c :: r => some (r.foldl (fun b x => if (s.core x).teams.length < (s.core b).teams.length then x else b) c)

-- set-up (R353, R358)

/-- The core takes the launch's fused state and L1 size (R320, R355). -/
def State.adopt (s : State) (c : Nat) (r : LaunchRec) : State :=
  let cluster := (List.range 256).map fun i => 256 * clusOf c + i
  let fuse := r.flags.getLsbD 0
  let s := if (s.core c).fused == fuse then s
    else cluster.foldl (fun s x => (s.evictAll x).modCore x fun k => { k with fused := fuse }) s
  (if fuse then cluster else [c]).foldl (fun s x => if (s.core x).l1kib = r.l1 then s else s.setCarve x r.l1) s

/-- An image by its bytes, all zero at address 0 (R349); the cause of its read. -/
def State.image (s : State) (l : Launch) (va n : Nat) : Except Trap (List Byte) :=
  if va = 0 then .ok (List.replicate n 0)
  else match s.schedRead l.ctx l.world l.images va n with
    | .bytes b => .ok b
    | .cause t => .error t
    | _ => .error (memTrap .pageFault va false)

/-- The descriptor entries of a launch that are not zero (R349). -/
def State.descImages (s : State) (l : Launch) (ptrs : List Byte) : Except Trap (List (Nat × BitVec 512)) :=
  (List.range 256).foldl (fun acc i =>
    match acc with
    | .error t => .error t
    | .ok ds =>
      let p := field ptrs (8 * i) 8
      if p = 0 then .ok ds
      else match s.image l p 64 with
        | .ok b => .ok (sparsePut 0 ds i (BitVec.ofNat 512 (leNat b)))
        | .error t => .error t) (.ok [])

/-- What a team takes from its launch's images: tariff, descriptors, uniform registers. -/
def State.images (s : State) (l : Launch) : Except Trap (List (BitVec 64) × List (Nat × BitVec 512) × List (BitVec 32)) :=
  match s.image l l.record.tarimg 384, s.image l l.record.tdimg 2048, s.image l l.record.unimg 1024 with
  | .error t, _, _ | _, .error t, _ | _, _, .error t => .error t
  | .ok tar, .ok ptrs, .ok uni =>
    match s.descImages l ptrs with
    | .error t => .error t
    | .ok ds =>
      .ok ((List.range 48).map fun i => BitVec.ofNat 64 (field tar (8 * i) 8), ds, (List.range 256).map fun i => BitVec.ofNat 32 (field uni (4 * i) 4))

/-- The record as a team's set-up reads it (R353): what its teams take from it may have changed since the launch, or its read meets a cause;
their number, shape and place are those of the launch. A share of another package's launch keeps what came with it. -/
def State.recordNow (s : State) (l : Launch) : Except Trap LaunchRec :=
  if l.share.isSome then .ok l.record
  else match s.schedRead l.ctx l.world l.images l.va 288 with
    | .bytes b =>
      let r := LaunchRec.parse b
      .ok { l.record with tarimg := r.tarimg, tdimg := r.tdimg, unimg := r.unimg, bars := r.bars, srseed := r.srseed, tvec := r.tvec,
                          tmask := r.tmask, flags := r.flags, fmbox := r.fmbox }
    | .cause t => .error t
    | _ => .ok l.record

/-- The initial fibres of a team (R96, R98, R101, R271). -/
def initialFibres (h : Shape) (bmem : Role → BitVec 16) (places : List (Nat × Nat)) : List Fibre :=
  let heads := h.roles.flatMap fun r => List.replicate r.2.1 (r.1, r.2.2)
  ((List.range heads.length).zip (heads.zip places)).map fun x =>
    let role := x.2.1.1
    { Fibre.blank with
      fid := x.1, role := role, pc := x.2.1.2, lane := x.2.2.1, wbase := x.2.2.2, wsize := h.win, regs := List.replicate h.win 0,
      bmem := bmem role }

/-- A team as it is set up in a slot (R353; R358 for a continuation). -/
def newTeam (l : Launch) (h : Shape) (cont : Option ContRec) (slot teamNo frame base : Nat) (lvidx : List Nat) (places : List (Nat × Nat))
    (img : List (BitVec 64) × List (Nat × BitVec 512) × List (BitVec 32)) : Team :=
  let r := l.record
  let members (n : Nat) (role : Role) : Bool :=
    let m := (nth 0 r.bars n).extractLsb' 16 4
    m == 0 || m.getLsbD (roleNum role)
  let bmem (role : Role) : BitVec 16 := match cont with
    | some _ => 0xFFFF
    | none => BitVec.ofNat 16 (maskOf ((List.range 16).filter fun n => members n role))
  let exp (n : Nat) : Nat := match cont with
    | some _ => h.fibres
    | none => ((nth 0 r.bars n).extractLsb' 0 11).toNat
  let pair (v : Nat) : List (BitVec 32) := [BitVec.ofNat 32 v, BitVec.ofNat 32 (v / 2 ^ 32)]
  let uregs := match cont with
    | some q => (List.range 4).flatMap fun _ => pair q.frame ++ pair q.join ++ List.replicate 60 0
    | none => img.2.2
  { Team.blank with
    slot := slot, ctx := l.ctx, world := l.world, launch := l.num, cont := cont.isSome, teamNo := teamNo, lvidx := lvidx, frame := frame,
    matrix := h.matrix, join := (cont.map (·.join)).getD 0, ranges := (cont.map (·.ranges)).getD [], spadBase := base, spadSize := h.spad,
    bars := (List.range 16).map fun n => ⟨0, exp n, 0, 0, 0, 0, false⟩, uregs := uregs, tariff := img.1, tdesc := img.2.1,
    sbchk := r.flags.getLsbD 1, nantrap := r.flags.getLsbD 2, tvec := r.tvec &&& 0x00FFFFFFFFFFFFFC, tmask := r.tmask &&& 0xFAFFFE,
    srseed := r.srseed, fmbox := r.fmbox, nextFid := h.fibres, fibres := initialFibres h bmem places }

/-- The team joins the cluster and die barriers of its launch (R315, R368). -/
def State.joinBarriers (s : State) (c : Nat) (t : Team) : State :=
  let (cs, ds) := s.teamBarriers c t
  let s := cs.foldl (fun s n =>
    let b := s.clusBar (clusOf c) n
    s.setClusBar (clusOf c) n { b with msk := b.msk.filter (· != c) ++ [c] }) s
  ds.foldl (fun s n =>
    let b := s.dieBar (dieOf c) n
    s.setDieBar (dieOf c) n { b with memb := b.memb ++ [t.member] }) s

-- termination (R292)

/-- Terminate a team: records, `LOSS`, and everything of it that is not performed given up. -/
def State.terminate (s : State) (c slot : Nat) (cause : Cause) (addr : Nat) (info : BitVec 64 := 0) : State :=
  match s.team? c slot with
  | none => s
  | some t =>
    let s := s.settle c slot fun _ => true
    let t := (s.team? c slot).getD t
    let s := t.fibres.foldl (fun s f =>
      s.writeRecord c t f f.pc f.pc f.rep.isSome false (laneMask t [f.fid]) { cause := cause, addr := BitVec.ofNat 64 addr, info := info }) s
    let s := s.notice c t 3 (t.frbase / 2 ^ 12)
    let s := s.modTeam c slot fun t =>
      { t with terminating := true, preempt := none, bars := t.bars.map fun b => { b with loss := true } }
    let gone := (s.core c).sb.filter fun e => e.slot == slot && !e.sent
    let s := gone.foldl (fun s e => e.kind.fids.foldl (fun s fid => s.modFibre c slot fid fun f => { f with unack := f.unack - 1 })
      (s.dropEntry c e.id)) s
    let s := (s.qops.filter fun o => match o.who with
      | .engine c' _ slot' _ | .replay c' slot' _ _ => c' == c && slot' == slot
      | _ => false).foldl (fun s o => s.withdrawOp o) s
    let k := s.core c
    let s := ((k.eqmx ++ k.eqcp ++ k.eqgx).filter (·.slot == slot)).foldl (fun s e => s.dropCmd e.id) s
    let s := ((s.die (dieOf c)).dispq.filter fun q => q.core == c && q.slot == slot).foldl (fun s q => s.dropCmd q.id) s
    let s := s.modDie (dieOf c) fun d => { d with dispq := d.dispq.filter fun q => !(q.core == c && q.slot == slot) }
    let s := s.modCore c fun k => { k with sidelog := k.sidelog.filter (·.slot != slot) }
    let s := s.modForum fun g => { g with pbars := g.pbars.map fun b => if b.2.own == some t.ctx then (b.1, { b.2 with loss := true }) else b }
    let s := (t.fibres.map (·.fid)).foldl (fun s fid => s.kill c slot fid) s
    s.engineWake c

-- set-up, continued

/-- Set a team up on a qualifying core (R353, R356, R358). -/
def State.setUp (s : State) (c : Nat) (l : Launch) (h : Shape) (cont : Option ContRec) (teamNo : Nat) (lvidx : List Nat) : State :=
  let s := s.adopt c l.record
  let s := if (s.core c).lastCtx == some l.ctx then s else s.modCore c fun k => { k with spad := [], lastCtx := some l.ctx }
  let k := s.core c
  match h.place k.windows, k.spadRun h.spad (spadBytes l.record.l1), s.freeFrame l,
      (List.range 16).find? fun n => !(k.teams.any (·.slot == n)) with
  | some places, some base, some frame, some slot =>
    let now := s.recordNow l
    let l := match now with | .ok r => { l with record := r } | .error _ => l
    let img := match now with | .ok _ => s.images l | .error t => .error t
    let s := s.modForum fun g => { g with boundary := false }
    let t := newTeam l h cont slot teamNo frame base lvidx places (match img with | .ok i => i | .error _ => ([], [], []))
    let s := (s.modCore c fun k => { k with teams := k.teams ++ [t] }).acquire c 5
    let s := s.joinBarriers c t
    match img with
    | .ok _ => s.formGangs c slot (t.fibres.map (·.fid)) (s.now c + 1)
    | .error tr => s.terminate c slot tr.cause tr.addr.toNat
  | _, _, _, _ => s

-- the expander (R354, R355)

/-- New instances of a launch, from `j` on, for the die: the first whose domain is not held back and has a qualifying core; those
passed over. -/
def State.scanNew (s : State) (l : Launch) (d : Nat) : Nat → Nat → List Dom → List Nat → Option (Nat × Nat × List Nat)
  | 0, _, _, _ => none
  | fuel + 1, j, held, skipped =>
    let p := s.domOf l.record l.die j
    if s.dieOfDom l p != some d then State.scanNew s l d fuel (j + 1) held skipped
    else if 512 ≤ held.length then none
    else if held.contains p then State.scanNew s l d fuel (j + 1) held (skipped ++ [j])
    else match s.chooseCore (s.domCores p) l l.record.shape with
      | some c => some (j, c, skipped)
      | none => State.scanNew s l d fuel (j + 1) (held ++ [p]) (skipped ++ [j])

/-- Instances begun or passed over, in order. -/
def State.scanOpen (s : State) (l : Launch) : List (Nat × Nat × Nat) → List Dom → Except (List Dom) (Nat × Nat × Nat)
  | [], held => .error held
  | (_, j, k) :: r, held =>
    let p := s.domOf l.record l.die j
    if held.contains p then State.scanOpen s l r held
    else match s.chooseCore (s.domCores p) l l.record.shape with
      | some c => .ok (j, k, c)
      | none => State.scanOpen s l r (held ++ [p])

/-- The next team of a launch that die `d` can place: instance, its place among the instance's teams, the core, and instances newly
passed over. -/
def State.nextTeam (s : State) (l : Launch) (d : Nat) : Option (Nat × Nat × Nat × List Nat) :=
  if l.done then none
  else match s.scanOpen l (l.opened.filter (·.1 == d)) [] with
    | .ok (j, k, c) => some (j, k, c, [])
    | .error held =>
      let j0 := nth 0 l.next d
      (s.scanNew l d (l.record.instances - j0) j0 held []).map fun x => (x.1, 0, x.2.1, x.2.2)

/-- The first instance from `j` on that is bound to a die. -/
def State.boundFrom (s : State) (l : Launch) (d : Nat) : Nat → Nat → Nat
  | 0, j => j
  | fuel + 1, j => if s.dieOfDom l (s.domOf l.record l.die j) == some d then j else State.boundFrom s l d fuel (j + 1)

/-- Every team of a launch for a die has been generated. -/
def Launch.generatedAll (l : Launch) (d : Nat) : Bool := decide (l.record.instances ≤ nth 0 l.next d) && !(l.opened.any (·.1 == d))

def State.modLaunch (s : State) (num : Nat) (f : Launch → Launch) : State := { s with launches := modWhere (·.num == num) f s.launches }

/-- Place the team found by `nextTeam`. -/
def State.placeTeam (s : State) (l : Launch) (d : Nat) (x : Nat × Nat × Nat × List Nat) : State :=
  let (j, k, c, skipped) := x
  let teamNo := j * l.record.teams + k
  let lvidx := k :: levelIdx l.record.lv j
  let s := s.modLaunch l.num fun l =>
    let fresh := decide (nth 0 l.next d ≤ j)
    let rest := l.opened.filter fun o => !(o.1 == d && o.2.1 == j)
    let mine : List (Nat × Nat × Nat) := (skipped.map fun i => (d, i, 0)) ++ (if k + 1 < l.record.teams then [(d, j, k + 1)] else [])
    { l with opened := sortBy (fun o => o.2.1) (rest ++ mine), generated := modAt l.generated d (· + 1),
             next := if fresh then setAt l.next d (s.boundFrom l d (l.record.instances - (j + 1)) (j + 1)) else l.next }
  s.setUp c l l.record.shape none teamNo ((lvidx ++ List.replicate 8 0).take 8)

-- continuation records (R357, R361-R364)

/-- The ranges of a block (R362): reads and writes with base and length, none where it is malformed. -/
def parseRanges (b : List Byte) : Option (List (Bool × Nat × Nat)) :=
  let nr := field b 0 1
  let nw := field b 1 1
  let es := (List.range (nr + nw)).map fun i => (decide (nr ≤ i), field b (16 + 16 * i) 8, field b (24 + 16 * i) 8)
  if nr + nw = 0 || 4 < nr || 4 < nw || field b 2 14 ≠ 0 ||
      es.any (fun e => decide (2 ^ 56 ≤ e.2.1) || e.2.2 == 0 || decide (2 ^ 40 ≤ e.2.2)) then none
  else some es

/-- Bytes of a range block by its header. -/
def rangeBytes (hdr : List Byte) : Nat := if 4 < field hdr 0 1 || 4 < field hdr 1 1 then 16 else 16 + 16 * (field hdr 0 1 + field hdr 1 1)

/-- A record's fields (R357). -/
def ContRec.parse (b : List Byte) (ctx launch prio cycle : Nat) : ContRec where
  code := bits (field b 0 8) 0 56
  roff := field b 7 1
  frame := field b 8 8
  join := field b 16 8
  shape := BitVec.ofNat 64 (field b 24 8)
  ctx := ctx
  launch := launch
  prio := prio
  cycle := cycle
  aged := false
  ranges := []

/-- A malformed record (R357), for a launch of the given L1 size. -/
def ContRec.malformed (q : ContRec) (l1 : Nat) : Bool :=
  decide (2 ^ 56 ≤ q.frame) || decide (2 ^ 56 ≤ q.join) || q.shape.extractLsb' 61 3 != 0 || q.form.fibres == 0 || decide (1024 < q.form.fibres) ||
  decide (spadBytes l1 < q.form.spad) || (q.form.place []).isNone

/-- Entries that a queue of a die holds at most; none while the queues are unconfigured (R359). -/
def Die.capacity (d : Die) : Option Nat :=
  let n := (d.cqlog.extractLsb' 0 5).toNat
  if 10 ≤ n && n ≤ 16 then some (2 ^ n) else none

def Die.queueFull (d : Die) (p : Nat) : Bool :=
  match d.capacity with
  | some n => decide (n ≤ (nth [] d.queues p).length)
  | none => true

/-- A record enters the tail of its queue. -/
def State.enterQueue (s : State) (d : Nat) (q : ContRec) : State :=
  (s.modDie d fun x => { x with queues := modAt x.queues q.prio (· ++ [{ q with cycle := x.cycle }]) }).spawnOnce .continuationTake { die := d }

/-- Two ranges overlap, each rounded outward to 64-byte lines (R362). -/
def linesMeet (a b : Nat × Nat) : Bool :=
  decide (a.1 / 64 * 64 < (b.1 + b.2 + 63) / 64 * 64) && decide (b.1 / 64 * 64 < (a.1 + a.2 + 63) / 64 * 64)

/-- R363: a write range of either overlaps a range of the other. -/
def rangesConflict (a b : List (Bool × Nat × Nat)) : Bool := a.any fun x => b.any fun y => (x.1 || y.1) && linesMeet x.2 y.2

/-- The ranged continuation teams of a die that are not freed: context and ranges. -/
def State.rangedTeams (s : State) (d : Nat) : List (Nat × List (Bool × Nat × Nat)) :=
  ((s.allTeams.filter fun x => dieOf x.1 == d && !x.2.ranges.isEmpty).map fun x => (x.2.ctx, x.2.ranges)) ++
  (s.saved.filter fun x => dieOf x.core == d && !x.team.ranges.isEmpty).map fun x => (x.team.ctx, x.team.ranges)

/-- Record `i` of a queue is eligible (R360, R363, R364). -/
def State.eligible (s : State) (d : Nat) (q : List ContRec) (i : Nat) : Bool :=
  match q[i]? with
  | none => false
  | some r =>
    r.ranges.isEmpty ||
    (let ahead := (q.take i).filter (!·.ranges.isEmpty)
     let held := s.rangedTeams d
     decide (ahead.length < 64) && decide (held.length < 256) &&
     !(held.any fun u => u.1 == r.ctx && rangesConflict u.2 r.ranges) && !(ahead.any fun u => u.ctx == r.ctx && rangesConflict u.ranges r.ranges))

/-- An item that a free slot of a die can take: the next team of a launch, or a record, with the core. -/
inductive Item where
  | team (launch : Nat) (x : Nat × Nat × Nat × List Nat)
  | record (p i core : Nat)

/-- A record as an item, if it is eligible and a core qualifies. -/
def State.recordItem (s : State) (d p i : Nat) : Option Item :=
  let q := nth [] (s.die d).queues p
  if s.eligible d q i then
    match q[i]? with
    | none => none
    | some r => (s.launchOf? r.launch).bind fun l =>
        (s.chooseCore (coresOfDie d) l r.form).map fun c => .record p i c
  else none

/-- The item that the scheduler of a die takes next (R360): a record that has waited 65,536 cycles goes before the items of higher
priorities, the oldest of these first; within one priority, the launches and the queue alternate. -/
def State.nextItem (s : State) (d : Nat) : Option Item :=
  let qs := (s.die d).queues
  let idx (p : Nat) : List (Nat × Nat) := (List.range (nth [] qs p).length).map fun i => (p, i)
  let recOf (x : Nat × Nat) : Option ContRec := (nth [] qs x.1)[x.2]?
  let now := (s.die d).cycle
  let aged := sortBy (fun x => match recOf x with | some r => r.cycle | none => 0)
    (((List.range 4).flatMap idx).filter fun x => match recOf x with | some r => r.aged || decide (r.cycle + 65536 ≤ now) | none => false)
  let of (p : Nat) : Option Item :=
    let recs := (idx p).map fun x => (fun (_ : Unit) => s.recordItem d x.1 x.2)
    let teams := (s.launches.filter fun l => l.prio == p && !l.done).map fun l => (fun (_ : Unit) => (s.nextTeam l d).map (Item.team l.num))
    (if nth false (s.die d).altQueue p then recs ++ teams else teams ++ recs).findSome? fun f => f ()
  match aged.filterMap fun x => (s.recordItem d x.1 x.2).map (x.1, ·) with
  | (p, it) :: r =>
    if r.any (fun y => decide (p < y.1)) || ((List.range p).findSome? of).isSome then some it else (List.range 4).findSome? of
  | [] => (List.range 4).findSome? of

/-- A record leaves its queue; one that a join counter has fired takes the room (R366). -/
def State.leaveQueue (s : State) (d p i : Nat) : State :=
  let s := s.modDie d fun x => { x with queues := modAt x.queues p (·.eraseIdx i) }
  match (s.die d).firing.find? (·.prio == p) with
  | some r => (s.modDie d fun x => { x with firing := x.firing.erase r }).enterQueue d r
  | none => s

/-- Take an item (R355, R358, R360); the two kinds of one priority alternate. -/
def State.takeItem (s : State) (d : Nat) (it : Item) : State :=
  let s := s.spawnOnce .continuationTake { die := d }
  match it with
  | .team n x => match s.launchOf? n with
    | some l => (s.modDie d fun y => { y with altQueue := setAt y.altQueue l.prio true }).placeTeam l d x
    | none => s
  | .record p i c =>
    match (nth [] (s.die d).queues p)[i]? with
    | none => s
    | some r => match s.launchOf? r.launch with
      | none => s
      | some l => ((s.leaveQueue d p i).modDie d fun y => { y with altQueue := setAt y.altQueue p false }).setUp c l r.form (some r) 0 (List.replicate 8 0)

/-- Something has become free: every die with work looks for it. -/
def State.kick (s : State) : State :=
  (List.range 8).foldl (fun s d =>
    if (s.die d).queues.any (!·.isEmpty) || s.launches.any (fun l => !l.done && !l.generatedAll d) then
      s.spawnOnce .continuationTake { die := d } else s) s

-- join counters (R365, R366)

/-- A malformed counter. -/
def joinMalformed (s : State) (pa : Nat) : Bool :=
  bits (Memory.read s.mem (pa + 4) 1) 6 2 != 0 || bits (Memory.read s.mem (pa + 5) 1) 2 6 != 0 || Memory.read s.mem (pa + 6) 2 != 0 ||
  Memory.read s.mem (pa + 16) 16 != 0

/-- The record at `NEXT` with its ranges: a well-formed one, none, or bytes of another package that are still to be asked for. -/
def State.nextRecord (s : State) (q : NextRead) (l1 : Nat) : Except Rd (Option ContRec) :=
  let rd (va n : Nat) : Rd := s.schedRead q.ctx (s.context q.ctx).world q.got va n
  let other (r : Rd) : Except Rd (Option ContRec) := if r.need? then .error r else .ok none
  match rd q.next 32 with
  | .bytes b =>
    let e := ContRec.parse b q.ctx q.launch (bits q.tgt 0 2) 0
    let a := e.frame + 64 * (e.roff - 1)
    if q.next % 32 ≠ 0 || e.malformed l1 then .ok none
    else if e.roff = 0 then .ok (some e)
    else if a % 16 ≠ 0 then .ok none
    else match rd a 16 with
      | .bytes h =>
        (match rd (a + 16) (rangeBytes h - 16) with
        | .bytes b => .ok ((parseRanges (h ++ b)).map fun rs => { e with ranges := rs })
        | r => other r)
      | r => other r
  | r => other r

/-- The record that a counter has fired enters its queue, or waits for room there (R366); one in another package is read first; a malformed
one, or one for unconfigured queues, is dropped and reported. -/
def State.fire (s : State) (q : NextRead) : State :=
  let d := if q.tgt.testBit 5 then bits q.tgt 2 3 else q.die
  match (s.launchOf? q.launch).map fun l => s.nextRecord q l.record.l1 with
  | some (.error (.need va n l)) =>
    (s.modDie q.die fun x => { x with nexts := x.nexts ++ [q] }).remoteAsk l va (l.ord == 0) (.next q.die q.id q.ctx va n)
  | some (.ok (some e)) =>
    if (s.die d).capacity.isNone then s.report
    else if (s.die d).queueFull e.prio then s.modDie d fun x => { x with firing := x.firing ++ [e] }
    else s.enterQueue d e
  | _ => s.report

/-- An answer to a read of `NEXT`: its bytes, or none where the read fails. -/
def State.fireOn (s : State) (die id va : Nat) (got : Option (List Byte)) : State :=
  match (s.die die).nexts.find? (·.id == id) with
  | none => s
  | some q =>
    let s := s.modDie die fun x => { x with nexts := x.nexts.filter (·.id != id) }
    match got with
    | some b => s.fire { q with got := q.got ++ [(va, b)] }
    | none => s.report

/-- `JoinDec` of R366 at its home: the old count. -/
def State.joinDec (s : State) (ctx : Nat) (l : Option Launch) (die pa n : Nat) : Nat × State :=
  let old := Memory.read s.mem pa 4
  let jfl := Memory.read s.mem (pa + 5) 1
  let fires := decide (0 < old) && decide (old ≤ n) && !jfl.testBit 0
  let jfl := (if old < n then jfl ||| 2 else jfl) ||| (if fires then 1 else 0)
  let s := (s.homeWrite pa 4 (old - n)).homeWrite (pa + 5) 1 jfl
  let next := Memory.read s.mem (pa + 8) 8
  (old, if fires && next != 0 then
      match l with
      | some l =>
        let (id, s) := s.fresh
        s.fire ⟨id, ctx, l.num, die, Memory.read s.mem (pa + 4) 1, next, []⟩
      | none => s.report
    else s)

/-- A decrement by one at the end of a team or launch (R352, R358); a counter that cannot be used is reported. -/
def State.joinEnd (s : State) (l : Launch) (die va : Nat) : State :=
  if va = 0 then s
  else match s.lookWalk l.ctx l.world .atomic va with
    | .ok x =>
      if va % 32 ≠ 0 || 2 ≤ x.apt || joinMalformed s (x.phys va) then s.report else (s.joinDec l.ctx (some l) die (x.phys va) 1).2
    | _ => s.report

end Sys2Proof.Machine
end

