-- ==== Sys2Proof/Machine/Scheduler.lean ====
section
/-!
DEFINITION. The scheduler's instructions and steps (R351, R352, R355, R360, R361, R367, R370), the freeing of teams (R116), and cores that
are retired (R322).
-/
namespace Sys2Proof.Machine

open Sys2Proof

-- launch (R351)

/-- Every page of a range is valid, writable, pinned and of the team's world (R281). -/
def State.pinnedRange (s : State) (ctx : Nat) (world : Bool) (hi : Nat) : Nat → Nat → Bool
  | 0, va => decide (hi ≤ va)
  | fuel + 1, va =>
    decide (hi ≤ va) ||
    match s.lookWalk ctx world .write va with
    | .ok l => l.pin && l.wld == world && State.pinnedRange s ctx world hi fuel (va / l.size * l.size + l.size)
    | _ => false

/-- The fault mailbox meets R281. -/
def State.mailboxOk (s : State) (ctx : Nat) (world : Bool) (va : Nat) : Bool :=
  va % 64 == 0 &&
  match s.lookWalk ctx world .atomic va with
  | .ok l => l.pin && l.wld == world && decide (l.apt < 2) && Memory.read s.mem (l.phys va + 0x15) 1 == 1
  | _ => false

/-- R37 on a side table of the given window size. -/
def sideTableOk (win : Nat) (b : List Byte) : Nat → Option Nat → Bool
  | 0, _ => true
  | n + 1, last =>
    let pc := field b 0 4
    let v := field b 4 4
    let w := field b 8 4
    (match last with | some p => decide (p < pc) | none => true) && decide (v < 2 ^ (win / 8)) && w % 2 == 0 && decide (w < 2 ^ 27) &&
      field b 12 4 == 0 && sideTableOk win (b.drop 16) n (some pc)

/-- The lowest base at which `n` consecutive barriers are free (R368). -/
def freeBase (limit n : Nat) (free : Nat → Bool) : Option Nat :=
  (List.range (limit - n + 1)).find? fun b => (List.range n).all fun i => free (b + i)

/-- The clusters and dies of a launch's root domain in this package. -/
def State.rootParts (s : State) (r : LaunchRec) (die : Nat) : List Nat × List Nat :=
  if (s.rootDom r die).kind = 5 then ([2 * die, 2 * die + 1], [die]) else (List.range 16, List.range 8)

/-- The bases of R368, where every barrier can be reserved. -/
def State.barrierBases (s : State) (r : LaunchRec) (die : Nat) : Option (Nat × Nat) :=
  let (cs, ds) := s.rootParts r die
  match freeBase 64 r.cbn fun n => cs.all fun c => (s.clusBar c n).own.isNone,
        freeBase 256 r.dbn fun n => ds.all fun d => (s.dieBar d n).own.isNone with
  | some a, some b => some (a, b)
  | _, _ => none

/-- Set the launch's barriers to a fresh state with an owner, or free them (R352, R368). -/
def State.setBarriers (s : State) (l : Launch) (own : Option Nat) : State :=
  let (cs, ds) := s.rootParts l.record l.die
  let s := cs.foldl (fun s c => (List.range l.record.cbn).foldl (fun s i => s.setClusBar c (l.cbase + i) { ClusBar.reset with own := own }) s) s
  ds.foldl (fun s d => (List.range l.record.dbn).foldl (fun s i => s.setDieBar d (l.dbase + i) { DieBar.reset with own := own }) s) s

/-- Spare cores of a cluster (R322). -/
def spareCores : Nat := 8

/-- One more of the spare stock of a unit, or a report that it is exhausted (R18). -/
def State.useSpare (s : State) (kind unit stock : Nat) : Bool × State :=
  let key := 2 ^ 16 * kind + unit
  let n := assocGet 0 s.forum.sparesUsed key
  if n < stock then (true, s.modForum fun g => { g with sparesUsed := assocPut g.sparesUsed key (n + 1) }) else (false, s.report)

/-- A launch boundary: a launch has been accepted, or has ended. Mesh lanes that have failed are replaced (R323), and cores may be remapped
until the next team is set up (R18, R322; notes/assumptions/51.md). -/
def State.launchBoundary (s : State) : State :=
  let failed := s.forum.meshFailed
  failed.foldl (fun s cl => (s.useSpare 4 cl (Config.spareStock 4)).2) (s.modForum fun g => { g with meshFailed := [], boundary := true })

/-- An accepted launch enters its table, with its barriers reserved. -/
def State.acceptLaunch (s : State) (num die ctx prio : Nat) (world : Bool) (r : LaunchRec) (va : Nat)
    (images : List (Nat × List Byte)) (share : Option Nat) (shares : List Nat) (bases : Nat × Nat) : State :=
  let l : Launch :=
    { num := num, die := die, ctx := ctx, world := world, prio := prio, record := r, va := va, cbase := bases.1, dbase := bases.2,
      next := List.replicate 8 0, opened := [], generated := List.replicate 8 0, ended := List.replicate 8 0, images := images,
      share := share, shares := shares, done := false }
  let l := { l with next := (List.range 8).map fun d => s.boundFrom l d r.instances 0 }
  let old := s.launches.filter (·.num != num)
  let s := { s with launches := old ++ [l] }
  let s := (s.setBarriers l (some ctx)).launchBoundary.kick
  if r.instances = 0 && shares.isEmpty then s.spawn .launchEnd { n := num } else s

/-- The refusal that a record meets, in the order of R351, with the images as read. -/
def State.launchRefusal (s : State) (ctx : Nat) (world : Bool) (r : LaunchRec) (prio : Nat) (td tar ppt : Except Unit (List Byte)) : Option Nat :=
  if !r.wellFormed || 4 ≤ prio || !td.isOk then some 0xFFFFFF01
  else if (match tar with
      | .error _ => true
      | .ok b => (List.range 48).any fun i => let e := BitVec.ofNat 64 (field b (8 * i) 8); e != 0 && !(Fmt.of e).legal) then some 0xFFFFFF02
  else if !s.pinnedRange ctx world (r.pinpool + 0x210000 * r.pincnt) (33 * r.pincnt + 1) r.pinpool || !s.mailboxOk ctx world r.fmbox.toNat then
    some 0xFFFFFF03
  else if (match ppt with | .error _ => true | .ok b => !sideTableOk r.win b r.pptn none) then some 0xFFFFFF05
  else if (r.shape.place []).isNone || decide (spadBytes r.l1 < r.spad) then some 0xFFFFFF06
  else none

/-- The pieces that `launch` reads of a well-formed record: descriptors with their pointers, uniform registers, tariff, side table. -/
def launchReads (rd : Nat → Nat → Rd) (r : LaunchRec) : List Rd × Rd × Rd :=
  let img (va n : Nat) : Rd := if va = 0 then .bytes (List.replicate n 0) else rd va n
  let ptrs := img r.tdimg 2048
  let ds := match ptrs with
    | .bytes b => (List.range 256).filterMap fun i => let p := field b (8 * i) 8; if p = 0 then none else some (rd p 64)
    | _ => []
  (ptrs :: img r.unimg 1024 :: ds, img r.tarimg 384, if r.pptn = 0 then .bytes [] else rd r.ppt (16 * r.pptn))

def Rd.result : Rd → Except Unit (List Byte)
  | .bytes b => .ok b
  | _ => .error ()

/-- Launches and spawns of non-secure contexts wait while the package is not in service (R407, R408). -/
def State.launchesWait (s : State) (secure : Bool) : Bool := !secure && s.forum.pkgstate != 4

/-- `launch`, once for the gang (R351). -/
def launchBody (f : FM) (x : Ctx) (s : State) : State × List (Nat × LaneRes) :=
  match x.act, x.team s with
  | [], _ => (s, [])
  | _, none => (s, [])
  | lead :: _, some t =>
    let d := dieOf x.core
    let ea := x.ea s lead f
    if s.launchesWait t.world then (s, x.wait)
    else if !x.act.all (s.relReady x.core x.slot) then
      (x.act.foldl (fun s fid => if s.relReady x.core x.slot fid then s else s.releaseWork x.core x.slot fid) s, x.wait)
    else match addrTrap ea 64 false with
    | some tr => (s, x.trapAll tr)
    | none =>
      match s.fibreRead x.core t lead ea 288 with
      | .cause tr => (s.afterRead x.core t lead (.cause tr), x.trapAll tr)
      | .bytes bs =>
        let r := LaunchRec.parse bs
        let prio := (x.rdU s false f.b).toNat % 2 ^ 32
        let have? := (s.core x.core).received x.slot lead
        let (tds, tar, ppt) := if r.wellFormed && decide (prio < 4) then launchReads (s.schedRead t.ctx t.world have?) r
          else ([], .bytes [], .bytes [])
        if 64 ≤ (s.launches.filter fun l => l.die == d && l.share.isNone && !l.done).length then (s, x.wait)
        else match (tar :: ppt :: tds).find? (·.need?) with
          | some n => (s.afterRead x.core t lead n, x.act.map (·, .retry))
          | none =>
            let td : Except Unit (List Byte) := if tds.all (·.result.isOk) then .ok [] else .error ()
            let s := s.forgetReads x.core x.slot lead
            match s.launchRefusal t.ctx t.world r prio td tar.result ppt.result, s.barrierBases r d with
            | some v, _ => s.deliverAll x f.d false (BitVec.ofNat 64 v)
            | none, none => s.deliverAll x f.d false 0xFFFFFF04
            | none, some bases =>
              let num := d * 2 ^ 16 + (s.die d).serial.toNat
              let s := s.modDie d fun y => { y with serial := y.serial + 1 }
              let others := (s.domPkgs (s.rootDom r d)).filter (· != s.forum.pkg.toNat)
              let s := others.foldl (fun s p => s.tell p (.launchShare num t.ctx bs) id) s
              (s.acceptLaunch num d t.ctx prio t.world r ea have? none others bases).deliverAll x f.d false (BitVec.ofNat 64 num)
      | rd => (s.afterRead x.core t lead rd, x.act.map (·, .retry))

def execLaunch (f : FM) (s : State) : Host.Outcome State Fault Refusal := issue (.launch f) f.h noCheck (launchBody f) s

-- operations that each lane performs and that return one value

/-- An operation per lane in ascending order, each returning a value to D; with a uniform D the lanes wait for one another, and lanes that
disagree raise `NONUNIFORM` with nothing done (R103). -/
def laneOps (d : Operand) (op : Ctx → Nat → State → State × Except LaneRes (BitVec 64)) (x : Ctx) (s : State) : State × List (Nat × LaneRes) :=
  if isUniform d then
    let trial := x.act.foldl (fun (acc : State × List (Nat × Except LaneRes (BitVec 64))) fid =>
      let r := op x fid acc.1
      (r.1, acc.2 ++ [(fid, r.2)])) (s, [])
    let waits (r : Except LaneRes (BitVec 64)) : Bool := match r with | .error .retry | .error .waitAgain => true | _ => false
    let res (dflt : LaneRes) : List (Nat × LaneRes) := trial.2.map fun p => (p.1, match p.2 with | .error r => r | .ok _ => dflt)
    if trial.2.any fun p => waits p.2 then
      (x.act.foldl (fun s fid => let r := op x fid s; if waits r.2 then r.1 else s) s, res .waitAgain)
    else
      let goes := trial.2.filterMap fun p => match p.2 with | .ok v => some (p.1, v) | .error _ => none
      match goes with
      | [] => (trial.1, res .done)
      | g :: _ =>
        let diff := (goes.filter (·.2 != g.2)).map (·.1)
        match diff, x.team s with
        | [], _ => (trial.1.answer x.core x.slot (goes.map (·.1)) d false g.2, res .done)
        | _, none => (s, [])
        | _, some t => (s, res (.trap { cause := .nonuniform, opnd := 2, lmask := some (laneMask t diff) }))
  else laneFold x (fun x fid s =>
    match op x fid s with
    | (s, .ok v) => (s.answer x.core x.slot [fid] d false v, .done)
    | (s, .error r) => (s, r)) s

-- spawn (R361)

/-- How a read that is not there yet, or fails, ends a lane's instruction. -/
def readStop (c : Nat) (t : Team) (fid : Nat) (s : State) (r : Rd) : State × Except LaneRes (BitVec 64) :=
  (s.afterRead c t fid r, .error (match r with | .cause tr => .trap tr | _ => .retry))

/-- Steps 3 to 5 of R361 on a record with its ranges, none for a malformed block. -/
def spawnEnter (c slot fid : Nat) (t : Team) (ranged : Bool) (b : Nat) (q : ContRec) (ranges : Option (List (Bool × Nat × Nat))) (s : State) :
    State × Except LaneRes (BitVec 64) :=
  let d := if b.testBit 5 then bits b 2 3 else dieOf c
  let l1 := match s.launchOf? t.launch with | some l => l.record.l1 | none => 64
  let done (s : State) (v : BitVec 64) : State × Except LaneRes (BitVec 64) := (s.forgetReads c slot fid, .ok v)
  if 2 ^ 6 ≤ b || q.malformed l1 || (q.roff != 0) != ranged || ranges.isNone then done s 0xFFFFFFFF
  else if (s.die d).capacity.isNone then done s 0xFFFFFFFE
  else if (s.die d).queueFull q.prio then (s, .error .waitAgain)
  else done (s.enterQueue d { q with ranges := ranges.getD [] }) 0

/-- A lane's `spawn` or `spawnr`. -/
def spawnLane (f : FM) (ranged : Bool) (x : Ctx) (fid : Nat) (s : State) : State × Except LaneRes (BitVec 64) :=
  match x.team s with
  | none => (s, .ok 0)
  | some t =>
    let ea := x.ea s fid f
    let b := (x.rd s fid false f.b).toNat % 2 ^ 32
    if s.launchesWait t.world then (s, .error .waitAgain)
    else if !s.relReady x.core x.slot fid then (s.releaseWork x.core x.slot fid, .error .waitAgain)
    else match addrTrap ea 32 false with
    | some tr => (s, .error (.trap tr))
    | none =>
      if s.logged x.core x.slot fid ea then (s, .error .waitAgain)
      else match s.fibreRead x.core t fid ea 32 with
      | .bytes bs =>
        let q := ContRec.parse bs t.ctx t.launch (b % 4) 0
        if !ranged || q.roff = 0 then spawnEnter x.core x.slot fid t ranged b q (some []) s
        else
          let a := q.frame % 2 ^ 56 + 64 * (q.roff - 1)
          match addrTrap a 16 false with
          | some tr => (s.forgetReads x.core x.slot fid, .error (.trap tr))
          | none =>
            match s.fibreRead x.core t fid a 16 with
            | .bytes hdr =>
              let n := rangeBytes hdr
              (match s.fibreRead x.core t fid (a + 16) (n - 16) with
                | .bytes body => spawnEnter x.core x.slot fid t ranged b q (parseRanges (hdr ++ body)) s
                | r => readStop x.core t fid s r)
            | r => readStop x.core t fid s r
      | r => readStop x.core t fid s r

def execSpawn (f : FM) (s : State) : Host.Outcome State Fault Refusal := issue (.spawn f) f.h noCheck (laneOps f.d (spawnLane f false)) s
def execSpawnr (f : FM) (s : State) : Host.Outcome State Fault Refusal := issue (.spawnr f) f.h noCheck (laneOps f.d (spawnLane f true)) s

-- join counters (R366, R367)

/-- A lane's `jdec`. -/
def jdecLane (f : FM) (x : Ctx) (fid : Nat) (s : State) : State × Except LaneRes (BitVec 64) :=
  match x.team s with
  | none => (s, .ok 0)
  | some t =>
    let ea := x.ea s fid f
    let n := (x.rd s fid false f.b).toNat % 2 ^ 32
    match addrTrap ea 32 true with
    | some tr => (s, .error (.trap tr))
    | none =>
      match s.look x.core t.ctx t.world .atomic ea with
      | .miss => (s.beginWalk x.core t.ctx ea, .error .retry)
      | .fault c => (s.takeFail x.core t.ctx ea, .error (.trap (memTrap c ea true)))
      | .ok l =>
        if 2 ≤ l.apt then (s, .error (.trap (memTrap .permitDenied ea true)))
        else if !s.relReady x.core x.slot fid then (s.releaseWork x.core x.slot fid, .error .waitAgain)
        else
          let pa := l.phys ea
          let s := s.evict (s.l1Slice x.core pa) (sectorOf pa)
          if joinMalformed s pa then (s, .error (.trap (memTrap .permitDenied ea true)))
          else
            let r := s.joinDec t.ctx (s.launchOf? t.launch) (dieOf x.core) pa n
            (r.2, .ok (BitVec.ofNat 64 r.1))

def execJdec (f : FM) (s : State) : Host.Outcome State Fault Refusal := issue (.jdec f) f.h noCheck (laneOps f.d (jdecLane f)) s

-- querying a launch (R370)

/-- The teams of a launch on a die that are resident or saved. -/
def State.residentOf (s : State) (num d : Nat) : Nat :=
  (s.allTeams.filter fun x => x.2.launch == num && dieOf x.1 == d).length + (s.saved.filter fun x => x.team.launch == num && dieOf x.core == d).length

/-- The doubleword of an item; an unknown launch has state 0 and no other item (notes/assumptions/12.md). -/
def State.launchWord (s : State) (num item : Nat) : BitVec 64 × State :=
  let d := bits num 16 3
  let cap (n : Nat) : Nat := min n 0xFFFFFFFF
  match s.launchOf? num with
  | none => if item = 0 then (0, s) else s.free
  | some l =>
    (BitVec.ofNat 64 (
      if item = 0 then cap (nth 0 l.ended d) * 2 ^ 32 + (if l.done then 3 else if l.generatedAll d then 2 else 1)
      else if item = 1 then cap (s.residentOf num d) * 2 ^ 32 + cap (nth 0 l.generated d)
      else if item = 2 then l.record.dbn * 2 ^ 24 + l.dbase * 2 ^ 16 + l.record.cbn * 2 ^ 8 + l.cbase
      else l.record.join), s)

def execLquery (f : FR) (s : State) : Host.Outcome State Fault Refusal :=
  issue (.lquery f) f.h noCheck (fun x s =>
    match x.act, x.team s with
    | [], _ => (s, [])
    | _, none => (s, [])
    | _, some t =>
      let a := (x.rdU s false f.a).toNat % 2 ^ 32
      let num := if a = 0xFFFFFFFF then t.launch else a
      let item := immNat f.b
      let (v, s) := s.launchWord num item
      let s := if item = 0 && v.extractLsb' 0 2 == 3 then s.acquire x.core 5 else s
      s.deliverAll x f.d true v) s

-- placement and continuation

/-- R355: the next team of launch `n` is set up, where R360 gives it the next slot. -/
def execTeamPlace (s : State) : Host.Outcome State Fault Refusal :=
  match s.nextItem s.par.die with
  | some (.team n x) => .next (if n == s.par.n then s.takeItem s.par.die (.team n x) else s)
  | _ => .next s

/-- R360. -/
def execContinuationTake (s : State) : Host.Outcome State Fault Refusal :=
  match s.nextItem s.par.die with
  | some it => .next (s.takeItem s.par.die it)
  | none => .next s

/-- R360: a record that has waited 65,536 cycles goes before higher priorities. -/
def execRecordAging (s : State) : Host.Outcome State Fault Refusal :=
  let d := s.par.die
  let age (now : Nat) (r : ContRec) : ContRec := if r.cycle + 65536 ≤ now then { r with aged := true } else r
  .next (s.modDie d fun y => { y with queues := modAt y.queues s.par.n fun q => modAt q s.par.k (age y.cycle) })

-- the end of teams and launches

/-- What must be over before a team is freed (R116, R319). -/
def State.teamSettled (s : State) (c slot : Nat) : Bool :=
  let k := s.core c
  !(s.deliveryTo c slot) &&
  !(k.sb.any (·.slot == slot)) && !(s.coreNums.any fun x => (s.core x).l1.any fun e => e.owners.any (·.1 == 16 * c + slot)) &&
  !(k.acks.any fun a => a.owners.any (·.1 == slot)) && !(k.atomics.any (·.slot == slot)) &&
  !(s.spOps.any fun o => o.core == c && o.slot == slot) && !(k.sidelog.any (·.slot == slot)) &&
  !((k.eqmx ++ k.eqcp ++ k.eqgx).any (·.slot == slot)) && !(s.reports.any fun r => r.core == c && r.slot == slot) &&
  !(s.qops.any fun o => match o.who with | .replay c' slot' _ _ => c' == c && slot' == slot | _ => false) &&
  !((s.die (dieOf c)).dispq.any fun q => q.core == c && q.slot == slot) &&
  !(s.forum.out.any fun o => match o.what with | .sb c' e => c' == c && e.slot == slot | .atom c' slot' _ => c' == c && slot' == slot | _ => false)

/-- No team of a launch is left or to come (R352, R466). -/
def State.launchOver (s : State) (l : Launch) : Bool :=
  !l.done && ((List.range 8).all l.generatedAll) && l.shares.isEmpty && !(s.allTeams.any (·.2.launch == l.num)) &&
  !(s.saved.any (·.team.launch == l.num)) && !(s.dies.any fun d => d.firing.any (·.launch == l.num) || d.nexts.any (·.launch == l.num) || d.queues.any (·.any (·.launch == l.num)))

/-- R116: the team in a slot is freed. -/
def execTeamFree (s : State) : Host.Outcome State Fault Refusal :=
  let c := s.par.core
  let slot := s.par.slot
  let d := dieOf c
  match s.team? c slot with
  | none => .next s
  | some t =>
    if !t.fibres.isEmpty then .next s
    else if !s.teamSettled c slot then
      .next ((s.writeBackTeam c slot).spawn .teamFree s.par)
    else
      let s := s.modCore c fun k => { k with teams := k.teams.filter (·.slot != slot), gangs := k.gangs.filter (·.slot != slot) }
      let s := s.modLaunch t.launch fun l => { l with ended := modAt l.ended d (· + 1) }
      match s.launchOf? t.launch with
      | none => .next s.kick
      | some l =>
        let s := (if t.cont then s.joinEnd l d t.join else s).kick
        .next (if s.launchOver l then s.spawnOnce .launchEnd { n := l.num } else s)

/-- R352: every write of the launch reaches its home, `JOIN` is decremented, and the barriers are freed; a share reports its end (R466). -/
def execLaunchEnd (s : State) : Host.Outcome State Fault Refusal :=
  match s.launchOf? s.par.n with
  | none => .next s
  | some l =>
    if !s.launchOver l then .next s
    else
      let s := s.coreNums.foldl (fun s c => (s.core c).l1.foldl (fun s e => s.writeBack c e.pa) s) s
      let s := match l.share with
        | some p => s.tell p (.shareEnded (l.num % 2 ^ 32)) id
        | none => s.joinEnd l l.die l.record.join
      .next ((s.setBarriers l none).modLaunch l.num fun l => { l with done := true }).launchBoundary.kick

-- retirement (R18, R322)

/-- R322: a marked core accepts no new team; or a lane bank of a core is marked (R18), by its number. -/
def execMarkForRetirement (s : State) : Host.Outcome State Fault Refusal :=
  .next (s.modCore s.par.core fun k =>
    if s.par.flag then { k with banksMarked := k.banksMarked.filter (· != s.par.n) ++ [s.par.n] } else { k with marked := true })

/-- The marked lane banks of a core that holds no team are replaced (R18). -/
def State.spareBanks (s : State) (c : Nat) : State :=
  let k := s.core c
  if k.teams.isEmpty then
    k.banksMarked.foldl (fun s _ => (s.useSpare 1 c (Config.spareStock 1)).2) (s.modCore c fun k => { k with banksMarked := [] })
  else s

/-- R322: at a launch boundary, the number of a marked core without a team moves to a spare, whose scratchpad and L1 start empty; marked lane
banks of a core without a team are replaced at any time (R18). -/
def execSpareCoreRemap (s : State) : Host.Outcome State Fault Refusal :=
  let c := s.par.core
  let s := s.spareBanks c
  let k := s.core c
  if !k.marked || !k.teams.isEmpty || !s.forum.boundary then .next s
  else match s.useSpare 0 (clusOf c) spareCores with
    | (false, s) => .next s
    | (true, s) =>
      let s := s.modForum fun g => { g with remap := assocPut g.remap c (255 + assocGet 0 g.sparesUsed (clusOf c)) }
      let s := s.evictAll c
      .next ((s.setCore c { Core.reset with l1kib := k.l1kib, fused := k.fused, notices := k.notices, acks := (s.core c).acks }).kick)

end Sys2Proof.Machine
end

