-- ==== Sys2Proof/Machine/Routing.lean ====
section
/-!
DEFINITION. Expert routing (R371-R383): the choice of groups, the dispatch engine with its cursor, the ingress units, the folding of
counts, and the regrouping of fibres.
-/
namespace Sys2Proof.Machine

open Sys2Proof

/-- A route descriptor (R371). -/
structure Route where
  sbase : Nat
  sstr : Nat
  cap : Nat
  ngrp : Nat
  epg : Nat
  topg : Nat
  tope : Nat
  tokb : Nat
  rsv : Nat
  gdie : Nat

def Route.parse (b : List Byte) : Route where
  sbase := field b 0 8
  sstr := field b 8 8
  cap := field b 0x10 2
  ngrp := field b 0x12 1
  epg := field b 0x13 1
  topg := field b 0x14 1
  tope := field b 0x15 1
  tokb := field b 0x16 1
  rsv := field b 0x17 9
  gdie := field b 0x20 32

/-- The die that holds a group. -/
def Route.dieOf (r : Route) (g : Nat) : Nat := bits r.gdie (4 * g) 3

/-- A descriptor that is not malformed (R371). -/
def Route.wellFormed (r : Route) : Bool :=
  r.sbase % 2 ^ 16 == 0 && decide (r.sbase < 2 ^ 56) && r.sstr % 2 ^ 16 == 0 && decide (1 ≤ r.cap) && decide (1 ≤ r.ngrp) &&
  decide (r.ngrp ≤ 64) && decide (1 ≤ r.epg) && decide (r.epg ≤ 32) && decide (1 ≤ r.topg) && decide (r.topg ≤ min 8 r.ngrp) &&
  decide (1 ≤ r.tope) && decide (r.tope ≤ min 8 r.epg) && decide (1 ≤ r.tokb) && r.rsv == 0 &&
  (List.range 64).all fun g => !r.gdie.testBit (4 * g + 3)

/-- `Rank` of R373 on FP32 codes, as a number that grows with it: a NaN below `-Inf`, `-0` equal to `+0`. -/
def rankOf (c : BitVec 32) : Nat :=
  let m := c.toNat % 2 ^ 31
  if 0x7F800000 < m then 0 else if c.getLsbD 31 then 2 ^ 31 - m else 2 ^ 31 + m

/-- The indices of a list of ranks, best first, equal ranks by ascending index. -/
def byRank (rs : List Nat) : List Nat := sortBy (fun i => (2 ^ 33 - nth 0 rs i) * 2 ^ 8 + i) (List.range rs.length)

/-- The scores of a group in a row. -/
def Route.groupScores (r : Route) (row : List (BitVec 32)) (g : Nat) : List (BitVec 32) := (row.drop (g * r.epg)).take r.epg

/-- The choice word of a row (R373). -/
def Route.choose (r : Route) (row : List (BitVec 32)) : BitVec 64 :=
  let best := (List.range r.ngrp).map fun g => ((r.groupScores row g).map rankOf).foldl max 0
  let bs := (byRank best).take r.topg ++ List.replicate (8 - r.topg) 0xFF
  BitVec.ofNat 64 (leNat (bs.map (BitVec.ofNat 8)))

/-- `n` sectors read by a fibre through its core's TLB. -/
def State.readThrough (s : State) (c : Nat) (t : Team) (fid va : Nat) : Nat → State × List Byte
  | 0 => (s, [])
  | n + 1 =>
    match s.look c t.ctx t.world .read va with
    | .ok l =>
      let (sec, s) := s.loadSector c t.slot fid s.uid l (sectorOf (l.phys va))
      let r := State.readThrough s c t fid (va + 32) n
      (r.1, leBytes sec 32 ++ r.2)
    | _ => (s, [])

/-- A fibre's ordinary read of a route descriptor (R371). -/
def State.readRoute (s : State) (x : Ctx) (t : Team) (fid va : Nat) : State × Except LaneRes Route :=
  let a := s.judgeRead x.core t fid va 64 .read
  let far := match s.look x.core t.ctx t.world .read va with | .ok l => decide (2 ≤ l.apt) | _ => false
  let s := s.afterJudge x.core t fid va .read false a
  match a with
  | .go l =>
    if far then (s, .error (.trap (memTrap .permitDenied va false)))
    else if (List.range 8).any fun i => s.readHeld x.core x.slot fid (va + 8 * i) 8 l then (s, .error .retry)
    else
      let (s, bs) := s.readThrough x.core t fid va 2
      let r := Route.parse bs
      (s, if r.wellFormed then .ok r else .error (.trap (memTrap .permitDenied va false)))
  | a => (s, .error a.res)

/-- Bytes of the team's allotment. -/
def Team.allots (t : Team) (a n : Nat) : Bool := decide (t.spadBase ≤ a) && decide (a + n ≤ t.spadBase + t.spadSize)

/-- A score row in scratchpad. -/
def State.scoreRow (s : State) (c a n : Nat) : List (BitVec 32) := (List.range n).map fun i => BitVec.ofNat 32 (s.spadRead c (a + 4 * i) 4)

/-- `xsel` in the active fibres (R373): those that an acquire or an engine command holds wait, all of them for a uniform destination. -/
def xselBody (f : FR) (x : Ctx) (s : State) : State × List (Nat × LaneRes) :=
  let free := x.act.filter fun fid => !s.acqOpen x.core x.slot fid
  let split (s : State) (go : List Nat) (res : List (Nat × LaneRes)) : State × List (Nat × LaneRes) :=
    (s, res ++ (x.act.filter fun fid => !go.contains fid).map (·, .retry))
  match x.team s, (if isUniform f.d && free.length != x.act.length then [] else free) with
  | none, _ => (s, [])
  | _, [] => split s [] []
  | some t, lead :: go =>
    match s.readRoute x t lead (x.rdU s true f.b).toNat with
    | (s, .error r) => split s (lead :: go) ((lead :: go).map (·, r))
    | (s, .ok r) =>
      let n := r.ngrp * r.epg
      let js := (lead :: go).map fun fid => (fid, (x.rd s fid false f.a).toNat % 2 ^ 32)
      let bad (a : Nat) : Option Trap :=
        if a % 4 ≠ 0 then some (memTrap .misaligned a false)
        else if t.allots a (4 * n) then none else some (memTrap .permitDenied a false)
      let good := js.filter fun j => (bad j.2).isNone
      let traps := js.filterMap fun j => (bad j.2).map fun tr => (j.1, LaneRes.trap tr)
      let go := good.filter fun j => !s.engHeld x.core s.uid s.uid j.2 (j.2 + 4 * n)
      let go := if isUniform f.d && go.length != good.length then [] else go
      let q := if go.isEmpty then (s, []) else s.deliver x .ready (go.map fun j => (j.1, [(f.d, true, r.choose (s.scoreRow x.core j.2 n))]))
      split q.1 (go.map (·.1) ++ traps.map (·.1)) (traps ++ q.2)

def execXsel (f : FR) (s : State) : Host.Outcome State Fault Refusal := issue (.xsel f) f.h noCheck (xselBody f) s

-- dispatch

/-- The token row of a command: its address (R374). -/
def DispCmd.rowAddr (q : DispCmd) (t : Nat) : Nat := (q.tok.elemPos q.tokw [0, t]).1

/-- The score row's scratchpad address. -/
def DispCmd.scoreAddr (q : DispCmd) (t : Nat) : Nat := (q.sco.elemPos 32 [0, t]).1

/-- The granules of the token rows (R383). -/
def DispCmd.pages (q : DispCmd) : List Nat :=
  ((List.range q.n).flatMap fun t =>
    let a := q.rowAddr t
    let last := (a + 64 * (Route.parse q.desc).tokb - 1) / 2 ^ 16
    (List.range (last - a / 2 ^ 16 + 1)).map (a / 2 ^ 16 + ·)).eraseDups

/-- Check 9 of `xdisp`, as far as it needs no route descriptor (R84, R204, R374). -/
def xdispCheck (f : FE) : Ctx → State → List (Nat × Trap) :=
  engineCheck [f.tda.toNat, f.tdb.toNat]
    (fun t => [f.tda.toNat, f.tdb.toNat].flatMap fun n => ((t.desc n).etar, fun _ => true) :: scaleReq t (t.desc n))
    (fun _ => [(f.tda.toNat, fun d => !d.spc && d.rank == 2), (f.tdb.toNat, fun d => d.spc && d.etar == 0)])

/-- The command that an `xdisp` enters, with what it captures. -/
def xdispCmd (f : FE) (x : Ctx) (s : State) (t : Team) (desc : List Byte) : DispCmd :=
  let role := match x.act.head?.bind t.fibre? with | some g => g.role | none => .general
  let a := match f.a with | .k i => i.toNat | _ => 0
  let tok := t.desc f.tda.toNat
  { id := s.uid, core := x.core, slot := x.slot, ctx := t.ctx, tok := tok, sco := t.desc f.tdb.toNat, tokw := (Fmt.of (t.tar tok.etar)).w,
    choice := (x.rdU s false f.d).toNat % 2 ^ 32, desc := desc, n := (t.ureg role (a + 2)).toNat,
    round := (t.ureg role (a + 3)).toNat % 2 ^ 16, bar := match f.b with | .b n => some n.toNat | _ => none, started := false, next := 0,
    bytes := List.replicate 8 0, abort := none, due := List.replicate 8 [], got := [], asked := false }

/-- The causes of `xdisp` that the route descriptor decides (R374), and those of check 10 (R374, R383). -/
def State.xdispTrap (s : State) (c : Nat) (t : Team) (f : FE) (q : DispCmd) : Option Trap :=
  let r := Route.parse q.desc
  if q.tok.sz 0 * q.tokw ≠ 8 * (64 * r.tokb) then some { cause := .descriptorIllegal, info := BitVec.ofNat 64 f.tda.toNat }
  else if q.sco.sz 0 ≠ r.ngrp * r.epg then some { cause := .descriptorIllegal, info := BitVec.ofNat 64 f.tdb.toNat }
  else if q.n ≠ 0 && !(t.allots q.choice (8 * q.n)) then some (memTrap .permitDenied q.choice false)
  else match (List.range q.n).find? fun i => !(t.allots (q.scoreAddr i) (4 * r.ngrp * r.epg)) with
    | some i => some (memTrap .permitDenied (q.scoreAddr i) false)
    | none => (s.revokingPage c t.ctx q.pages).map fun va => { cause := .pinRevoked, addr := BitVec.ofNat 64 va }

/-- The issue of `xdisp` (R374, R375). -/
def xdispBody (f : FE) (x : Ctx) (s : State) : State × List (Nat × LaneRes) :=
  match x.team s, x.act with
  | none, _ | _, [] => (s, [])
  | some t, lead :: _ =>
    if s.tdHeld x.core x.slot [f.tda.toNat, f.tdb.toNat] then (s, x.act.map (·, .retry))
    else
      let role := match t.fibre? lead with | some g => g.role | none => .general
      let a := match f.a with | .k i => i.toNat | _ => 0
      let va := (pair (t.ureg role (a + 1)) (t.ureg role a)).toNat
      match s.readRoute x t lead va with
      | (s, .error r) => (s, x.act.map (·, r))
      | (s, .ok _) =>
        let (s, desc) := s.readThrough x.core t lead va 2
        let q := xdispCmd f x s t desc
        match s.xdispTrap x.core t f q with
        | some tr => (s, x.trapAll tr)
        | none =>
          let d := dieOf x.core
          if !(x.act.all (s.relReady x.core x.slot)) then (x.act.foldl (fun s fid => s.releaseWork x.core x.slot fid) s, x.wait)
          else if 64 ≤ (s.die d).dispq.length then (s, x.wait)
          else
            let (_, s) := s.fresh
            let s := s.modDie d fun y => { y with dispq := y.dispq ++ [q] }
            ((s.capturePins x.core t q.id q.pages).spawnOnce .dispatchRun { die := d }, [])

def execXdisp (f : FE) (s : State) : Host.Outcome State Fault Refusal := issue (.xdisp f) f.h (xdispCheck f) (xdispBody f) s

/-- A fresh cursor of a round (R375). -/
def Cursor.fresh (round : Nat) : Cursor := ⟨0, round, false, false, 0, 0, 0xFFFFFFFF, List.replicate 8 0, 0⟩

/-- What a cursor's counters saturate at. -/
def sat32 (n : Nat) : Nat := min n 0xFFFFFFFF

def State.modDisp (s : State) (d id : Nat) (f : DispCmd → DispCmd) : State :=
  s.modDie d fun y => { y with dispq := modWhere (·.id == id) f y.dispq }

/-- The command starts: the cursor is of its round, and active (R375). -/
def State.dispatchStart (s : State) (d : Nat) (q : DispCmd) : State :=
  (s.modDisp d q.id fun q => { q with started := true, next := 0, bytes := List.replicate 8 0, got := [] }).modTeam q.core q.slot fun t =>
    let c := if t.cursor.round = q.round then t.cursor else Cursor.fresh q.round
    { t with cursor := { c with act := true, abt := false, cause := 0 } }

/-- The command ends, completed or aborted: the cursor, and the completion action (R375, R376), a release at `.pkg`: the slots that it names
show no older bytes in the core's L1 (R335, R340). -/
def State.dispatchEnd (s : State) (d : Nat) (q : DispCmd) : State :=
  let s := s.modTeam q.core q.slot fun t =>
    { t with cursor := match q.abort with
        | none => { t.cursor with act := false }
        | some (x, a) => { t.cursor with act := false, abt := true, cause := x, aaddr := a } }
  let s := (s.modDie d fun y => { y with dispq := y.dispq.filter (·.id != q.id) }).dropCmd q.id
  let s := match q.bar, s.team? q.core q.slot with
    | some n, some t => (s.acquire q.core 5).arrive q.core q.slot n (sat32 t.cursor.bytes.sum) none
    | _, _ => s
  if (s.die d).dispq.isEmpty then s else s.spawnOnce .dispatchRun { die := d }

/-- Nothing is left to send or to wait for. -/
def DispCmd.over (q : DispCmd) : Bool := (q.abort.isSome || decide (q.n ≤ q.next)) && q.due.all (·.isEmpty)

/-- What a read of a token row comes to: the row, a cause and address, or a part that another package has to be asked for. -/
inductive RowRead where
  | row (bytes : List Byte)
  | stop (cause va : Nat)
  | ask (got : List Byte) (va n : Nat) (l : Leaf)

/-- The rest of the next token's row, after the bytes got so far, a sector at a time (R244, R375). -/
def State.rowRest (s : State) (t : Team) (q : DispCmd) : Nat → List Byte → RowRead
  | 0, got => .row got
  | k + 1, got =>
    let va := q.rowAddr q.next + got.length
    let n := min (64 * (Route.parse q.desc).tokb - got.length) (32 - va % 32)
    if n = 0 then .row got
    else match s.elemAt q.core t q.id .read va n with
      | .home pa => State.rowRest s t q k (got ++ (List.range n).map fun i => Memory.get s.mem (pa i))
      | .stop x => .stop x va
      | .remote l => .ask got va n l
      | .viaAlias _ => .stop Cause.permitDenied.code va

/-- The bytes of the next token's row (R375, R376). -/
def State.tokenRow (s : State) (t : Team) (q : DispCmd) : RowRead := s.rowRest t q (64 * (Route.parse q.desc).tokb) q.got

/-- What the next token's choice word asks for, group by group (R375): the groups to send the token to, the bytes counted toward each die
after it, and whether every group of the word exists and is named once. -/
def DispCmd.plan (q : DispCmd) (c : Cursor) : List Nat → List Nat → List Nat → List Nat × List Nat × Bool
  | [], _, sent => ([], sent, true)
  | g :: gs, seen, sent =>
    let r := Route.parse q.desc
    if g = 0xFF then DispCmd.plan q c gs seen sent
    else if r.ngrp ≤ g || seen.contains g then ([], sent, false)
    else
      let p := r.dieOf g
      let sum := nth 0 sent p + 64 * r.tokb
      let k := DispCmd.plan q c gs (g :: seen) (setAt sent p sum)
      if c.tok ≤ q.next && nth 0 c.bytes p < sum then (g :: k.1, k.2) else k

/-- The next token goes to the die of a group, with the scores of the group. -/
def State.sendToken (s : State) (d : Nat) (q : DispCmd) (row : List Byte) (g : Nat) : State :=
  let r := Route.parse q.desc
  let p := r.dieOf g
  let (k, s) := s.fresh
  let sc := r.groupScores (s.scoreRow q.core (q.scoreAddr q.next) (r.ngrp * r.epg)) g
  let m : Token := ⟨k, q.id, d, q.ctx, q.round, q.next, g, q.desc, sc, row⟩
  let s := (s.modDie p fun y => { y with tokens := y.tokens ++ [m] }).spawn .ingressArrival { die := p, id := k }
  s.modDisp d q.id fun y => { y with due := modAt y.due p (· ++ [q.next]) }

/-- `TOK`: the lowest token that some chosen die has not acknowledged (R375). -/
def DispCmd.lowest (q : DispCmd) : Nat := q.due.flatten.foldl min q.next

/-- The cursor's `TOK` follows its command. -/
def State.followTok (s : State) (d id : Nat) : State :=
  match (s.die d).dispq.find? (·.id == id) with
  | none => s
  | some q => s.modTeam q.core q.slot fun t => { t with cursor := { t.cursor with tok := max t.cursor.tok q.lowest } }

/-- The next token is sent, and the command goes on to the token after it; or it aborts at its row or at its choice word (R375, R376). -/
def State.dispatchToken (s : State) (d : Nat) (q : DispCmd) (t : Team) (gs : List Nat) : State :=
  let k := q.plan t.cursor gs [] q.bytes
  let send (row : List Byte) : State :=
    let s := (k.1.foldl (fun s g => s.sendToken d q row g) s).modDisp d q.id fun y =>
      if k.2.2 then { y with next := q.next + 1, bytes := k.2.1, got := [] }
      else { y with abort := some (Cause.permitDenied.code, q.choice + 8 * q.next) }
    s.followTok d q.id
  if k.1.isEmpty then send []
  else match s.tokenRow t q with
    | .row bs => send bs
    | .stop x va => s.modDisp d q.id fun y => { y with abort := some (x, va) }
    | .ask got va n l => (s.modDisp d q.id fun y => { y with got := got, asked := true }).remoteAsk l va (l.ord == 0) (.row d q.id q.ctx va n)

/-- The groups that a token's choice word names, in order. -/
def State.choiceOf (s : State) (q : DispCmd) (tok : Nat) : List Nat :=
  (leBytes (s.spadRead q.core (q.choice + 8 * tok) 8) 8).take (Route.parse q.desc).topg |>.map (·.toNat)

/-- R375: the command at the head of the queue starts, sends its next token or ends. -/
def execDispatchRun (s : State) : Host.Outcome State Fault Refusal :=
  let d := s.par.die
  match (s.die d).dispq with
  | [] => .next s
  | q :: _ =>
    match s.team? q.core q.slot with
    | none => .next s
    | some t =>
      let again := s.spawnOnce .dispatchRun s.par
      if !q.started then .next (if t.preempt.isSome then again else (s.dispatchStart d q).spawnOnce .dispatchRun s.par)
      else if q.over then .next (s.dispatchEnd d q)
      else if t.preempt.isSome || q.abort.isSome || q.n ≤ q.next || q.asked then .next again
      else
        let r := Route.parse q.desc
        let gs := s.choiceOf q q.next
        let room := (List.range 8).all fun p => (nth [] q.due p).length + (gs.filter fun g => decide (g < r.ngrp) && r.dieOf g == p).length ≤ 64
        let held := s.engHeld q.core q.id q.id (q.choice + 8 * q.next) (q.choice + 8 * q.next + 8) ||
          s.engHeld q.core q.id q.id (q.scoreAddr q.next) (q.scoreAddr q.next + 4 * r.ngrp * r.epg)
        if !room || held then .next again
        else .next ((s.dispatchToken d q t gs).spawnOnce .dispatchRun s.par)

/-- R375, R376: an acknowledgement advances the cursor, or reports an abort. -/
def execDispatchAck (s : State) : Host.Outcome State Fault Refusal :=
  let d := s.par.die
  match (s.die d).tokAcks.find? (·.id == s.par.id) with
  | none => .next s
  | some a =>
    let s := s.modDie d fun y => { y with tokAcks := y.tokAcks.filter (·.id != a.id) }
    match (s.die d).dispq.find? (·.id == a.cmd) with
    | none => .next s
    | some q =>
      let s := s.modDisp d q.id fun q =>
        { q with due := modAt q.due a.die (·.erase a.t), abort := q.abort <|> a.abort, next := if a.abort.isSome then min q.next a.t else q.next }
      match (s.die d).dispq.find? (·.id == a.cmd) with
      | none => .next s
      | some q =>
        let n := 64 * (Route.parse q.desc).tokb
        let s := if a.abort.isSome then s
          else s.modTeam q.core q.slot fun t =>
            let c := t.cursor
            { t with cursor :=
                { c with bytes := modAt c.bytes a.die fun b => sat32 (b + n), refn := sat32 (c.refn + a.refused),
                         ref0 := if a.refused = 0 then c.ref0 else min c.ref0 a.t, tok := max c.tok q.lowest } }
        .next (if q.over then s.dispatchEnd d q else s.spawnOnce .dispatchRun { die := d })

-- the cursor (R378, R379)

def Cursor.bytes64 (c : Cursor) : List Byte :=
  leBytes c.tok 4 ++ leBytes c.round 2 ++ leBytes ((if c.act then 1 else 0) + (if c.abt then 2 else 0)) 1 ++ leBytes c.cause 1 ++
  leBytes c.refn 4 ++ leBytes c.ref0 4 ++ c.bytes.flatMap (leBytes · 4) ++ leBytes c.aaddr 8 ++ leBytes 0 8

def Cursor.parse (b : List Byte) : Cursor where
  tok := field b 0 4
  round := field b 4 2
  act := (field b 6 1).testBit 0
  abt := (field b 6 1).testBit 1
  cause := field b 7 1
  refn := field b 8 4
  ref0 := field b 0x0C 4
  bytes := (List.range 8).map fun i => field b (0x10 + 4 * i) 4
  aaddr := field b 0x30 8

/-- `xcur.rd` and `xcur.wr`, once per gang (R379). -/
def xcurBody (f : FR) (wr : Bool) (x : Ctx) (s : State) : State × List (Nat × LaneRes) :=
  match x.team s, x.act with
  | none, _ | _, [] => (s, [])
  | some t, lead :: _ =>
    let a := (x.rdU s false f.a).toNat % 2 ^ 32
    if a % 64 ≠ 0 then (s, x.trapAll (memTrap .misaligned a (!wr)))
    else if !(t.allots a 64) then (s, x.trapAll (memTrap .permitDenied a (!wr)))
    else if (s.die (dieOf x.core)).dispq.any fun q => q.core == x.core && q.slot == x.slot then (s, x.wait)
    else if wr then
      if s.acqOpen x.core x.slot lead || s.engHeld x.core s.uid s.uid a (a + 64) then (s, x.act.map (·, .retry))
      else
        let b := Memory.bytes (s.core x.core).spad a 64
        let c := Cursor.parse b
        if c.act || (field b 6 1) / 4 ≠ 0 || field b 0x38 8 ≠ 0 then (s, x.trapAll (memTrap .permitDenied a false))
        else (s.modTeam x.core x.slot fun t => { t with cursor := c }, [])
    else
      let rs := (wordsOf a 64).map fun w => (⟨s.uid, w, none, s.uid⟩ : SpReq)
      let full := match s.fibre? x.core x.slot lead with | some g => decide (65527 ≤ g.unack) | none => false
      if s.acqOpen x.core x.slot lead || full || !(s.core x.core).bankRoom rs then (s, x.act.map (·, .retry))
      else
        let s := s.acquire x.core 5
        let v := BitVec.ofNat 512 (leNat t.cursor.bytes64)
        ((List.range 8).foldl (fun s i =>
          s.beginSpad x t (.store 9) false (fun _ => false) none none none
            [⟨lead, spGlobal x.core (a + 8 * i), v.extractLsb' (64 * i) 64, 0, 0, none⟩]) s, [])

def execXcurRd (f : FR) (s : State) : Host.Outcome State Fault Refusal := issue (.xcurRd f) f.h noCheck (xcurBody f false) s
def execXcurWr (f : FR) (s : State) : Host.Outcome State Fault Refusal := issue (.xcurWr f) f.h noCheck (xcurBody f true) s

-- the ingress unit (R380)

/-- A page of a context is being revoked in some TLB (R383). -/
def State.revokingAnywhere (s : State) (ctx va : Nat) : Bool :=
  s.coreNums.any fun c => (s.core c).tlb.any fun e => e.covers ctx va && e.revoking

/-- The cause that an ingress unit finds for bytes that it may write (R372, R380, R383). -/
def State.ingressCause (s : State) (d ctx va n : Nat) : Option (Nat × Nat) :=
  let w := (s.context ctx).world
  let first := va / 2 ^ 16
  (List.range ((va + n - 1) / 2 ^ 16 - first + 1)).findSome? fun i =>
    let a := max va ((first + i) * 2 ^ 16)
    match s.lookWalk ctx w .write a with
    | .miss => none
    | .fault x => some (x.code, a)
    | .ok l =>
      if 2 ≤ l.apt || l.phys a / 2 ^ 38 ≠ d then some (Cause.permitDenied.code, a)
      else if s.revokingAnywhere ctx a then some (Cause.pinRevoked.code, a)
      else none

/-- The physical address of a byte that a walk reaches. -/
def State.physOf (s : State) (ctx va : Nat) : Nat :=
  match s.lookWalk ctx (s.context ctx).world .read va with
  | .ok l => l.phys va
  | _ => 0

/-- Bytes written at their homes, granule by granule. -/
def State.writeHomes (s : State) (ctx : Nat) : Nat → Nat → List Byte → State
  | 0, _, _ => s
  | fuel + 1, va, bs =>
    if bs.isEmpty then s
    else
      let m := 2 ^ 16 - va % 2 ^ 16
      State.writeHomes (s.homeWrite (s.physOf ctx va) (min m bs.length) (leNat (bs.take m))) ctx fuel (va + m) (bs.drop m)

/-- A token is offered to the chosen experts of its group, in rank order (R380): the pairs refused. -/
def State.offer (s : State) (m : Token) (r : Route) (area : Nat) : List (Nat × Nat) → State × Nat
  | [] => (s, 0)
  | (rank, e) :: es =>
    let x := m.g * r.epg + e
    let cnt := s.physOf m.ctx (area + 2 * x)
    let old := Memory.read s.mem cnt 2
    let s := s.homeWrite cnt 2 (min (old + 1) 0xFFFF)
    let (s, no) :=
      if old < r.cap then
        let header := leBytes m.t 4 ++ leBytes m.src 1 ++ leBytes rank 1 ++ leBytes m.round 2 ++ leBytes (nth 0 m.scores e).toNat 4 ++
          leBytes 0 52
        (s.writeHomes m.ctx 3 (area + 0x2000 + (x * r.cap + old) * (64 * (r.tokb + 1))) (header ++ m.payload), 0)
      else
        let refc := s.physOf m.ctx (area + 0x1000)
        (s.homeWrite refc 4 (sat32 (Memory.read s.mem refc 4 + 1)), 1)
    let q := State.offer s m r area es
    (q.1, q.2 + no)

/-- The ranges that an arrival could write: address and length. -/
def State.ingressRanges (s : State) (m : Token) (r : Route) (area : Nat) (es : List Nat) : List (Nat × Nat) :=
  (es.flatMap fun e =>
    let x := m.g * r.epg + e
    let old := Memory.read s.mem (s.physOf m.ctx (area + 2 * x)) 2
    (area + 2 * x, 2) ::
      if old < r.cap then [(area + 0x2000 + (x * r.cap + old) * (64 * (r.tokb + 1)), 64 * (r.tokb + 1))] else []) ++ [(area + 0x1000, 4)]

/-- The acknowledgement of an arrival goes back to its source die. -/
def State.ackToken (s : State) (d : Nat) (m : Token) (refused : Nat) (abort : Option (Nat × Nat)) : State :=
  let (k, s) := s.fresh
  (s.modDie m.src fun y => { y with tokAcks := y.tokAcks ++ [⟨k, m.cmd, d, m.t, refused, abort⟩] }).spawn .dispatchAck { die := m.src, id := k }

/-- R380: an arrival, after every earlier one of its source die. -/
def execIngressArrival (s : State) : Host.Outcome State Fault Refusal :=
  let d := s.par.die
  match (s.die d).tokens.find? (·.id == s.par.id) with
  | none => .next s
  | some m =>
    if ((s.die d).tokens.takeWhile (·.id != m.id)).any (·.src == m.src) then .next (s.spawn .ingressArrival s.par)
    else
      let s := s.modDie d fun y => { y with tokens := y.tokens.filter (·.id != m.id) }
      let seen := (s.die d).marks.any fun k => k.1 == m.src && k.2.1 == m.ctx && k.2.2.1 == m.round && decide (m.t ≤ k.2.2.2)
      if seen then .next (s.ackToken d m 0 none)
      else
        let r := Route.parse m.desc
        let area := r.sbase + d * r.sstr
        let es := (byRank (m.scores.map rankOf)).take r.tope
        let counters := (es.map fun e => (area + 2 * (m.g * r.epg + e), 2)) ++ [(area + 0x1000, 4)]
        let poisoned (v : Nat × Nat) : Option (Nat × Nat) :=
          if s.poisoned (s.physOf m.ctx v.1) v.2 then some (Cause.pageFault.code, v.1) else none
        match (counters.findSome? fun v => s.ingressCause d m.ctx v.1 v.2) <|> counters.findSome? poisoned <|>
            (s.ingressRanges m r area es).findSome? fun v => s.ingressCause d m.ctx v.1 v.2 with
        | some e => .next (s.ackToken d m 0 (some e))
        | none =>
          let q := s.offer m r area ((List.range es.length).zip es)
          let s := q.1.modDie d fun y => { y with marks := y.marks.filter (·.1 != m.src) ++ [(m.src, m.ctx, m.round, m.t)] }
          .next (s.ackToken d m q.2 none)

-- counts (R381)

/-- The cause of an `xhist` on one of its ranges, or a walk to wait for. -/
def State.histCause (s : State) (c : Nat) (t : Team) (k : Access) (va n : Nat) : Option (Except Nat Trap) :=
  let first := va / 2 ^ 16
  (List.range ((va + n - 1) / 2 ^ 16 - first + 1)).findSome? fun i =>
    let a := max va ((first + i) * 2 ^ 16)
    let wr := k == .atomic
    match s.look c t.ctx t.world k a with
    | .miss => some (.error a)
    | .fault x => some (.ok (memTrap x a wr))
    | .ok l =>
      if 4 ≤ l.apt then some (.ok (memTrap .permitDenied a wr))
      else if s.hostGone l a then some (.ok { memTrap .pageFault a wr with info := if wr then 9 else 8 })
      else if s.poisoned (l.phys a) (min n (va + n - a)) then some (.ok { memTrap .pageFault a wr with info := if wr then 5 else 4 })
      else none

/-- One step of `xhist`, indivisible at the block's home. -/
def State.histStep (s : State) (ctx blk area x : Nat) : State :=
  let hs := s.physOf ctx (blk + 8 + 4 * x)
  let h := Memory.read s.mem hs 4 + Memory.read s.mem (s.physOf ctx (area + 2 * x)) 2
  let fl := s.physOf ctx blk
  let s := if 0xFFFFFFFF < h then s.homeWrite fl 1 (Memory.read s.mem fl 1 / 2 * 2 + 1) else s
  s.homeWrite hs 4 (sat32 h)

def xhistBody (f : FM) (x : Ctx) (s : State) : State × List (Nat × LaneRes) :=
  match x.team s, x.act with
  | none, _ | _, [] => (s, [])
  | some t, lead :: _ =>
    let blk := x.ea s lead f
    let area := (x.rdU s true f.d).toNat
    let n := (x.rdU s false f.b).toNat % 2 ^ 32
    if blk % 8 ≠ 0 then (s, x.trapAll (memTrap .misaligned blk true))
    else if area % 2 ^ 16 ≠ 0 then (s, x.trapAll (memTrap .misaligned area false))
    else if n = 0 || 2048 < n then (s, x.trapAll (memTrap .permitDenied blk true))
    else match s.histCause x.core t .atomic blk (8 + 4 * n) <|> s.histCause x.core t .read area (2 * n) with
      | some (.error va) => (s.beginWalk x.core t.ctx va, x.act.map (·, .retry))
      | some (.ok tr) => (s.takeFail x.core t.ctx tr.addr.toNat, x.trapAll tr)
      | none =>
        if x.act.any fun fid => s.acqOpen x.core x.slot fid || s.countFull x.core x.slot fid then (s, x.act.map (·, .retry))
        else
          let s := x.act.foldl (fun s fid => s.countStore x.core x.slot fid) s
          let s := (List.range n).foldl (fun s i => s.histStep t.ctx blk area i) s
          (s.ackOwners (x.act.map fun fid => ownerOf x.core x.slot fid), [])

def execXhist (f : FM) (s : State) : Host.Outcome State Fault Refusal := issue (.xhist f) f.h noCheck (xhistBody f) s

-- regrouping (R382)

def regrpBody (f : FR) (x : Ctx) (s : State) : State × List (Nat × LaneRes) :=
  match x.act.head?.bind (s.fibre? x.core x.slot) with
  | none => (s, [])
  | some g0 =>
    let keys := x.act.map fun fid => (fid, (x.rd s fid false f.a).extractLsb' 0 32)
    let s := s.modTeam x.core x.slot fun t =>
      { t with fibres := modWhere (fun g => x.act.contains g.fid)
                 (fun g => { g with wait := some (.regrp (assocGet 0 keys g.fid) f.d) }) t.fibres }
    (s.spawnOnce .regroupComplete { core := x.core, slot := x.slot, role := g0.role }, x.act.map (·, .block))

def execRegrp (f : FR) (s : State) : Host.Outcome State Fault Refusal := issue (.regrp f) f.h noCheck (regrpBody f) s

/-- The key and destination of a fibre at `regrp`. -/
def Fibre.regrp? (f : Fibre) : Option (BitVec 32 × Operand) :=
  match f.wait with
  | some (.regrp k d) => some (k, d)
  | _ => none

/-- The participants in the order of (key, `FID`), where every live fibre of the role waits at one address. -/
def Team.regroupSet (t : Team) (role : Role) : Option (List Fibre) :=
  let fs := t.roleFibres role
  match fs with
  | [] => none
  | f0 :: _ =>
    if fs.all fun f => f.regrp?.isSome && f.pc == f0.pc then
      some (sortBy (fun f => (match f.regrp? with | some k => k.1.toNat | none => 0) * 2 ^ 16 + f.fid) fs)
    else none

/-- A list cut into chunks. -/
def chunksOf (n : Nat) : Nat → List α → List (List α)
  | 0, _ => []
  | fuel + 1, l => if l.isEmpty then [] else l.take n :: chunksOf n fuel (l.drop n)

/-- The chunks of 32 of each key's run (R382). -/
def regroupChunks (fs : List Fibre) : List (List Fibre) :=
  ((fs.map (·.regrp?.map (·.1))).eraseDups).flatMap fun k => chunksOf 32 fs.length (fs.filter fun f => f.regrp?.map (·.1) == k)

/-- Windows placed in sort order, each in its target bank (R382, R101): fibre, lane and base; none where one fits nowhere. -/
def replace : List (Nat × Nat × Nat) → List (Nat × Nat × Nat) → Option (List (Nat × Nat × Nat))
  | _, [] => some []
  | ws, (fid, lane, size) :: r =>
    match bankRun ws lane size with
    | none => none
    | some b => (replace (ws ++ [(lane, b, size)]) r).map ((fid, lane, b) :: ·)

/-- R382. -/
def execRegroupComplete (s : State) : Host.Outcome State Fault Refusal :=
  let c := s.par.core
  let slot := s.par.slot
  match s.team? c slot with
  | none => .next s
  | some t =>
    match t.regroupSet s.par.role with
    | none => .next s
    | some fs =>
      let chunks := regroupChunks fs
      let ids := fs.map (·.fid)
      let runs := ((fs.map (·.regrp?.map (·.1))).eraseDups).map fun k => (fs.filter fun f => f.regrp?.map (·.1) == k).map (·.fid)
      let ranks := runs.flatMap fun r => r.zip (List.range r.length)
      let dst := (fs.head?.bind (·.regrp?)).map (·.2)
      let diff := (ranks.filter fun r => r.2 != 0).map (·.1)
      if (dst.map isUniform).getD false && !diff.isEmpty then
        .next (ids.foldl (fun s fid => s.failWaiting c slot fid { cause := .nonuniform, opnd := 2, lmask := some (laneMask t diff) }) s)
      else
        let others := (s.core c).teams.flatMap fun u => (u.fibres.filter fun f => !(u.slot == slot && ids.contains f.fid)).map fun f =>
          (f.lane, f.wbase, f.wsize)
        let want := chunks.flatMap fun ch => ((List.range ch.length).zip ch).map fun p => (p.2.fid, p.1, p.2.wsize)
        let s := match replace others want with
          | none => s
          | some ps => s.modTeam c slot fun t =>
            { t with fibres := t.fibres.map fun f => match ps.find? (·.1 == f.fid) with
                | some p => { f with lane := p.2.1, wbase := p.2.2 }
                | none => f }
        let moved := ((List.range 32).map fun b => ((want.filter (·.2.1 == b)).map (·.2.2)).sum).foldl max 0
        let ready := s.now c + 24 + (moved + 7) / 8
        let s := match dst with
          | some d =>
            if isUniform d then s.answer c slot ids d false 0
            else ranks.foldl (fun s r => s.answer c slot [r.1] d false (BitVec.ofNat 64 r.2)) s
          | none => s
        .next (chunks.foldl (fun s ch => s.complete c slot (ch.map (·.fid)) ready) s)

end Sys2Proof.Machine
end

