-- ==== Sys2Proof/Machine/Preempt.lean ====
section
/-!
DEFINITION. Pre-emption, the saved context and its restoration (R191, R200, R269, R293-R298, R377, R464), and the termination of a team by
request (R292).
-/
namespace Sys2Proof.Machine

open Sys2Proof

-- the request (R293)

/-- A fibre of a team under pre-emption that waits for room in the side log (R284) and has reached a recorded point stops there. -/
def State.stopLogWaiter (s : State) (c slot fid : Nat) : State :=
  match s.team? c slot, s.fibre? c slot fid with
  | some t, some f =>
    if f.run == .running && f.logWait != 0 then
      match s.pointOf? t f.pc with
      | some e => s.stopFibres c slot [fid] (some e)
      | none => s
    else s
  | _, _ => s

/-- A pre-emption request reaches a team: open regions roll back (R464); fibres that wait in a blocking instruction stop there, forced
where it has no recorded point; so do those that a debugger holds. Commands behind the team's own stopped copies may begin (R200). -/
def State.requestPreempt (s : State) (c slot : Nat) (byCtxsave : Bool) : State :=
  match s.team? c slot with
  | none => s
  | some t =>
    if t.preempt.isSome || t.terminating then s
    else
      let s := s.modTeam c slot fun t => { t with preempt := some (s.now c, byCtxsave) }
      let s := t.fibres.foldl (fun s f => if f.region.any (!·.applying) then s.rollback c slot f.fid 5 else s) s
      let s := t.fibres.foldl (fun s f =>
        match s.fibre? c slot f.fid with
        | none => s
        | some f =>
          if f.wait.any (!·.selfEnding) then
            ((s.withdraw c slot f.fid).settle c slot (· == f.fid)).modFibre c slot f.fid fun g =>
              if g.run == .running then { g with run := .point (s.pointOf? t g.pc), rep := none } else g
          else if f.run == .running then (s.stopLogWaiter c slot f.fid).spawn .forcedStop { core := c, slot := slot, fid := f.fid }
          else s) s
      (s.regang c).engineWake c

/-- R293: a request of the die scheduler. -/
def execPreemptRequest (s : State) : Host.Outcome State Fault Refusal :=
  let c := s.par.core
  match s.team? c s.par.slot with
  | none => .next s
  | some t =>
    if t.preempt.isSome || t.terminating || t.fibres.isEmpty then .next s
    else .next ((s.requestPreempt c s.par.slot false).spawn .contextSave s.par)

/-- R293: a fibre that has not stopped 20,000 cycles after the request stops at its next instruction boundary. -/
def execForcedStop (s : State) : Host.Outcome State Fault Refusal :=
  let c := s.par.core
  match s.team? c s.par.slot, s.fibre? c s.par.slot s.par.fid with
  | some t, some f =>
    match t.preempt with
    | none => .next s
    | some (t0, _) =>
      if f.run != .running then .next s
      else if s.now c < t0 + 20000 || f.wait.isSome then .next ((s.stopLogWaiter c s.par.slot f.fid).spawn .forcedStop s.par)
      else .next (s.stopFibres c s.par.slot [f.fid] none)
  | _, _ => .next s

-- what must be settled (R294)

/-- A store-buffer entry that goes into the image (R191): an unsent store, not of an alias page; and a write that waits for room in the
side log, which a reduction enters in the image (R284). -/
def SBEntry.savable (e : SBEntry) : Bool :=
  !e.sent && (e.toLog.isSome || (decide (e.leaf.apt < 5) && (match e.kind with | .store .. => true | .red .. => false)))

/-- An engine or replayed push of a team that is parked at its ring: what an entry of `KIND` 4 holds (R269, R285). -/
def State.savedPush (s : State) (c slot : Nat) (o : QOp) : Option SLEntry :=
  let entry (fid : Nat) (pc : BitVec 56) : Option SLEntry :=
    match o.tgt, o.kind with
    | .ring k off, .push x _ _ =>
      if o.parked then
        some ⟨(s.core c).seq, slot, fid, off, pc, .push (if k = c then none else some k) off (x.extractLsb' 0 32), 0, none, 0, false⟩
      else none
    | _, _ => none
  match o.who with
  | .engine c' q slot' fid =>
    if c' = c && slot' = slot then entry fid (match (s.core c).eqcp.find? (·.id == q) with | some e => e.pc | none => 0) else none
  | .replay c' slot' fid pc => if c' = c && slot' = slot then entry fid pc else none
  | _ => none

/-- An operation belongs to a command or a replay of a team. -/
def QOp.engineOf (o : QOp) (c slot : Nat) : Bool :=
  match o.who with
  | .engine c' _ slot' _ | .replay c' slot' _ _ => c' == c && slot' == slot
  | _ => false

/-- What a command still has to do is a push at each of its targets, and these are parked, its writes performed (R200, R269). -/
def State.pushParked (s : State) (c : Nat) (e : EngCmd) : Bool :=
  let parked (p : Nat → Bool) : Bool := s.qops.any fun o => match o.who, o.tgt with
    | .engine c' q _ _, .ring k _ => c' == c && q == e.id && o.parked && p k
    | _, _ => false
  e.moved && parked (fun _ => true) && e.targets.all fun g => parked (· == g / 16)

/-- Everything in flight for a team is settled, so that its image can be written (R294). -/
def State.saveReady (s : State) (c : Nat) (t : Team) : Bool :=
  let k := s.core c
  let slot := t.slot
  !t.fibres.isEmpty && !s.deliveryTo c slot && t.fibres.all (fun f => f.wait.isNone && f.run != .running && f.region.isNone && f.pendTrap.isNone) &&
  !(k.loads.any (·.slot == slot)) && !(k.atomics.any (·.slot == slot)) && !(k.unis.any (·.slot == slot)) &&
  !(s.spOps.any fun o => o.core == c && o.slot == slot) && !(s.reports.any fun r => r.core == c && r.slot == slot) &&
  !(k.acks.any fun a => a.owners.any (·.1 == slot)) && !(s.coreNums.any fun x => (s.core x).l1.any fun e => e.owners.any (·.1 == 16 * c + slot)) &&
  (k.sb.filter (·.slot == slot)).all (·.savable) &&
  ((k.eqmx ++ k.eqcp ++ k.eqgx).filter (·.slot == slot)).all (fun e => e.stopped || s.pushParked c e) &&
  (s.qops.filter (·.engineOf c slot)).all (fun o => (s.savedPush c slot o).isSome) &&
  ((s.die (dieOf c)).dispq.filter fun q => q.core == c && q.slot == slot).all (fun q => q.abort.isNone && !q.asked && q.due.all (·.isEmpty)) &&
  !(s.forum.out.any fun o => match o.what with
    | .load c' l => c' == c && l.slot == slot
    | .atom c' slot' _ | .ret c' slot' .. | .record c' slot' .. => c' == c && slot' == slot
    | .sb c' e => c' == c && e.slot == slot
    | _ => false)

-- the image (R297, R298)

/-- `CTLW` (R279). -/
def State.ctlw (s : State) (t : Team) : Nat :=
  (if t.sbchk then 1 else 0) + (if t.nantrap then 2 else 0) + (if t.nanseen then 4 else 0) + (if t.stopped then 8 else 0) +
  (if (s.context t.ctx).supervisor then 16 else 0) + (if t.world then 64 else 0) + (if t.dbg.ctl.getLsbD 0 then 128 else 0)

/-- `CTXID` (R278). -/
def Team.ctxid (t : Team) : Nat := t.ctx + (if t.world then 2 ^ 16 else 0)

/-- What is saved of a fibre: its live state by the side-table entry where it stopped at one, everything where it was forced. -/
structure Live where
  forced : Bool
  vmask : Nat
  pmask : Nat
  amask : Nat
  rcl : Bool

/-- R38, R293: by the entry with which the fibre stopped (R39); a fibre that is stopped, halted or held by the one of its address. -/
def State.liveOf (s : State) (t : Team) (f : Fibre) : Live :=
  match (match f.run with | .point e => e | _ => s.pointOf? t f.pc) with
  | some e => ⟨false, bits e 32 32, bits e 64 16, bits e 80 8, e.testBit 88⟩
  | none => ⟨true, 2 ^ (f.wsize / 8) - 1, 0xFFFF, if t.matrix then 0xFF else 0, true⟩

/-- A list padded with zeros to a multiple of 64 bytes. -/
def pad64 (b : List Byte) : List Byte := b ++ List.replicate ((64 - b.length % 64) % 64) 0

/-- A fibre record (R298). -/
def fibreRecord (f : Fibre) (l : Live) : List Byte :=
  let flag (b : Bool) (v : Nat) : Nat := if b then v else 0
  let head := leBytes f.pc.toNat 8 ++ leBytes (if l.rcl then f.rc.toNat else 0) 4 ++ leBytes (f.pred.toNat &&& l.pmask) 2 ++ leBytes f.fid 2 ++
    leBytes f.srstep.toNat 2 ++ leBytes f.wsize 2 ++ leBytes (roleNum f.role) 1 ++
    leBytes (flag f.inh 1 + flag f.msp 2 + flag f.bwait 4 + flag l.forced 8 + flag (f.run == .halted) 16 + flag (match f.run with | .held _ => true | _ => false) 32) 1 ++
    leBytes f.unack 2 ++ leBytes f.bmem.toNat 2 ++ leBytes f.barr.toNat 2 ++ leBytes f.bpar.toNat 2 ++ leBytes 0 2 ++ leBytes l.vmask 4 ++
    leBytes f.mspm.toNat 4 ++ leBytes 0 24
  pad64 (head ++ (setBits l.vmask 32).flatMap fun g => (List.range 8).flatMap fun i => leBytes (f.reg (8 * g + i)).toNat 4)

/-- A saved store-buffer entry for each of an entry's fibres, in ascending `FID` (R191). -/
def sbRecords (e : SBEntry) : List (List Byte) :=
  match e.kind with
  | .store owners _ data => (sortBy (·.1) owners).map fun o =>
      leBytes e.va 8 ++ leBytes o.2.toNat 4 ++ leBytes o.1 2 ++ leBytes e.leaf.ord 1 ++ leBytes (if e.leaf.wld then 1 else 0) 1 ++ leBytes 0 16 ++
        leBytes data.toNat 32
  | .red .. => []

/-- The bits of a descriptor (R202), as `Desc.of` reads them. -/
def Desc.toBytes (d : Desc) : List Byte :=
  leBytes d.base 8 ++ (d.size.take 5).flatMap (leBytes · 4) ++ ((d.stride.drop 1).take 4).flatMap (leBytes · 5) ++ (d.box.take 5).flatMap (leBytes · 1) ++
  leBytes (d.etar + 2 ^ 6 * d.star + 2 ^ 12 * d.blk + 2 ^ 14 * d.rank + (if d.wld then 2 ^ 17 else 0) + (if d.spc then 2 ^ 18 else 0) +
    2 ^ 19 * d.rsv) 3 ++ leBytes d.fill 4 ++ leBytes d.sbase 4

/-- The 64 bytes of a side-log entry, and the three continuation entries of a copy (R285). -/
def slRecords (k : Core) (e : SLEntry) : List (List Byte) :=
  let head (data kind cause ty aop ord : Nat) : List Byte :=
    leBytes (if kind = 4 then 0xFE * 2 ^ 56 + e.va else e.va) 8 ++ leBytes data 8 ++ leBytes e.pc.toNat 8 ++ leBytes e.seq.toNat 4 ++ leBytes e.fid 2 ++
    leBytes kind 1 ++ leBytes cause 1 ++ leBytes ty 1 ++ leBytes aop 1 ++ leBytes (match e.scope with | some sc => sc.toNat | none => 0xFF) 1 ++
    leBytes 0 1 ++ leBytes ord 1 ++ leBytes 0 27
  match e.kind with
  | .store t1 _ d => [head d.toNat 0 e.cause t1.toNat 0 e.ord]
  | .red op t1 _ _ d => [head d.toNat 1 e.cause t1.toNat op.code e.ord]
  | .push _ _ x => [head x.toNat 4 0 0 0 0]
  | .copy cmd i =>
    match (k.eqcp.find? (·.id == cmd)).map EngCmd.kind with
    | some (.copy _ _ da db ta tb off org ev bar ring mcm sub) =>
      [head 0 2 e.cause 0 sub e.ord, da.toBytes, db.toBytes,
       (org.map fun o => leBytes (BitVec.ofInt 32 o).toNat 4).flatten ++ leBytes off 4 ++
         leBytes (match bar, ring with | some n, _ => n | none, some a => a | none, none => 0) 4 ++ leBytes mcm.toNat 4 ++ leBytes i 4 ++
         leBytes ev 1 ++ leBytes 0 3 ++ leBytes ta.toNat 8 ++ leBytes tb.toNat 8 ++ leBytes 0 8]
    | _ => []

/-- A team's own reports to the barriers of its launch, as the bits of `DREP` and `CREP`. -/
def State.repBits (s : State) (c : Nat) (t : Team) : Nat × Nat :=
  match s.launchOf? t.launch with
  | none => (0, 0)
  | some l =>
    (maskOf ((List.range 64).filter fun i => decide (i < l.record.dbn) && (s.dieBar (dieOf c) (l.dbase + i)).rep.contains t.member),
     maskOf ((List.range 64).filter fun i => decide (i < l.record.cbn) && (s.clusBar (clusOf c) (l.cbase + i)).rpt.contains c))

/-- The reductions of a team that wait for room in the side log, as they enter it in the image. -/
def Core.waitingReds (k : Core) (slot : Nat) : List SLEntry :=
  (k.sb.filter fun e => e.slot == slot && (match e.kind with | .red .. => true | .store .. => false)).flatMap fun e =>
    e.logParts.map fun p => ⟨k.seq, slot, p.1, p.2.1, e.pc, p.2.2, (e.toLog.map (·.1)).getD 0, e.scope, e.leaf.ord, false⟩

/-- The image of a settled team (R297), with the completion pushes withdrawn for it. -/
def State.imageOf (s : State) (c : Nat) (t : Team) (pushes : List SLEntry) : List Byte :=
  let k := s.core c
  let fs := sortBy (·.fid) t.fibres
  let lives := fs.map (s.liveOf t)
  let amask := lives.foldl (fun m l => m ||| l.amask) 0
  let tiles := setBits amask 8
  let recs := (fs.zip lives).map fun x => fibreRecord x.1 x.2
  let sbs := (k.sb.filter (·.slot == t.slot)).flatMap sbRecords
  let sls := ((k.sidelog.filter (·.slot == t.slot)) ++ k.waitingReds t.slot ++ pushes).flatMap (slRecords k)
  let o1 := 0xC40
  let o2 := o1 + (t.spadSize + 63) / 64 * 64
  let o3 := o2 + 4096 * tiles.length
  let o4 := o3 + (recs.map (·.length)).sum
  let o5 := o4 + 64 * sbs.length
  let forced := lives.any (·.forced)
  let r := s.repBits c t
  let w64 (v : BitVec 64) : List Byte := leBytes v.toNat 8
  leBytes 0x4E4F4D43 4 ++ leBytes 1 2 ++ leBytes ((if forced then 1 else 0) + (if t.stopped then 2 else 0)) 2 ++ leBytes t.ctxid 4 ++
  leBytes fs.length 4 ++ leBytes sbs.length 4 ++ leBytes sls.length 4 ++ leBytes t.spadSize 4 ++ leBytes t.spadBase 4 ++
  [o1, o2, o3, o4, o5].flatMap (leBytes · 8) ++ leBytes amask 1 ++ leBytes 0 55 ++
  leBytes (s.ctlw t) 8 ++ w64 t.tvec ++ w64 t.tmask ++ w64 t.srseed ++ leBytes t.frbase 8 ++ w64 t.fmbox ++ w64 (s.context t.ctx).ptroot ++
  leBytes t.frame 8 ++ t.dbg.bpa.flatMap w64 ++ t.dbg.wpa.flatMap w64 ++ t.dbg.wpc.flatMap w64 ++ w64 t.dbg.ctl ++ leBytes r.1 8 ++
  leBytes r.2 8 ++ leBytes 0 8 ++ t.tariff.flatMap w64 ++
  t.qsets.flatMap (fun q => leBytes q.ufl 4 ++ leBytes q.fls 4 ++ leBytes q.ovr 4 ++ leBytes q.nls 4 ++ leBytes q.sticky.toNat 4) ++
  leBytes t.cpfill 4 ++ leBytes (maskOf ((List.range 16).filter fun n => (nth ⟨0, 0, 0, 0, 0, 0, false⟩ t.bars n).loss)) 2 ++
  leBytes 0 2 ++ t.lvidx.flatMap (leBytes · 4) ++ leBytes t.nextFid 4 ++ leBytes 0 4 ++
  t.bars.flatMap (fun b => leBytes b.ph.toNat 2 ++ leBytes b.exp 2 ++ leBytes b.cnt 2 ++ leBytes b.dec 2 ++ leBytes b.byt 4 ++ leBytes b.lbyt 4) ++
  t.rowLists.flatMap (fun l => l.flatMap fun v => leBytes v.toNat 4) ++ t.uregs.flatMap (fun v => leBytes v.toNat 4) ++
  pad64 (Memory.bytes k.spad t.spadBase t.spadSize) ++
  tiles.flatMap (fun n => (List.range 1024).flatMap fun i => leBytes (sparseGet 0 t.tiles (1024 * n + i)).toNat 4) ++
  recs.flatten ++ sbs.flatten ++ sls.flatten

/-- The team's fields that the image does not hold. -/
def Team.skeleton (t : Team) : Team :=
  { t with fibres := [], uregs := [], upend := [], tariff := [], qsets := [], qadds := [], tiles := [], rowLists := [], bars := [], lvidx := [],
           preempt := none }

/-- Write the image of a settled team and take the team from its core (R294, R356). -/
def State.saveTeam (s : State) (c : Nat) (t : Team) (inMemory : Bool) : SavedTeam × State :=
  let s := s.modTeam c t.slot fun t =>
    let t := t.landUniform (s.now c) fun _ => true
    { (t.landCountsIf fun _ => true) with fibres := t.fibres.map (·.land fun _ => true) }
  let ops := s.qops.filter (·.engineOf c t.slot)
  let pushes := ops.filterMap (s.savedPush c t.slot)
  let s := ops.foldl (fun s o => s.withdrawOp o) s
  let reds := (s.core c).waitingReds t.slot
  let s := reds.foldl (fun s e => s.modFibre c t.slot e.fid fun f => { f with unack := f.unack - 1 }) s
  let t := (s.team? c t.slot).getD t
  let k := s.core c
  let image := s.imageOf c t pushes
  let mine (e : EngCmd) : Bool := e.slot == t.slot
  let disp := ((s.die (dieOf c)).dispq.filter fun q => q.core == c && q.slot == t.slot).map fun q =>
    { q with started := false, next := 0, bytes := List.replicate 8 0, got := [] }
  let copies := (k.sidelog.filter (·.slot == t.slot)).filterMap fun e => match e.kind with
    | .copy cmd _ => k.eqcp.find? (·.id == cmd)
    | _ => none
  let (id, s) := s.fresh
  let t' := if disp.isEmpty then t else { t with cursor := { t.cursor with act := true } }
  let saved : SavedTeam :=
    { id := id, image := image, inMemory := inMemory, team := t'.skeleton, core := c, l1kib := k.l1kib, fused := k.fused, arrivals := [],
      pushes := pushes.map fun e => (match e.kind with | .push k _ _ => k | _ => none), copies := copies, disp := disp,
      windows := t.fibres.map fun f => (f.fid, f.lane, f.wbase) }
  let s := ((k.eqmx ++ k.eqcp ++ k.eqgx).filter mine).foldl (fun s e => s.dropCmd e.id) s
  let s := disp.foldl (fun s q => s.dropCmd q.id) s
  let s := s.modDie (dieOf c) fun y => { y with dispq := y.dispq.filter fun q => !(q.core == c && q.slot == t.slot) }
  let s := t.fibres.foldl (fun s f => s.forgetReads c t.slot f.fid) s
  let s := s.modCore c fun k =>
    { k with teams := k.teams.filter (·.slot != t.slot), gangs := k.gangs.filter (·.slot != t.slot), sb := k.sb.filter (·.slot != t.slot),
             sidelog := k.sidelog.filter (·.slot != t.slot) }
  let swap (l : List Nat) : List Nat := l.map fun x => if x = c then t.saved else x
  let s := (s.teamBarriers c t).1.foldl (fun s n =>
    let b := s.clusBar (clusOf c) n
    s.setClusBar (clusOf c) n { b with msk := swap b.msk, rpt := swap b.rpt }) s
  (saved, ({ s with saved := s.saved ++ [saved] }.engineWake c).kick)

/-- A fibre of a stopped team that has a pending trap takes it first, and is then saved whole; one that is stopped, halted or held stays so. -/
def State.takePending (s : State) (c : Nat) (t : Team) : State :=
  t.fibres.foldl (fun s f =>
    match f.pendTrap with
    | some tr =>
      if f.wait.isSome || f.run == .running then s
      else
        let s := s.modFibre c t.slot f.fid fun g =>
          { g with pendTrap := none, run := match g.run with | .point _ => .point none | r => r }
        s.takeTrap c t.slot f.fid f.pc f.rep.isSome (laneMask t [f.fid]) tr
    | none => s) s

/-- R294: the settled team of a scheduler's request is saved; what is not settled goes on. -/
def execContextSave (s : State) : Host.Outcome State Fault Refusal :=
  let c := s.par.core
  match s.team? c s.par.slot with
  | none => .next s
  | some t =>
    match t.preempt with
    | some (_, false) =>
      if t.fibres.isEmpty then .next s
      else if s.saveReady c t then .next (s.saveTeam c t false).2
      else .next (((s.takePending c t).writeBackTeam c t.slot).spawn .contextSave s.par)
    | _ => .next s

-- restoration (R295)

/-- What a fibre record holds (R298): the fibre, and its record's length. -/
def parseFibre (b : List Byte) (stopped : Bool) : Fibre × Nat :=
  let fl := field b 0x15 1
  let vmask := field b 0x20 4
  let wsize := field b 0x12 2
  let groups := setBits vmask 32
  let reg (n : Nat) : BitVec 32 := match groups.findIdx? (· == n / 8) with
    | some i => BitVec.ofNat 32 (field b (0x40 + 32 * i + 4 * (n % 8)) 4)
    | none => 0
  ({ Fibre.blank with
      fid := field b 0x0E 2, role := roleOf (bits (field b 0x14 1) 0 2), pc := BitVec.ofNat 56 (field b 0 8), rc := BitVec.ofNat 32 (field b 8 4),
      pred := BitVec.ofNat 16 (field b 0x0C 2) ||| 1, srstep := BitVec.ofNat 16 (field b 0x10 2), wsize := wsize, inh := fl.testBit 0,
      msp := fl.testBit 1, bwait := fl.testBit 2, unack := field b 0x16 2, bmem := BitVec.ofNat 16 (field b 0x18 2),
      barr := BitVec.ofNat 16 (field b 0x1A 2), bpar := BitVec.ofNat 16 (field b 0x1C 2), mspm := BitVec.ofNat 32 (field b 0x24 4),
      regs := (List.range wsize).map reg,
      run := if fl.testBit 4 then .halted else if fl.testBit 5 then .held none else if stopped then .stopped else .running },
    64 + (32 * groups.length + 63) / 64 * 64)

/-- The fibres of an image, one after another. -/
def parseFibres (b : List Byte) (stopped : Bool) : Nat → Nat → List Fibre
  | 0, _ => []
  | n + 1, o =>
    let r := parseFibre (b.drop o) stopped
    r.1 :: parseFibres b stopped n (o + r.2)

/-- The header and the fixed part of an image that R297 does not refuse: magic, version, and no reserved field set, those of `CTLW`, of the
debug registers and of the sticky words among them (R87, R279, R299). -/
def headerOk (b : List Byte) : Bool :=
  field b 0 4 == 0x4E4F4D43 && field b 4 2 == 1 && decide (field b 6 2 < 4) && field b 0x049 55 == 0 && field b 0x138 8 == 0 && field b 0x316 2 == 0 &&
  field b 0x33C 4 == 0 && decide (field b 0x080 8 < 2 ^ 8) &&
  ((List.range 4).all fun i => field b (0x0C0 + 8 * i) 8 &&& 0xFF00000000000002 == 0 && decide (field b (0x100 + 8 * i) 8 < 2 ^ 6) &&
    decide (field b (0x2D0 + 20 * i) 4 < 2 ^ 4)) &&
  decide (field b 0x120 8 < 4)

/-- The fibre records of an image have no reserved bit set (R298). -/
def fibresOk (b : List Byte) : Nat → Nat → Bool
  | 0, _ => true
  | n + 1, o =>
    field b (o + 0x1E) 2 == 0 && field b (o + 0x28) 24 == 0 && decide (field b (o + 0x15) 1 < 2 ^ 6) && decide (field b (o + 0x14) 1 < 4) &&
    fibresOk b n (o + (parseFibre (b.drop o) false).2)

/-- Nor have the store-buffer entries (R191). -/
def storesOk (b : List Byte) (n o : Nat) : Bool :=
  (List.range n).all fun i => field b (o + 64 * i + 16) 16 == 0 && decide (field b (o + 64 * i + 15) 1 < 2)

/-- Nor the side-log entries, those of a copy with the descriptors that they hold (R202, R285); `at_` is the place among the entries of a
copy. -/
def logOk (b : List Byte) : Nat → Nat → Nat → Bool
  | 0, _, _ => true
  | n + 1, o, at_ =>
    let kind := field b (o + 0x1E) 1
    match at_ with
    | 0 => field b (o + 0x25) 27 == 0 && logOk b n (o + 64) (if kind = 2 then 1 else 0)
    | 3 => field b (o + 0x25) 3 == 0 && field b (o + 0x38) 8 == 0 && logOk b n (o + 64) 0
    | k => (Desc.of (BitVec.ofNat 512 (field b o 64))).rsv == 0 && logOk b n (o + 64) (k + 1)

/-- An image that R297 does not refuse. -/
def imageOk (b : List Byte) : Bool :=
  headerOk b && fibresOk b (field b 0x00C 4) (field b 0x030 8) && storesOk b (field b 0x010 4) (field b 0x038 8) &&
  logOk b (field b 0x014 4) (field b 0x040 8) 0

/-- A team as the image and what the scheduler kept of it give it (R295). -/
def teamOfImage (x : Team) (b : List Byte) (slot : Nat) : Team :=
  let w64 (o : Nat) : BitVec 64 := BitVec.ofNat 64 (field b o 8)
  let ctl := field b 0x080 8
  let stopped := (field b 6 2).testBit 1
  let loss := field b 0x314 2
  let tiles := setBits (field b 0x048 1) 8
  let words (o n : Nat) : List (BitVec 32) := (List.range n).map fun i => BitVec.ofNat 32 (field b (o + 4 * i) 4)
  { x with
    slot := slot, sbchk := ctl.testBit 0, nantrap := ctl.testBit 1, nanseen := ctl.testBit 2, stopped := stopped, tvec := w64 0x088, tmask := w64 0x090,
    srseed := w64 0x098, fmbox := w64 0x0A8, preempt := none,
    dbg := ⟨(List.range 4).map fun i => w64 (0x0C0 + 8 * i), (List.range 4).map fun i => w64 (0x0E0 + 8 * i),
            (List.range 4).map fun i => w64 (0x100 + 8 * i), w64 0x120, x.dbg.err⟩,
    tariff := (List.range 48).map fun i => w64 (0x140 + 8 * i),
    qsets := (List.range 4).map fun i =>
      ⟨field b (0x2C0 + 20 * i) 4, field b (0x2C4 + 20 * i) 4, field b (0x2C8 + 20 * i) 4, field b (0x2CC + 20 * i) 4,
       BitVec.ofNat 4 (field b (0x2D0 + 20 * i) 4)⟩,
    cpfill := field b 0x310 4, lvidx := (List.range 8).map fun i => field b (0x318 + 4 * i) 4, nextFid := field b 0x338 4,
    bars := (List.range 16).map fun n =>
      let o := 0x340 + 16 * n
      ⟨BitVec.ofNat 16 (field b o 2), field b (o + 2) 2, field b (o + 4) 2, field b (o + 6) 2, field b (o + 8) 4, field b (o + 12) 4, loss.testBit n⟩,
    rowLists := (List.range 8).map fun i => words (0x440 + 128 * i) 32,
    uregs := words 0x840 256, spadSize := field b 0x018 4, spadBase := field b 0x01C 4,
    tiles := (List.range tiles.length).foldl (fun m i =>
      ((words (field b 0x028 8 + 4096 * i) 1024).zip (List.range 1024)).foldl (fun m w => sparsePut 0 m (1024 * nth 0 tiles i + w.2) w.1) m) [],
    fibres := parseFibres b stopped (field b 0x00C 4) (field b 0x030 8) }

/-- Where the windows of a saved team go on a core: where they lay, or by the allocator (R38, R100, R101). -/
def Core.restorePlaces (k : Core) (x : SavedTeam) (fs : List Fibre) : Option (List (Nat × Nat)) :=
  let old := fs.map fun f => match x.windows.find? (·.1 == f.fid) with | some w => (w.2.1, w.2.2) | none => (0, 0)
  let free := (fs.zip old).all fun y => !k.windows.any fun w => w.1 == y.2.1 && decide (w.2.1 < y.2.2 + y.1.wsize) && decide (y.2.2 < w.2.1 + w.2.2)
  if free && fs.all fun f => x.windows.any (·.1 == f.fid) then some old else placeAll (fs.map (·.wsize)) 0 k.windows

/-- A core has room for what a saved team brings back: store-buffer and side-log entries, and its stopped copies with their range entries
(R185, R188, R199, R283). -/
def Core.restoreRoom (k : Core) (x : SavedTeam) (b : List Byte) : Bool :=
  decide (k.sb.length + field b 0x010 4 ≤ 256) && k.logRoom (field b 0x014 4) && !(k.sb.any (·.toLog.isSome)) &&
  decide (k.eqcp.length + x.copies.length ≤ 32) && decide (k.ranges.length + x.copies.length ≤ 64)

/-- A core can take a saved team back (R295). -/
def State.restoreFits (s : State) (c : Nat) (x : SavedTeam) (b : List Byte) : Bool :=
  match s.launchOf? x.team.launch with
  | none => false
  | some l =>
    let k := s.core c
    let t := teamOfImage x.team b 0
    dieOf c == dieOf x.core && (l.record.cbn == 0 || clusOf c == clusOf x.core) && !k.marked && decide (k.teams.length < 16) &&
    s.coreWorld c == x.team.world && k.teams.all (·.ctx == x.team.ctx) && s.stateFits c l.record && k.restoreRoom x b &&
    decide (k.fibreCount + t.fibres.length ≤ 1024) && (k.restorePlaces x t.fibres).isSome &&
    decide (t.spadBase + t.spadSize ≤ spadBytes l.record.l1) &&
    !(k.teams.any fun u => u.spadSize != 0 && decide (u.spadBase < t.spadBase + t.spadSize) && decide (t.spadBase < u.spadBase + u.spadSize)) &&
    !(x.team.matrix && k.teams.any (·.matrix)) && !(l.record.cbn != 0 && k.teams.any (·.launch == l.num))

/-- The saved store-buffer entries enter again (R191); a page that has gone meanwhile sends its entry to the side log, or has it wait for
room there (R284). -/
def State.reenterStores (s : State) (c : Nat) (t : Team) (b : List Byte) : Nat → Nat → State
  | 0, _ => s
  | n + 1, o =>
    let va := field b o 8
    let fid := field b (o + 12) 2
    let mask := field b (o + 8) 4
    let data := field b (o + 32) 32
    let (id, s) := s.fresh
    let look := s.lookWalk t.ctx t.world .write va
    let e : SBEntry :=
      { id := id, slot := t.slot, va := va, pc := 0, scope := none, sent := false,
        leaf := match look with | .ok l => l | _ => Leaf.untranslated (field b (o + 14) 1) ((field b (o + 15) 1).testBit 0),
        kind := .store [(fid, BitVec.ofNat 32 mask)] (BitVec.ofNat 32 mask) (BitVec.ofNat 256 data) }
    let s := s.modCore c fun k => { k with sb := k.sb ++ [e] }
    let s := match look with
      | .ok _ => s.spawn .storeBufferDrain { core := c, id := id }
      | .fault x => s.refuseEntry c e x.code
      | .miss => s.refuseEntry c e Cause.pageFault.code
    State.reenterStores s c t b n (o + 64)

/-- The saved side-log entries enter again with new numbers (R295). The command of a copy is the one that the scheduler kept, as an
entry holds no opcode; and so are the cores of the rings of completion pushes. -/
def State.reenterLog (s : State) (c : Nat) (t : Team) (b : List Byte) : Nat → Nat → List EngCmd → List (Option Nat) → State
  | 0, _, _, _ => s
  | n + 1, o, cs, ps =>
    let va := field b o 8
    let data := BitVec.ofNat 64 (field b (o + 8) 8)
    let pc := BitVec.ofNat 56 (field b (o + 16) 8)
    let fid := field b (o + 0x1C) 2
    let t1 := BitVec.ofNat 6 (field b (o + 0x20) 1)
    let sc := if field b (o + 0x22) 1 = 0xFF then none else some (BitVec.ofNat 3 (field b (o + 0x22) 1))
    let cause := field b (o + 0x1F) 1
    let kind := field b (o + 0x1E) 1
    if kind = 2 then
      match cs with
      | [] => State.reenterLog s c t b n (o + 64) cs ps
      | e :: cs =>
        let (id, s) := s.fresh
        let ts := if e.targets.isEmpty then [] else match e.kind.copy? with
          | some p => (s.copyTargets c t p).getD []
          | none => []
        let e := { e with id := id, slot := t.slot, prog := field b (o + 192 + 0x20) 4, targets := ts, asked := false }
        let rs : List RangeEnt := match e.kind.copy? with
          | some p => if (p.kind == .ld || p.kind == .mc) && ts.any (· / 16 == c) then [⟨id, id, p.range.1 / 32 * 32, (p.range.2 + 31) / 32 * 32⟩] else []
          | none => []
        let s := s.modCore c fun k => { k with eqcp := k.eqcp ++ [e], ranges := k.ranges ++ rs }
        State.reenterLog (s.logEnter c t fid va pc (.copy id e.prog) cause none) c t b n (o + 64) cs ps
    else if kind = 3 then State.reenterLog s c t b n (o + 64) cs ps
    else
      let len := tyBytes t1
      let s := if kind = 0 then s.logEnter c t fid va pc (.store t1 len data) cause sc
        else if kind = 1 then
          let op := (([.add, .min, .max, .and, .or, .xor, .exch, .cas, .fadd] : List AtomOp).find? (·.code == field b (o + 0x21) 1)).getD .add
          let tar := t.tar t1.toNat
          s.logEnter c t fid va pc (.red op t1 tar (atomLen op t1 tar) data) cause sc
        else if kind = 4 then
          s.modCore c fun k =>
            { k with seq := k.seq + 1,
                     sidelog := k.sidelog ++
                       [⟨k.seq, t.slot, fid, va % 2 ^ 32, pc, .push (ps.headD none) (va % 2 ^ 32) (data.extractLsb' 0 32), 0, none, 0, false⟩] }
        else s
      State.reenterLog s c t b n (o + 64) cs (if kind = 4 then ps.drop 1 else ps)

/-- Restore a saved team on a core that fits it: the slot it takes. -/
def State.restore (s : State) (c : Nat) (x : SavedTeam) (b : List Byte) : Nat × State :=
  match s.launchOf? x.team.launch, (List.range 16).find? fun n => !((s.core c).teams.any (·.slot == n)) with
  | some l, some slot =>
    let s := s.adopt c l.record
    let s := if (s.core c).lastCtx == some x.team.ctx then s else s.modCore c fun k => { k with spad := [], lastCtx := some x.team.ctx }
    let t := teamOfImage x.team b slot
    let places := ((s.core c).restorePlaces x t.fibres).getD []
    let fs := (t.fibres.zip places).map fun y => { y.1 with lane := y.2.1, wbase := y.2.2 }
    let t := { t with fibres := fs }
    let s := ({ s with saved := s.saved.filter (·.id != x.id) }.modCore c fun k =>
      { k with teams := k.teams ++ [t],
               spad := Memory.putBytes k.spad t.spadBase ((b.drop (field b 0x020 8)).take t.spadSize) }).acquire c 5
    let back (l : List Nat) : List Nat := l.map fun y => if y = t.saved then c else y
    let s := (s.teamBarriers c t).1.foldl (fun s n =>
      let y := s.clusBar (clusOf c) n
      s.setClusBar (clusOf c) n { y with msk := back y.msk, rpt := back y.rpt }) s
    let s := x.arrivals.foldl (fun s a =>
      let s := s.arrive c slot a.1 a.2.1 none
      if a.2.2 then s.modTeam c slot fun t => { t with bars := modAt t.bars a.1 fun y => { y with loss := true } } else s) s
    let s := s.reenterStores c t b (field b 0x010 4) (field b 0x038 8)
    let s := s.reenterLog c t b (field b 0x014 4) (field b 0x040 8) x.copies x.pushes
    let d := dieOf c
    let s := x.disp.reverse.foldl (fun s q =>
      let (id, s) := s.fresh
      let q := { q with id := id, core := c, slot := slot }
      let s := s.modDie d fun y => { y with dispq := y.dispq.takeWhile (·.started) ++ [q] ++ y.dispq.dropWhile (·.started) }
      s.spawnOnce .dispatchRun { die := d }) s
    let s := s.retryLog c fun e => e.slot == slot
    (slot, s.formGangs c slot ((fs.filter (·.runnable)).map (·.fid)) (s.now c + 1))
  | _, _ => (0xFFFFFFFF, s)

/-- R295: a team that the scheduler has saved is restored on a core that qualifies. -/
def execContextRestore (s : State) : Host.Outcome State Fault Refusal :=
  match s.saved.find? fun x => x.id == s.par.n && !x.inMemory with
  | none => .next s
  | some x => .next (if s.restoreFits s.par.core x x.image then (s.restore s.par.core x x.image).2 else s)

/-- R292: a write of 1 to `TEAMCMD`. -/
def State.terminateByCommand (s : State) (c slot : Nat) : State :=
  match s.team? c slot with
  | none => s
  | some t => if t.terminating then s else s.terminate c slot .terminated 0

def execTeamTerminate (s : State) : Host.Outcome State Fault Refusal := .next (s.terminateByCommand s.par.core s.par.slot)

-- ctxsave and ctxload (R296)

/-- Every page of a range of a context is pinned, and writable where asked, for the world. -/
def State.pinnedFor (s : State) (ctx : Nat) (world : Bool) (k : Access) (va n : Nat) : Bool :=
  (List.range ((va + n - 1) / 2 ^ 16 - va / 2 ^ 16 + 1)).all fun i =>
    match s.lookWalk ctx world k (max va ((va / 2 ^ 16 + i) * 2 ^ 16)) with
    | .ok l => l.pin && decide (l.apt < 4)
    | _ => false

/-- Bytes written to memory by the hardware, granule by granule (R168). -/
def State.writeVirtLong (s : State) (c ctx : Nat) (world : Bool) : Nat → Nat → List Byte → State
  | 0, _, _ => s
  | fuel + 1, va, bs =>
    if bs.isEmpty then s
    else
      let m := 2 ^ 16 - va % 2 ^ 16
      State.writeVirtLong (s.writeVirt c ctx world va (bs.take m)) c ctx world fuel (va + m) (bs.drop m)

/-- `ctxsave` (R296): it asks for the pre-emption, waits until the team is settled, and writes the image; the pages of its own image are
judged whoever has asked for the pre-emption. -/
def ctxsaveBody (f : FM) (x : Ctx) (s : State) : State × List (Nat × LaneRes) :=
  match x.team s, x.act with
  | none, _ | _, [] => (s, [])
  | some me, lead :: _ =>
    let a := x.ea s lead f
    let slot := (x.rdU s false f.b).toNat % 16
    if a % 64 ≠ 0 then (s, x.trapAll (memTrap .misaligned a true))
    else match s.team? x.core slot with
      | none => s.deliverAll x f.d false 0xFFFFFFFF
      | some t =>
        if slot = x.slot then s.deliverAll x f.d false 0xFFFFFFFF
        else if !(s.pinnedFor me.ctx me.world .write a (0x1000 + t.spadSize + 0x8000 + 0x440 * t.fibres.length + 0x8000)) then
          s.deliverAll x f.d false 0xFFFFFFFE
        else match t.preempt with
          | none => (s.requestPreempt x.core slot true, x.wait)
          | some (_, false) => (s, x.wait)
          | some (_, true) =>
            if s.saveReady x.core t then
              let (saved, s) := s.saveTeam x.core t true
              let s := s.writeVirtLong x.core me.ctx me.world (saved.image.length / 2 ^ 16 + 2) a saved.image
              let s := { s with saved := modWhere (·.id == saved.id) (fun y => { y with image := [] }) s.saved }
              s.deliverAll x f.d false (BitVec.ofNat 64 saved.image.length)
            else ((s.takePending x.core t).writeBackTeam x.core slot, x.wait)

def execCtxsave (f : FM) (s : State) : Host.Outcome State Fault Refusal := issue (.ctxsave f) f.h noCheck (ctxsaveBody f) s

/-- `ctxload` (R296): the image is judged, and its team restored on the issuing core. -/
def ctxloadBody (f : FM) (x : Ctx) (s : State) : State × List (Nat × LaneRes) :=
  match x.team s, x.act with
  | none, _ | _, [] => (s, [])
  | some me, lead :: _ =>
    let a := x.ea s lead f
    let bad : State × List (Nat × LaneRes) := s.deliverAll x f.d false 0xFFFFFFFE
    let read (n : Nat) : Option (List Byte) :=
      if s.pinnedFor me.ctx me.world .read a n then s.readVirtLong me.ctx me.world (n / 2 ^ 16 + 2) a n else none
    if a % 64 ≠ 0 then (s, x.trapAll (memTrap .misaligned a false))
    else match read 0xC40 with
      | none => bad
      | some h =>
        let size := field h 0x040 8 + 64 * field h 0x014 4
        let ctxid := field h 8 4
        if !(headerOk h) || (ctxid.testBit 16 && !me.world) || decide (2 ^ 24 < size) then bad
        else match read size with
          | none => bad
          | some b =>
            if !(imageOk b) then bad
            else match s.saved.find? fun y => y.inMemory && y.team.ctxid == ctxid && y.team.frbase == field b 0x0A0 8 with
            | none => bad
            | some y =>
              if s.restoreFits x.core y b then
                let (slot, s) := s.restore x.core y b
                s.deliverAll x f.d false (BitVec.ofNat 64 slot)
              else s.deliverAll x f.d false 0xFFFFFFFF

def execCtxload (f : FM) (s : State) : Host.Outcome State Fault Refusal := issue (.ctxload f) f.h noCheck (ctxloadBody f) s

end Sys2Proof.Machine
end

