-- ==== Sys2Proof/Machine/Debug.lean ====
section
/-!
DEFINITION. Invalidation of translations (R342-R345, R383), the cancelling of side-log entries (R287), and debugging (R114, R299-R303).
-/
namespace Sys2Proof.Machine

open Sys2Proof

-- invalidation

/-- An invalidation: its first address, granules (none: the whole address space), and context (none: every one). -/
abbrev Inval := Nat × Option Nat × Option Nat

/-- An invalidation covers an address of a context. -/
def Inval.covers (i : Inval) (ctx va : Nat) : Bool :=
  (match i.2.2 with | some c => c == ctx | none => true) &&
  match i.2.1 with
  | some n => decide (i.1 ≤ va) && decide (va < i.1 + n * 2 ^ 16)
  | none => true

/-- An invalidation meets the page of a TLB entry. -/
def Inval.meets (i : Inval) (e : TlbEnt) : Bool :=
  (match i.2.2 with | some c => c == e.ctx | none => true) &&
  match i.2.1 with
  | some n => decide (i.1 < e.va + e.leaf.size) && decide (e.va < i.1 + n * 2 ^ 16)
  | none => true

/-- TLB entries of the range go; those that commands have captured are marked revoking (R383). -/
def State.revoke (s : State) (i : Inval) : State :=
  s.coreNums.foldl (fun s c => s.modCore c fun k =>
    { k with tlb := (k.tlb.filter fun e => !(i.meets e && e.users.isEmpty)).map fun e => if i.meets e then { e with revoking := true } else e,
             walkFail := k.walkFail.filter fun w => !(i.covers w.1 (w.2.1 * 2 ^ 16)) }) s

/-- A write of `INVCMD` on a die captures that die's `INVADDR` and advances its `ISSUED`; the command applies to every die (R342, R343). -/
def State.invalidate (s : State) (d : Nat) (v : BitVec 64) : State :=
  let i : Inval := (bits (s.die d).invaddr.toNat 16 40 * 2 ^ 16, if v.getLsbD 40 then none else some ((v.extractLsb' 16 24).toNat + 1),
    if v.getLsbD 41 then none else some (v.extractLsb' 0 16).toNat)
  ({ (s.revoke i) with invPending := s.invPending ++ [(d, i)] }.modDie d fun y => { y with invIssued := y.invIssued + 1 }).spawn .invalidationComplete {}

def execInvalidateCommand (s : State) : Host.Outcome State Fault Refusal := .next (s.invalidate s.par.die s.par.v)

/-- The context of a team slot. -/
def State.slotCtx (s : State) (c slot : Nat) : Nat := match s.team? c slot with | some t => t.ctx | none => 2 ^ 16

/-- An access in flight on a core uses a translation of the range (R344). -/
def State.usesRange (s : State) (i : Inval) (c : Nat) : Bool :=
  let k := s.core c
  let hit (slot va : Nat) : Bool := i.covers (s.slotCtx c slot) va
  k.loads.any (fun l => hit l.slot l.va) || k.atomics.any (fun a => hit a.slot a.va) || k.sb.any (fun e => hit e.slot e.va) ||
  k.tlb.any (fun e => i.meets e && !e.users.isEmpty)

/-- A request to another package, or a queue operation that its keeper has not performed, parked or on its way, uses a translation of the
range. -/
def State.usesRangeAway (s : State) (i : Inval) : Bool :=
  (s.forum.out.any fun o => match o.what with
    | .load c l => i.covers (s.slotCtx c l.slot) l.va
    | .fetch _ ctx va _ | .next _ _ ctx va _ | .row _ _ ctx va _ => i.covers ctx va
    | .ret c slot _ _ _ va | .record c slot _ va _ => i.covers (s.slotCtx c slot) va
    | .atom c slot a => i.covers (s.slotCtx c slot) a.va
    | .sb c e => i.covers (s.slotCtx c e.slot) e.va
    | .copy c id => match (s.core c).cmd? 1 id with
      | some e => (match i.2.2 with | some x => x == s.slotCtx c e.slot | none => true)
      | none => false
    | .stage .. | .prepare .. | .apply .. => false) ||
  s.qops.any fun o => match o.tgt with | .global _ va ctx => i.covers ctx va | .ring .. => false

/-- Stores that lie dirty in an L1 reach their homes (R190, R344), for the teams of the contexts named. -/
def State.writeBackRange (s : State) (i : Inval) : State :=
  s.coreNums.foldl (fun s c => (s.core c).l1.foldl (fun s e =>
    if e.owners.any fun o => match i.2.2 with | some x => x == s.slotCtx (o.1 / 16) (o.1 % 16) | none => true then s.writeBack c e.pa else s) s) s

/-- R343, R344: the oldest invalidation completes, `DONE` of the die it was written on advances, and side logs retry (R286). -/
def execInvalidationComplete (s : State) : Host.Outcome State Fault Refusal :=
  match s.invPending with
  | [] => .next s
  | (d, (i : Inval)) :: rest =>
    let s := s.revoke i
    if s.coreNums.any (s.usesRange i) || s.usesRangeAway i then .next (s.spawn .invalidationComplete {})
    else
      let s := { (s.writeBackRange i) with invPending := rest }.modDie d fun y => { y with invDone := y.invDone + 1 }
      .next (s.coreNums.foldl (fun s c => s.retryLog c fun e => i.covers (s.slotCtx c e.slot) e.va) s)

-- fcancel (R287)

/-- The pending entries of a core that `fcancel` selects, copies among them. -/
def State.cancelSet (s : State) (c ctx gran : Nat) (sel : BitVec 32) : List SLEntry :=
  (s.core c).sidelog.filter fun e =>
    (match e.kind with | .push .. => false | _ => true) && s.slotCtx c e.slot == ctx && granule e.va == gran &&
    (sel.getLsbD 16 || e.fid == (sel.extractLsb' 0 16).toNat)

/-- The fibres that own entries, each with its first one, in the entries' order. -/
def firstOwners : List SLEntry → List (Nat × Nat) → List SLEntry
  | [], _ => []
  | e :: r, seen => if seen.contains (e.slot, e.fid) then firstOwners r seen else e :: firstOwners r ((e.slot, e.fid) :: seen)

/-- Kill the owner of an entry, its record carrying the entry's cause and address, and cancel all its entries. -/
def State.cancelOwner (s : State) (c : Nat) (e : SLEntry) : State :=
  match s.team? c e.slot, s.fibre? c e.slot e.fid with
  | some t, some f =>
    let s := s.settle c e.slot (· == e.fid)
    let g := (s.fibre? c e.slot e.fid).getD f
    let s := s.writeRecord c t g g.pc g.pc g.rep.isSome false (laneMask t [f.fid]) { memTrap (Cause.ofCode e.cause) e.va true with lmask := none }
    (s.kill c e.slot e.fid).regang c
  | _, _ => s.cancelSideLog c e.slot e.fid

def fcancelBody (f : FR) (x : Ctx) (s : State) : State × List (Nat × LaneRes) :=
  match x.act with
  | [] => (s, [])
  | _ =>
    let gran := granule (x.rdU s true f.a).toNat
    let sel := (x.rdU s false f.b).extractLsb' 0 32
    let ctx := (x.rdU s false f.c).toNat % 2 ^ 16
    if sel.extractLsb' 17 15 != 0 then (s, x.trapAll { cause := .permitDenied, addr := BitVec.ofNat 64 (gran * 2 ^ 16) })
    else
      let sets := s.coreNums.map fun c => (c, s.cancelSet c ctx gran sel)
      let n := (sets.map fun p => p.2.length).sum
      let s := sets.foldl (fun s p => (firstOwners p.2 []).foldl (fun s e => s.cancelOwner p.1 e) s) s
      let s := s.coreNums.foldl (fun s c => s.retryLog c fun e => s.slotCtx c e.slot == ctx && granule e.va == gran) s
      s.deliverAll x f.d false (BitVec.ofNat 64 (min n 0xFFFFFFFF))

def execFcancel (f : FR) (s : State) : Host.Outcome State Fault Refusal := issue (.fcancel f) f.h noCheck (fcancelBody f) s

-- dbgrd (R303)

/-- The address of the block on which a fibre's operation is parked, or 0. -/
def State.parkedBlock (s : State) (c slot fid : Nat) : Nat :=
  match s.qops.find? fun o => o.parked && (match o.who with | .fibres c' slot' fids => c' == c && slot' == slot && fids.contains fid | _ => false) with
  | none => 0
  | some o => match o.tgt with
    | .global _ va _ => va
    | .ring k off => if k = c then 0xFE * 2 ^ 56 + off else 0xFD * 2 ^ 56 + 2 ^ 31 + k % 256 * 2 ^ 20 + off

/-- A fibre that `dbgrd` reads: halted, held or stopped. -/
def Fibre.readable (f : Fibre) : Bool :=
  match f.run with
  | .halted | .held _ | .stopped => true
  | .running | .point _ => false

/-- An item of a fibre. -/
def State.debugItem (s : State) (c : Nat) (t : Team) (f : Fibre) (item : Nat) : Option Nat :=
  let flag (b : Bool) (v : Nat) : Nat := if b then v else 0
  let bar (n : Nat) : Barrier := nth ⟨0, 0, 0, 0, 0, 0, false⟩ t.bars n
  if item < 0x100 then (if item < f.wsize then some (f.reg item).toNat else none)
  else if item = 0x100 then some f.pc.toNat
  else if item = 0x101 then some (f.pred.toNat * 2 ^ 32 + f.rc.toNat)
  else if item = 0x102 then
    some (f.wsize % 512 + f.wbase * 2 ^ 9 + f.lane * 2 ^ 20 + roleNum f.role * 2 ^ 25 + flag f.inh (2 ^ 27) + flag f.msp (2 ^ 28) +
      flag f.bwait (2 ^ 29) + f.srstep.toNat * 2 ^ 32)
  else if item = 0x103 then some (f.bmem.toNat + f.barr.toNat * 2 ^ 16 + f.bpar.toNat * 2 ^ 32)
  else if item = 0x104 then
    some (f.unack % 2 ^ 16 + ((s.core c).sidelog.filter fun e => e.slot == t.slot && e.fid == f.fid).length % 2 ^ 16 * 2 ^ 16)
  else if item = 0x105 then some (s.parkedBlock c t.slot f.fid)
  else if item = 0x106 then some f.mspm.toNat
  else if 0x140 ≤ item && item < 0x180 then some (t.ureg f.role (item - 0x140)).toNat
  else if 0x180 ≤ item && item < 0x190 then some ((bar (item - 0x180)).status t.slot)
  else if 0x190 ≤ item && item < 0x1A0 then some ((bar (item - 0x190)).lbyt * 2 ^ 32 + (bar (item - 0x190)).byt)
  else none

def dbgrdBody (f : FR) (x : Ctx) (s : State) : State × List (Nat × LaneRes) :=
  match x.act with
  | [] => (s, [])
  | _ =>
    let a := (x.rdU s false f.a).toNat % 2 ^ 32
    let item := (x.rdU s false f.b).toNat % 2 ^ 32
    let v := if a / 2 ^ 20 ≠ 0 then none
      else match s.team? x.core (bits a 16 4), s.fibre? x.core (bits a 16 4) (bits a 0 15) with
        | some t, some g => if g.readable then s.debugItem x.core t g item else none
        | _, _ => none
    s.deliverAll x f.d true (BitVec.ofNat 64 (v.getD (2 ^ 64 - 1)))

def execDbgrd (f : FR) (s : State) : Host.Outcome State Fault Refusal := issue (.dbgrd f) f.h noCheck (dbgrdBody f) s

-- debug commands (R302)

/-- A command that changes nothing sets `ERR`. -/
def State.debugErr (s : State) (c slot : Nat) : State := s.modTeam c slot fun t => { t with dbg := { t.dbg with err := true } }

/-- A debugger may act on a fibre of a team: one is attached, and the fibre is live. -/
def State.debugged (s : State) (c slot fid : Nat) : Option Fibre :=
  match s.team? c slot with
  | some t => if t.dbg.ctl.getLsbD 0 then t.fibre? fid else none
  | none => none

/-- Halt a fibre at its next instruction boundary (R302, command 1). -/
def State.debugHalt (s : State) (c slot fid : Nat) : State :=
  match s.debugged c slot fid, s.team? c slot with
  | some f, some t =>
    (match f.run with
    | .running | .held _ => s.takeTrap c slot fid f.pc f.rep.isSome (laneMask t [fid]) { cause := .step, info := 1 }
    | _ => s)
  | _, _ => s.debugErr c slot

/-- Step a halted fibre (R114, R302, command 2). -/
def State.debugStep (s : State) (c slot fid : Nat) : State :=
  match s.debugged c slot fid with
  | some f =>
    if f.run == .halted then
      (s.modFibre c slot fid fun f => { f with run := .running, stepping := true }).formGangs c slot [fid] (s.now c + 1)
    else s.debugErr c slot
  | none => s.debugErr c slot

/-- Fibres that a debugger held run on. -/
def State.resume (s : State) (c slot : Nat) (p : Fibre → Bool) : State :=
  match s.team? c slot with
  | none => s
  | some t =>
    let fids := (t.fibres.filter fun f => (f.run == .halted || (match f.run with | .held _ => true | _ => false)) && p f).map (·.fid)
    let s := s.modTeam c slot fun t =>
      { t with fibres := modWhere (fun f => fids.contains f.fid)
                 (fun f => { f with run := if t.preempt.isSome then .point none else .running, stepping := false }) t.fibres }
    fids.foldl (fun s fid => s.formGangs c slot [fid] (s.now c + 1)) s

/-- Release a fibre and the gangmates held with it (R302, command 3). -/
def State.debugRelease (s : State) (c slot fid : Nat) : State :=
  match s.debugged c slot fid with
  | some _ => s.resume c slot fun f => f.fid == fid || f.run == .held (some fid)
  | none => s.debugErr c slot

/-- Release every halted and held fibre of the team (R302, command 4). -/
def State.debugReleaseAll (s : State) (c slot : Nat) : State :=
  match s.team? c slot with
  | some t => if t.dbg.ctl.getLsbD 0 then s.resume c slot fun _ => true else s.debugErr c slot
  | none => s

/-- A write of `DBGCMD` (R302). -/
def State.debugCommand (s : State) (c slot : Nat) (v : BitVec 64) : State :=
  let fid := (v.extractLsb' 4 15).toNat
  if v.extractLsb' 19 45 != 0 then s.debugErr c slot
  else match (v.extractLsb' 0 4).toNat with
    | 1 => s.debugHalt c slot fid
    | 2 => s.debugStep c slot fid
    | 3 => s.debugRelease c slot fid
    | 4 => s.debugReleaseAll c slot
    | _ => s.debugErr c slot

def execDbgHalt (s : State) : Host.Outcome State Fault Refusal := .next (s.debugHalt s.par.core s.par.slot s.par.fid)
def execDbgStep (s : State) : Host.Outcome State Fault Refusal := .next (s.debugStep s.par.core s.par.slot s.par.fid)
def execDbgRelease (s : State) : Host.Outcome State Fault Refusal := .next (s.debugRelease s.par.core s.par.slot s.par.fid)
def execDbgReleaseAll (s : State) : Host.Outcome State Fault Refusal := .next (s.debugReleaseAll s.par.core s.par.slot)

end Sys2Proof.Machine
end

