-- ==== Sys2Proof/Machine/Package.lean ====
section
/-!
DEFINITION. The crier table, ownership and the external masters' accesses, errors, bring-up and telemetry (R386-R409).
-/
namespace Sys2Proof.Machine

open Sys2Proof

-- the crier table (R391-R393, R399)

/-- The key of an address in a context. -/
def crierKey (ctx va : Nat) : Nat × Nat := (ctx, bits va 3 53)

/-- The waiters of a key, in park order. -/
def State.waitersOf (s : State) (key : Nat × Nat) : List (Nat × Nat × Crier) := s.forum.crier.filter fun e => (e.1, e.2.1) == key

/-- A notify word reaches its master's memory by a CXL.cache write (R399). -/
def State.notify (s : State) (m : BitVec 2) (note : BitVec 64) (code : Nat) : State :=
  if (nth MasterRegs.reset s.forum.masters m.toNat).attached then
    s.homeWrite (2 ^ 48 + m.toNat * 2 ^ 46 + note.toNat % 2 ^ 46) 8 (s.forum.wakeSerial.toNat * 2 ^ 32 + code)
  else s

/-- A woken waiter: a fibre's status 0 is written, with the acquire; a host's notify word is written. -/
def State.wakeOne (s : State) : Crier → State
  | .fibre c slot fid =>
    match (s.fibre? c slot fid).bind (·.wait) with
    | some (.crier dst) => (((s.acquire c 5).answer c slot [fid] dst false 0)).complete c slot [fid] (s.now c + 1)
    | _ => s
  | .host m note => s.notify m note 0

/-- Wake the earliest `n` waiters of a key (R392): how many were woken. -/
def State.crierWake (s : State) (key : Nat × Nat) (n : Nat) : Nat × State :=
  let ws := (s.waitersOf key).take n
  let s := s.modForum fun g => { g with crier := g.crier.filter (!ws.contains ·), wakeSerial := g.wakeSerial + 1 }
  (ws.length, ws.foldl (fun s w => s.wakeOne w.2.2) s)

/-- The table has no room for a waiter on a key (R391, R392). -/
def State.crierFull (s : State) (key : Nat × Nat) : Bool :=
  (s.waitersOf key).isEmpty && decide (65536 ≤ ((s.forum.crier.map fun e => (e.1, e.2.1)).eraseDups).length)

/-- A lane's address of `wwait` or `wwake` as judged (R392): the leaf, or what stops it. -/
def State.judgeCrier (s : State) (c : Nat) (t : Team) (fid va n : Nat) : LaneAcc :=
  let far := match s.look c t.ctx t.world .read va with | .ok l => decide (2 ≤ l.apt) | _ => false
  match s.judgeRead c t fid va n .read with
  | .go l =>
    if far then .trap (memTrap .permitDenied va false)
    else if s.poisoned (l.phys va) n then .trap { memTrap .pageFault va false with info := 4 }
    else .go l
  | a => a

/-- `wwait` or `wwake` in a lane, up to its step at the table (R392). -/
def crierLane (f : FM) (n : Nat) (step : Ctx → Team → Nat → Nat → Leaf → State → State × Except LaneRes (BitVec 64)) (x : Ctx) (fid : Nat)
    (s : State) : State × Except LaneRes (BitVec 64) :=
  match x.team s with
  | none => (s, .ok 0)
  | some t =>
    let va := x.ea s fid f
    let a := s.judgeCrier x.core t fid va n
    let s := s.afterJudge x.core t fid va .read false a
    match a with
    | .go l =>
      if !s.relReady x.core x.slot fid then (s.releaseWork x.core x.slot fid, .error .waitAgain)
      else step x t fid va l s
    | a => (s, .error a.res)

/-- The step of `wwait` at the table. -/
def wwaitStep (f : FM) (x : Ctx) (t : Team) (fid va : Nat) (l : Leaf) (s : State) : State × Except LaneRes (BitVec 64) :=
  let n := tyBytes f.t1
  let expect := (x.rd s fid (Wf.tyWide f.t1) f.b).toNat % 2 ^ (8 * n)
  let key := crierKey t.ctx va
  if Memory.read s.mem (l.phys va) n ≠ expect then (s.acquire x.core 5, .ok 1)
  else if s.crierFull key then (s, .ok 2)
  else
    let s := s.modForum fun g => { g with crier := g.crier ++ [(key.1, key.2, .fibre x.core x.slot fid)] }
    (s.modFibre x.core x.slot fid fun g => { g with wait := some (.crier f.d) }, .error .block)

def execWwait (f : FM) (s : State) : Host.Outcome State Fault Refusal :=
  issue (.wwait f) f.h noCheck (laneOps f.d (crierLane f (tyBytes f.t1) (wwaitStep f))) s

/-- The step of `wwake` at the table. -/
def wwakeStep (f : FM) (x : Ctx) (t : Team) (fid va : Nat) (_ : Leaf) (s : State) : State × Except LaneRes (BitVec 64) :=
  let n := (x.rd s fid false f.b).toNat % 2 ^ 32
  let key := crierKey t.ctx va
  let r := s.crierWake key (if n = 0xFFFFFFFF then (s.waitersOf key).length else n)
  (r.2, .ok (BitVec.ofNat 64 r.1))

def execWwake (f : FM) (s : State) : Host.Outcome State Fault Refusal :=
  issue (.wwake f) f.h noCheck (laneOps f.d (crierLane f 4 (wwakeStep f))) s

-- masters

/-- The registers of a master, and a change of them. -/
def State.master (s : State) : Master → MasterRegs
  | .ext m => nth MasterRegs.reset s.forum.masters m.toNat
  | .host c _ => nth MasterRegs.reset s.forum.hostWins c.toNat

def State.modMaster (s : State) (m : Master) (f : MasterRegs → MasterRegs) : State :=
  s.modForum fun g => match m with
    | .ext m => { g with masters := modAt g.masters m.toNat f }
    | .host c _ => { g with hostWins := modAt g.hostWins c.toNat f }

/-- An external master whose link is up. -/
def State.external (s : State) : Master → Option (BitVec 2)
  | .ext m => if (s.master (.ext m)).attached then some m else none
  | _ => none

/-- A master has read-write access (R398). -/
def State.ownerIs (s : State) (m : BitVec 2) : Bool := s.forum.ownState != 0 && s.forum.owner == m

-- ownership (R396, R397)

/-- `OWNSTS`. -/
def Forum.ownsts (g : Forum) : Nat := g.epoch.toNat * 2 ^ 16 + g.ownTgt.toNat * 2 ^ 10 + g.owner.toNat * 2 ^ 8 + g.ownState

/-- An ownership command of a master reaches the Forum once host attachment is open (R408). -/
def State.ownCommand (s : State) (f : BitVec 2 → State → State) : Host.Outcome State Fault Refusal :=
  .next (match s.external s.par.m with
    | some m => if s.forum.pkgstate < 3 then s else f m s
    | none => s)

def execOwnClaim (s : State) : Host.Outcome State Fault Refusal :=
  s.ownCommand fun m s =>
    if s.forum.ownState = 0 then s.modForum fun g => { g with owner := m, ownState := 1, ownTgt := 0, epoch := g.epoch + 1 } else s

def execOwnHandOver (s : State) : Host.Outcome State Fault Refusal :=
  s.ownCommand fun m s =>
    let tgt := s.par.tgt
    if !s.ownerIs m then s
    else if tgt = m then s.modForum fun g => { g with ownState := 1, ownTgt := 0 }
    else if (s.master (.ext tgt)).attached then s.modForum fun g => { g with ownState := 2, ownTgt := tgt }
    else s

def execOwnAccept (s : State) : Host.Outcome State Fault Refusal :=
  s.ownCommand fun m s =>
    if s.forum.ownState = 2 && s.forum.ownTgt == m then
      s.modForum fun g => { g with owner := m, ownState := 1, ownTgt := 0, epoch := g.epoch + 1 }
    else s

/-- Ownership is vacated. -/
def State.vacate (s : State) : State := s.modForum fun g => { g with ownState := 0, ownTgt := 0, epoch := g.epoch + 1 }

def execOwnRelease (s : State) : Host.Outcome State Fault Refusal := s.ownCommand fun m s => if s.ownerIs m then s.vacate else s

/-- A master's link is down: it is not attached, and its parked waits are withdrawn without notify words (R399). -/
def State.detach (s : State) (m : BitVec 2) : State :=
  (s.modMaster (.ext m) fun r => { r with attached := false }).modForum fun g =>
    { g with crier := g.crier.filter fun e => match e.2.2 with | .host x _ => x != m | .fibre .. => true }

def execOwnerLinkDown (s : State) : Host.Outcome State Fault Refusal :=
  .next (if s.forum.ownState = 0 then s else (s.detach s.forum.owner).vacate)

/-- R399: the link of a master that is not the owner goes down. -/
def execMasterLinkDown (s : State) : Host.Outcome State Fault Refusal :=
  .next (match s.external s.par.m with
    | some m => if s.ownerIs m then s else s.detach m
    | none => s)

/-- An option that a host-attach port's capability registers report present (R9, R394). -/
def HostOption.present : HostOption → Bool
  | .pcie rate width => [32, 64, 128].contains rate && [8, 16].contains width
  | .cxl major minor device => major == 3 && minor == 2 && device == 2
  | .cxlIo | .cxlCache | .cxlMem => true
  | .logicalDevices n => n == 2
  | .hdm ranges bi => ranges == 2 && bi
  | .ide skid => !skid
  | .bifurcation | .other => false

/-- R394: a host-attach link trains, from the bring-up stage that opens host attachment on, or is declined for an option that the port's
capability registers report absent. -/
def execMasterLinkUp (s : State) : Host.Outcome State Fault Refusal :=
  .next (match s.par.m with
    | .ext m => if !s.par.asked.all HostOption.present || s.forum.pkgstate < 3 then s else s.modMaster (.ext m) fun r => { r with attached := true }
    | _ => s)

-- CXL.mem (R394, R395, R398, R403, R405)

def execCxlMemAccess (s : State) : Host.Outcome State Fault Refusal :=
  let pa := s.par.addr
  match s.external s.par.m with
  | none => .next s
  | some m =>
    let n := match s.par.bytes with | some b => b.length | none => s.par.len
    let mine (a : Option (List Byte)) (s : State) : State := s.modMaster (.ext m) fun r => { r with answer := a }
    let inside := match regionOf pa, regionOf (pa + (n - 1)) with
      | some _, some _ => !s.worldRefuses false pa && !s.worldRefuses false (pa + (n - 1))
      | _, _ => false
    match s.par.bytes with
    | none => .next (if !inside || s.poisoned pa n then mine none s else mine (some (Memory.bytes s.mem pa n)) s)
    | some b =>
      if !s.ownerIs m then .next ((mine none s).modForum fun g => { g with refusedHost := if g.refusedHost = 0xFFFFFFFF then g.refusedHost else g.refusedHost + 1 })
      else .next (if inside then mine (some []) (s.homeWrite pa n (leNat b)) else mine none s)

-- crier commands of a master (R399)

/-- `CRSTS` after a command: the status, and the number woken where it was a wake. -/
def State.crierStatus (s : State) (m : BitVec 2) (woken : Option Nat) (st : Nat) : State :=
  s.modMaster (.ext m) fun r =>
    { r with crsts := BitVec.ofNat 64 ((woken.getD (r.crsts.toNat / 2 ^ 32)) * 2 ^ 32 + st) }

/-- A crier command: refused while the table does not serve masters, for a nonzero reserved bit or an `OP` of 0, and for a secure key. -/
def State.crierCommand (s : State) (op : Nat) (f : BitVec 2 → BitVec 64 → Nat × Nat → State → State) : Host.Outcome State Fault Refusal :=
  match s.external s.par.m with
  | none => .next s
  | some m =>
    let v := s.par.v
    let ctx := (v.extractLsb' 48 16).toNat
    let va := (s.master (.ext m)).crva.toNat
    let code := (v.extractLsb' 0 2).toNat
    if code ≠ 0 && code ≠ op then .next s
    else .next (if s.forum.pkgstate < 4 || v.extractLsb' 3 13 != 0 || code = 0 || (s.context ctx).world then s.crierStatus m none 3
                else f m v (crierKey ctx va) s)

def execCrierWait (s : State) : Host.Outcome State Fault Refusal :=
  s.crierCommand 1 fun m v key s =>
    let r := s.master (.ext m)
    let n := if v.getLsbD 2 then 8 else 4
    let va := r.crva.toNat
    match s.lookWalk key.1 false .read va with
    | .ok l =>
      if va % n ≠ 0 || 2 ≤ l.apt || s.poisoned (l.phys va) n then s.crierStatus m none 4
      else if Memory.read s.mem (l.phys va) n ≠ r.crval.toNat % 2 ^ (8 * n) then s.crierStatus m none 1
      else if s.crierFull key || 1024 ≤ (s.forum.crier.filter fun e => match e.2.2 with | .host x _ => x == m | _ => false).length then
        s.crierStatus m none 2
      else (s.modForum fun g => { g with crier := g.crier ++ [(key.1, key.2, .host m r.crnote)] }).crierStatus m none 0
    | _ => s.crierStatus m none 4

def execCrierWake (s : State) : Host.Outcome State Fault Refusal :=
  s.crierCommand 2 fun m v key s =>
    if !s.ownerIs m then s.crierStatus m none 3
    else
      let n := (v.extractLsb' 16 32).toNat
      let r := s.crierWake key (if n = 0xFFFFFFFF then (s.waitersOf key).length else n)
      r.2.crierStatus m (some r.1) 0

def execCrierWithdraw (s : State) : Host.Outcome State Fault Refusal :=
  s.crierCommand 3 fun m _ key s =>
    let note := (s.master (.ext m)).crnote
    let mine := (key.1, key.2, Crier.host m note)
    let s := if s.forum.crier.contains mine then
        (s.modForum fun g => { g with crier := g.crier.erase mine }).notify m note 3
      else s
    s.crierStatus m none 0

-- errors (R404-R407)

/-- A row of a core's SRAM (unit below 4096) or of a stack is replaced at once; its poison stays (R18). -/
def State.spareRow (s : State) (unit : Nat) : State := (s.useSpare 5 unit (Config.spareStock 5)).2

/-- R404; where the threshold of its row is passed, the row is replaced (R18). -/
def execCorrectableError (s : State) : Host.Outcome State Fault Refusal :=
  let s := if s.par.flag then s.spareRow s.par.n else s
  .next (s.modForum fun g => { g with softcnt := if g.softcnt = 0xFFFFFFFFFFFFFFFF then g.softcnt else g.softcnt + 1 })

def State.countUncorrectable (s : State) : State :=
  s.modForum fun g => { g with uecnt := if g.uecnt = 0xFFFFFFFF then g.uecnt else g.uecnt + 1 }

/-- R405: a sector of device memory or of an L2 is poisoned at its home; with the flag, a core's L1 holds the sector, and its copy is. -/
def execUncorrectableMemoryError (s : State) : Host.Outcome State Fault Refusal :=
  let sa := sectorOf s.par.addr
  let c := s.par.core
  if s.par.flag then
    .next (if ((s.core c).sector? sa).isNone then s
      else (s.countUncorrectable.spareRow c).modCore c (·.modSector sa fun x => { x with poison := true }))
  else
    let s := s.countUncorrectable.spareRow (4096 + stackOf sa)
    .next (if isNear sa || isBulk sa then s.poisonSector sa else s)

/-- R406. -/
def execTeamStateError (s : State) : Host.Outcome State Fault Refusal :=
  match s.team? s.par.core s.par.slot with
  | none => .next s
  | some t => .next (if t.terminating then s else (s.countUncorrectable.spareRow s.par.core).terminate s.par.core s.par.slot .pageFault 0 4)

/-- A saved team is terminated (R292): its fibres' records, its notice, its places in barriers and what is left of its launch. -/
def State.terminateSaved (s : State) (x : SavedTeam) (cause : Cause) : State :=
  let c := x.core
  let t := teamOfImage x.team x.image 0
  let s := { s with saved := s.saved.filter (·.id != x.id) }
  let s := t.fibres.foldl (fun s f => s.writeRecord c t f f.pc f.pc false false (2 ^ (f.fid % 32)) { cause := cause }) s
  let s := s.notice c t 3 (t.frbase / 2 ^ 12)
  let s := s.modForum fun g => { g with pbars := g.pbars.map fun b => if b.2.own == some t.ctx then (b.1, { b.2 with loss := true }) else b }
  let (cs, ds) := s.teamBarriers c t
  let me := t.saved
  let s := cs.foldl (fun s n => s.clusBarOp (clusOf c) n fun b =>
    { b with loss := true, msk := b.msk.filter (· != me), rpt := b.rpt.filter (· != me) }) s
  let no := t.member
  let s := ds.foldl (fun s n => s.dieBarOp (dieOf c) n fun b =>
    { b with loss := true, memb := b.memb.filter (· != no), rep := b.rep.filter (· != no) }) s
  let s := s.modLaunch t.launch fun l => { l with ended := modAt l.ended (dieOf c) (· + 1) }
  let s := match s.launchOf? t.launch with
    | some l =>
      let s := if t.cont then s.joinEnd l (dieOf c) t.join else s
      if s.launchOver l then s.spawnOnce .launchEnd { n := l.num } else s
    | none => s
  s.kick

/-- Every team of the contexts selected is terminated with `HOST_LOST` (R407). -/
def State.hostLost (s : State) (p : Nat → Bool) : State :=
  let s := (s.allTeams.filter fun x => p x.2.ctx && !x.2.terminating).foldl (fun s x => s.terminate x.1 x.2.slot .hostLost 0) s
  (s.saved.filter fun x => p x.team.ctx).foldl (fun s x => s.terminateSaved x .hostLost) s

/-- R407. -/
def execHostCacheError (s : State) : Host.Outcome State Fault Refusal :=
  let s := s.countUncorrectable
  match s.par.tag with
  | .tenant ctx => .next (s.hostLost (· == ctx))
  | .operatingSystem => .next ((s.hostLost fun n => !(s.context n).world).modForum fun g => { g with pkgstate := min g.pkgstate 3 })
  | .secure => .next ((s.hostLost fun _ => true).modForum fun g => { g with pkgstate := min g.pkgstate 1 })

-- spare stock (R18, R323, R386, R402)

/-- R386: a die's link retrains; failed lanes move to spares, and no request is lost or reordered. -/
def execLinkRetrain (s : State) : Host.Outcome State Fault Refusal := .next (s.useSpare 3 (100 + s.par.die) (Config.spareStock 3)).2

/-- A barrier router of a cluster carries a cluster barrier (R315, R323): the root, 16, every one in use; the leaf of a block those with a
member in it. -/
def ClusBar.carriedBy (b : ClusBar) (router : Nat) : Bool :=
  b.own.isSome && (router == 16 || b.msk.any fun c => decide (c < 2 ^ 20) && 4 * (c % 256 / 64) + c % 16 / 4 == router)

/-- R323: a mesh link or router lane fails, and is replaced at the next launch boundary; the barrier routers that have lost a report set
`LOSS` on every barrier they carry. -/
def execMeshLinkFailure (s : State) : Host.Outcome State Fault Refusal :=
  let cl := s.par.clus
  let s := s.modForum fun g => { g with meshFailed := g.meshFailed ++ [cl] }
  .next ((List.range 64).foldl (fun s n =>
    if s.par.lost.any (s.clusBar cl n).carriedBy then s.setClusBar cl n { s.clusBar cl n with loss := true } else s) s)

/-- R18: a channel of a stack fails; its data move to spare stock, and no access is lost. -/
def execStackChannelFailure (s : State) : Host.Outcome State Fault Refusal := .next (s.useSpare 2 s.par.n (Config.spareStock 2)).2

/-- R402: a region's clearing ends: it reads zero, and its world changes. -/
def execRegionClearingComplete (s : State) : Host.Outcome State Fault Refusal :=
  let r := s.par.region
  let n := s.par.n
  if !(s.regionClearing (r, n)) then .next s
  else
    let inside (pa : Nat) : Bool := regionOf pa == some (r, n)
    let s := s.coreNums.foldl (fun s c =>
      let gone := (s.core c).l1.filter fun e => inside e.pa
      (s.modCore c fun k => { k with l1 := k.l1.filter fun e => !inside e.pa }).ackOwners (gone.flatMap (·.owners))) s
    let s := { s with mem := s.mem.filter fun e => !inside e.1, poison := s.poison.filter fun p => !inside p }
    .next (match r with
      | some d => s.modDie d fun y => { y with clearing := y.clearing.filter (· != n), wmreg := y.wmreg ^^^ (1#64 <<< n) }
      | none => s.modForum fun g => { g with clearing := g.clearing.filter (· != n), wmbulk := g.wmbulk ^^^ (1#64 <<< n) })

-- bring-up and telemetry (R408, R409)

/-- R408: reset. What lies in memory, and the inputs of the model, are not the machine's to reset. -/
def execPackageReset (s : State) : Host.Outcome State Fault Refusal :=
  .next { State.reset with mem := s.mem, poison := s.poison, agenda := s.agenda, turn := s.turn, uid := s.uid, freeCount := s.freeCount }

/-- R408: a stage completes. -/
def execBootStageAdvance (s : State) : Host.Outcome State Fault Refusal :=
  .next ((s.modForum fun g => { g with pkgstate := min (g.pkgstate + 1) 4 }).kick)

/-- R409: the sample, and the cycles in which issue was gated. -/
def execPowerSample (s : State) : Host.Outcome State Fault Refusal :=
  .next (s.modForum fun g =>
    { g with watts := s.par.watts, temps := s.par.temps, thrcyc := BitVec.ofNat 64 (min (g.thrcyc.toNat + s.par.n) (2 ^ 64 - 1)) })

end Sys2Proof.Machine
end

