-- ==== Sys2Proof/Machine/Completion.lean ====
section
/-!
DEFINITION. Completion targets (R435-R437): the counters of chunk graphs (R443), completion updates, and the Forum's counters of a group
and version (R425).
-/
namespace Sys2Proof.Machine

open Sys2Proof

-- counters of a graph slot (R442, R443)

def State.graph? (s : State) (slot : Nat) : Option Graph := s.forum.graphs.find? (·.slot == slot)

def State.modGraph (s : State) (slot : Nat) (f : Graph → Graph) : State :=
  s.modForum fun g => { g with graphs := modWhere (·.slot == slot) f g.graphs }

/-- A term holds (R443), for an enabled one. -/
def termHolds (counters : List Nat) (t : BitVec 64) : Bool :=
  decide ((t.extractLsb' 32 32).toNat ≤ nth 0 counters (t.extractLsb' 0 3).toNat)

def termEnabled (t : BitVec 64) : Bool := t.getLsbD 3

/-- The non-empty pairs of a chunk's terms (R442). -/
def Chunk.pairs (c : Chunk) : List (List (BitVec 64)) :=
  [(c.terms.take 2).filter termEnabled, (c.terms.drop 2).filter termEnabled].filter (!·.isEmpty)

/-- The predicate of a chunk (R442): an OR of ANDs, or an AND of ORs. -/
def Chunk.holds (c : Chunk) (counters : List Nat) : Bool :=
  if c.form.testBit 0 then c.pairs.all fun p => p.any (termHolds counters) else c.pairs.any fun p => p.all (termHolds counters)

/-- The chunks whose predicates hold fire, in ascending index (R443); none after a failure or a cancel (R444, R445). -/
def State.fireChunks (s : State) (slot : Nat) : State :=
  match s.graph? slot with
  | none => s
  | some g =>
    match g.replay with
    | none => s
    | some r =>
      if r.cancelled || !r.failed.isEmpty then s
      else
        let now := (List.range g.chunks.length).filter fun i =>
          !r.fired.contains i && (match g.chunks[i]? with | some c => c.holds g.counters | none => false)
        let s := s.modGraph slot fun g => { g with replay := some { r with fired := r.fired ++ now } }
        now.foldl (fun s i => s.spawn .chunkComplete { slot := slot, n := i }) s

/-- A counter's advance (R443): 32 bits, saturating. -/
def State.advance (s : State) (slot cnt inc : Nat) : State :=
  (s.modGraph slot fun g => { g with counters := modAt g.counters cnt fun n => min (n + inc) 0xFFFFFFFF }).fireChunks slot

-- completion updates (R435, R436)

/-- The bits of a completion word that its `CK` does not name (R435). -/
def completionUnnamed (w : Nat) : Nat :=
  match bits w 60 4 with
  | 1 => bits w 52 8 + bits w 4 8
  | 2 => bits w 11 49
  | 3 => bits w 8 52
  | 4 => bits w 53 7
  | 5 => bits w 9 51
  | _ => bits w 0 60

/-- `CK` 1: an arrival at a barrier of the team that holds the frame, resident or saved. -/
def State.completeTeam (s : State) (base n ctx bytes : Nat) (loss : Bool) : State :=
  match s.allTeams.find? fun x => bits x.2.frbase 12 40 == base && x.2.ctx == ctx with
  | some x =>
    let s := s.acquire x.1 5
    let s := if loss then s.modTeam x.1 x.2.slot fun t => { t with bars := modAt t.bars n fun b => { b with loss := true } } else s
    s.arrive x.1 x.2.slot n bytes none
  | none =>
    if s.saved.any fun x => bits x.team.frbase 12 40 == base && x.team.ctx == ctx then
      { s with saved := modWhere (fun x => bits x.team.frbase 12 40 == base && x.team.ctx == ctx)
                 (fun x => { x with arrivals := x.arrivals ++ [(n, bytes, loss)] }) s.saved }
    else s.report

/-- `CK` 2: the phase of a die barrier completes at once. -/
def State.completeDieBar (s : State) (d n ctx : Nat) (loss : Bool) : State :=
  let b := s.dieBar d n
  if b.own == some ctx then
    (s.setDieBar d n { b with ph := b.ph + 1, rep := [], loss := b.loss || loss }).spawn .dieBarrierRelease { die := d, n := n }
  else s.report

/-- `CK` 4: the crier word counts one more, and every waiter of its key wakes. -/
def State.completeCrier (s : State) (ctx va : Nat) : State :=
  match s.lookWalk ctx (s.context ctx).world .write va with
  | .ok l =>
    if 2 ≤ l.apt then s.report
    else
      let pa := l.phys va
      let s := s.homeWrite pa 8 ((Memory.read s.mem pa 8 + 1) % 2 ^ 64)
      let key := crierKey ctx va
      (s.crierWake key (s.waitersOf key).length).2
  | _ => s.report

/-- `CK` 5: a counter's advance by 1. -/
def State.completeCounter (s : State) (slot cnt ctx : Nat) : State :=
  match s.graph? slot with
  | some g => if g.ctx = ctx then s.advance slot cnt 1 else s.report
  | none => s.report

/-- A completion update (R435, R436); `bytes` is what a team barrier counts. -/
def State.completion (s : State) (word : BitVec 64) (ctx bytes : Nat) (loss : Bool) : State :=
  let w := word.toNat
  if completionUnnamed w ≠ 0 then s.report
  else match bits w 60 4 with
    | 0 => s
    | 1 => s.completeTeam (bits w 12 40) (bits w 0 4) ctx bytes loss
    | 2 => s.completeDieBar (bits w 8 3) (bits w 0 8) ctx loss
    | 3 => if (s.pkgBar (bits w 0 8)).own == some ctx then s.pkgArrive (bits w 0 8) none loss else s.report
    | 4 => s.completeCrier ctx (8 * bits w 0 53)
    | 5 => s.completeCounter (bits w 0 6) (bits w 6 3) ctx
    | _ => s.report

-- the counters of a group and version (R425, R437)

def CmplCount.start (grp ver : Nat) : CmplCount := ⟨grp, ver, 0, 0, 0, 0, none⟩

def State.count (s : State) (grp ver : Nat) : CmplCount :=
  (s.forum.counts.find? fun c => c.grp == grp && c.ver == ver).getD (CmplCount.start grp ver)

def State.setCount (s : State) (c : CmplCount) : State :=
  s.modForum fun g => { g with counts := g.counts.filter (fun x => !(x.grp == c.grp && x.ver == c.ver)) ++ [c] }

/-- A physical write by a porter (R425), which its world and the map admit (R403); a poisoned one poisons its sector (R428). -/
def State.porterWrite (s : State) (p pa mask v : Nat) (poison : Bool) : State :=
  let host := isHost pa && (nth MasterRegs.reset s.forum.masters (bits pa 46 2)).attached
  if !(isNear pa || isBulk pa || host) || s.worldRefuses (s.porterSecure p) pa then s.report
  else
    let s := s.homeWriteMasked pa mask v
    if poison then s.poisonSector (sectorOf pa) else s

/-- An operation of a group is complete: the acknowledgement word where deliveries were sent (R437), the completion update, and the counts
start again. -/
def State.completeGroup (s : State) (p : Nat) (g : Group) (c : CmplCount) : State :=
  let s := if c.sent = 0 then s else s.porterWrite p (g.rbase + 32 * g.nsec) 0xFF (c.refused % 2 ^ 32 * 2 ^ 32 + c.accepted % 2 ^ 32) false
  (s.setCount (CmplCount.start c.grp c.ver)).completion g.cmpl g.ctx (32 * g.nsec) (decide (0 < c.refused))

/-- One more sector is complete (R425): the count, and the update at `NSEC`, which waits for the acknowledgements of deliveries (R437). -/
def State.countSector (s : State) (p : Nat) (g : Group) (grp ver : Nat) : Nat × State :=
  let c := s.count grp ver
  let c := { c with n := c.n + 1 }
  (c.n,
    if c.n ≠ g.nsec then s.setCount c
    else if c.sent = c.accepted + c.refused then s.completeGroup p g c
    else s.setCount { c with due := some g })

end Sys2Proof.Machine
end

