-- ==== Sys2Proof/Machine/Boster.lean ====
section
/-!
DEFINITION. The Boster instruction set, packets at their porters, slots, spills and their endpoint, and the loading of porters
(R410-R430, R437).
-/
namespace Sys2Proof.Machine

open Sys2Proof

-- the fold (R423)

/-- A value of a slot is an FP32 code. -/
def decodeF32 (c : BitVec 32) : Val := fmtF32.decode c.toNat

/-- `Op` of a group (R413, R423). -/
def Group.op (g : Group) (a b : BitVec 32) : BitVec 32 :=
  let x := decodeF32 a
  let y := decodeF32 b
  let r := match (g.efmt.extractLsb' 1 3).toNat with
    | 0 => x.add y 0
    | 1 => x.minMax y false
    | _ => x.minMax y true
  BitVec.ofNat 32 (fmtF32.encode r 0 0).1

/-- Bytes of an element in its sector. -/
def Group.elemBytes (g : Group) : Nat := if g.bf16 then 2 else 4

/-- The format of a group's elements (R413). -/
def Group.fmt (g : Group) : Fmt := Fmt.of (nth 0 fixedTariff (if g.bf16 then 1 else 0))

/-- Element `e` of a packet, if present, and whether it is poisoned (R423, R428): of a contribution decoded exactly, its bytes all in the
mask; of a partial as it is. -/
def packetElem (g : Group) (p : Packet) (e : Nat) : Option (BitVec 32) × Bool :=
  if p.kind = 1 then (if p.mask.testBit e then some (nth 0 p.data e) else none, p.poison.testBit e && p.mask.testBit e)
  else
    let n := g.elemBytes
    let full := bits p.mask (n * e) n == 2 ^ n - 1
    let code := (leNat (p.data.flatMap fun w => leBytes w.toNat 4) / 2 ^ (8 * n * e)) % 2 ^ (8 * n)
    (if full then some (BitVec.ofNat 32 (if g.bf16 then code * 2 ^ 16 else code)) else none, full && bits p.poison (n * e) n != 0)

/-- The raw contribution of a packet. -/
def packetRaw (g : Group) (p : Packet) : Raw :=
  let es := (List.range g.elems).map (packetElem g p)
  ⟨p.member, es.map (·.1), es.map (·.2)⟩

/-- One contribution folded into `ACC`. -/
def Slot.fold (g : Group) (s : Slot) (r : Raw) : Slot :=
  { s with
    acc := (s.acc.zip r.vals).map fun x => match x.1, x.2 with
      | none, v => v
      | some a, some b => some (g.op a b)
      | a, none => a
    poison := (s.poison.zip r.poison).map fun x => x.1 || x.2
    raw := s.raw.filter (·.m != r.m) }

/-- The loop of `Fold`: absent members are skipped, and what has arrived in order is folded (R423). -/
def Slot.run (g : Group) : Nat → Slot → Slot
  | 0, s => s
  | fuel + 1, s =>
    if g.nmem ≤ s.nxt then s
    else if mAbs (nth 0 g.members s.nxt) then Slot.run g fuel { s with nxt := s.nxt + 1 }
    else match s.raw.find? (·.m == s.nxt) with
      | some r => Slot.run g fuel { s.fold g r with nxt := s.nxt + 1 }
      | none => s

/-- A new contribution: its bit is set, and it enters the buffer. -/
def Slot.put (g : Group) (s : Slot) (p : Packet) : Slot := { s with bmp := s.bmp ++ [p.member], raw := s.raw ++ [packetRaw g p] }

/-- `Done` of a slot. -/
def Slot.done (g : Group) (s : Slot) : Bool := s.nxt == g.nmem

def Slot.key (s : Slot) : Nat × Nat × Nat := (s.grp, s.ver, s.off)

/-- A new slot for a packet's key (R422). -/
def Slot.fresh (g : Group) (p : Packet) : Slot :=
  ⟨p.grp, p.ver, p.off, 0, [], List.replicate g.elems none, List.replicate g.elems false, []⟩

/-- A contribution that brings poison counts in `UECNT` (R428). -/
def State.countPoison (s : State) (g : Group) (p : Packet) : State := if (packetRaw g p).poison.any id then s.countUncorrectable else s

-- slots of a porter

def State.slotOf (s : State) (p : Nat) (key : Nat × Nat × Nat) : Option Slot := (s.porter p).slots.find? (·.key == key)

def State.modSlot (s : State) (p : Nat) (key : Nat × Nat × Nat) (f : Slot → Slot) : State :=
  s.modPorter p fun q => { q with slots := modWhere (·.key == key) f q.slots }

def State.dropSlot (s : State) (p : Nat) (key : Nat × Nat × Nat) : State :=
  s.modPorter p fun q => { q with slots := q.slots.filter (·.key != key) }

def Porter.countDup (q : Porter) : Porter := { q with dup := sat16 (q.dup + 1) }

/-- Port 50 has a spill slot free (R426). -/
def State.spillRoom (s : State) : Bool := decide (s.forum.spills.length < 1024)

/-- A packet on its way to the endpoint (R422, R426). -/
def State.toEndpoint (s : State) (p : Packet) : State :=
  let (id, s) := s.fresh
  (s.modForum fun g => { g with packets := g.packets ++ [(id, p)] }).spawn .spillEndpointFold { id := id }

/-- A slot spills (R426): its state goes to port 50 in a packet of kind 3, and its key is marked. -/
def State.spill (s : State) (p : Nat) (x : Slot) : State :=
  let s := s.dropSlot p x.key
  let s := s.modPorter p fun q => { q with marks := q.marks ++ [x.key], spill := sat16 (q.spill + 1) }
  let s := s.modForum fun g => { g with spills := g.spills ++ [x] }
  s.toEndpoint ⟨3, x.grp, x.off, 0, x.ver, s.forum.pkg.toNat, p, 0, [], 0⟩

/-- A handler holds the slot of a key (R426). -/
def State.slotHeld (s : State) (p : Nat) (key : Nat × Nat × Nat) : Bool := (s.porter p).handlers.any fun h => h.sl && packetKey h.pkt == key

-- packets between porters (R417, R425)

/-- A packet is sent to a package: to this one's Forum, or over the fabric. -/
def State.sendPacket (s : State) (pkg : Nat) (p : Packet) : State :=
  s.tell pkg (.packet p) fun s =>
    let (id, s) := s.fresh
    (s.modForum fun g => { g with packets := g.packets ++ [(id, p)] }).spawn .packetArrival { id := id }

/-- `bfwd.up`: the partial that a done slot sends to the parent group. -/
def State.sendPartial (s : State) (p : Nat) (g : Group) (x : Slot) : State :=
  let bitsOf (l : List Bool) : Nat := maskOf ((List.range l.length).filter fun i => nth false l i)
  s.sendPacket g.ppkg ⟨1, g.pgrp, x.off, g.pmem, x.ver, s.forum.pkg.toNat, p, bitsOf (x.acc.map (·.isSome)), x.acc.map (·.getD 0), bitsOf x.poison⟩

/-- `bfwd.res`: the result of a done slot, its present elements encoded at their places (R425). -/
def State.writeResult (s : State) (p : Nat) (g : Group) (x : Slot) : State :=
  let n := g.elemBytes
  let present := (List.range g.elems).filter fun e => (nth none x.acc e).isSome
  let mask := (present.map fun e => (2 ^ n - 1) * 2 ^ (n * e)).sum
  let v := (present.map fun e => (g.fmt.encode (decodeF32 ((nth none x.acc e).getD 0)) 0 0).1 * 2 ^ (8 * n * e)).sum
  if mask = 0 then s else s.porterWrite p (g.rbase + x.off) mask v (present.any fun e => nth false x.poison e)

/-- The bytes of a packet as a number. -/
def packetBytes (p : Packet) : Nat := leNat (p.data.flatMap fun w => leBytes w.toNat 4)

-- handlers (R412, R419-R425)

/-- What an instruction does to its handler: it goes on, waits at its instruction, meets a porter fault, or ends. -/
inductive Hand where
  | go (h : Handler) (s : State)
  | wait
  | fault (err : Nat)
  | fin (s : State)

/-- The next instruction; `BPC` has 10 bits (R412). -/
def Handler.next (h : Handler) : Handler := { h with bpc := (h.bpc + 1) % 1024 }

/-- A register; `g0` reads zero (R412). -/
def Handler.reg (h : Handler) (n : BitVec 4) : BitVec 64 := if n = 0 then 0 else nth 0 h.g n.toNat

/-- A register's new value; a write of `g0` is discarded (R412). -/
def Handler.set (h : Handler) (n : BitVec 4) (v : BitVec 64) : Handler := if n = 0 then h else { h with g := setAt h.g n.toNat v }

/-- A porter fault (R424): the porter stops, and the handler's packet is held. -/
def State.porterFault (s : State) (p idx : Nat) (h : Handler) (err : Nat) : State :=
  (s.modPorter p fun q =>
    { q with running := false, hlt := true, err := if q.hlt then q.err else err, fpc := if q.hlt then q.fpc else h.bpc,
             held := q.held ++ [h.pkt], handlers := q.handlers.eraseIdx idx }).report

/-- A handler ends, and a waiting packet may take its context. -/
def State.endHandler (s : State) (p idx : Nat) : State :=
  (s.modPorter p fun q => { q with handlers := q.handlers.eraseIdx idx }).startHandlers p

/-- One instruction of the handler that runs (R419, R424): a 65th one is a porter fault; a handler that waits yields to the others. -/
def boster (body : Nat → Handler → State → Hand) (s : State) : Host.Outcome State Fault Refusal :=
  let p := s.curPorter.1
  let idx := s.curPorter.2
  match (s.porter p).handlers[idx]? with
  | none => .next s
  | some h =>
    if 64 ≤ h.count then .next (s.porterFault p idx h 4)
    else .next (match body p h s with
      | .go h' s => s.modPorter p fun q => { q with handlers := setAt q.handlers idx { h' with count := h.count + 1 } }
      | .wait => s.modPorter p fun q => { q with handlers := q.handlers.eraseIdx idx ++ [h] }
      | .fault e => s.porterFault p idx h e
      | .fin s => s.endHandler p idx)

/-- An instruction that only writes a register. -/
def bosterSet (d : BitVec 4) (v : Handler → BitVec 64) (s : State) : Host.Outcome State Fault Refusal :=
  boster (fun _ h s => .go (h.set d (v h)).next s) s

/-- A branch (R421, R424): a target outside the store is a fault where it is taken. -/
def bosterBranch (taken : Handler → Bool) (i : BitVec 14) (s : State) : Host.Outcome State Fault Refusal :=
  boster (fun _ h s =>
    if taken h then
      let t := (h.bpc : Int) + i.toInt
      if t < 0 || 1024 ≤ t then .fault 2 else .go { h with bpc := t.toNat } s
    else .go h.next s) s

def execBnop (s : State) : Host.Outcome State Fault Refusal := boster (fun _ h s => .go h.next s) s

def execBli (d : BitVec 4) (i : BitVec 22) (s : State) : Host.Outcome State Fault Refusal := bosterSet d (fun _ => i.signExtend 64) s

def execBadd (d a b : BitVec 4) (s : State) : Host.Outcome State Fault Refusal := bosterSet d (fun h => h.reg a + h.reg b) s

def execBaddi (d a : BitVec 4) (i : BitVec 14) (s : State) : Host.Outcome State Fault Refusal :=
  bosterSet d (fun h => h.reg a + i.signExtend 64) s

def execBand (d a b : BitVec 4) (s : State) : Host.Outcome State Fault Refusal := bosterSet d (fun h => h.reg a &&& h.reg b) s

def execBshr (d a : BitVec 4) (n : BitVec 6) (s : State) : Host.Outcome State Fault Refusal := bosterSet d (fun h => h.reg a >>> n.toNat) s

def execBbeq (a b : BitVec 4) (i : BitVec 14) (s : State) : Host.Outcome State Fault Refusal :=
  bosterBranch (fun h => h.reg a == h.reg b) i s

def execBbne (a b : BitVec 4) (i : BitVec 14) (s : State) : Host.Outcome State Fault Refusal :=
  bosterBranch (fun h => h.reg a != h.reg b) i s

/-- R422: the slot of the key, a new one where the porter has none; a marked key goes to the endpoint. -/
def execBmatch (s : State) : Host.Outcome State Fault Refusal :=
  boster (fun p h s =>
    let key := packetKey h.pkt
    let take (s : State) : Hand := .go { h.next with sl := true } (s.modPorter p fun q => { q with slots := q.slots ++ [Slot.fresh h.group h.pkt] })
    if 2 ≤ h.pkt.kind || h.group.kind != 2 then .fault 5
    else if h.sl then .fault 3
    else if (s.porter p).marks.contains key then .fin (s.toEndpoint h.pkt)
    else if (s.slotOf p key).isSome then .go { h.next with sl := true } s
    else if (s.porter p).slots.length < porterSlots p then take s
    else match (s.porter p).slots with
      | x :: _ => if s.slotHeld p x.key || !s.spillRoom then .wait else take (s.spill p x)
      | [] => .wait) s

/-- R423: a duplicate is dropped and counted; a slot whose buffer is full spills with the contribution (R426). -/
def execBfold (d : BitVec 4) (s : State) : Host.Outcome State Fault Refusal :=
  boster (fun p h s =>
    let key := packetKey h.pkt
    if 2 ≤ h.pkt.kind then .fault 5
    else match h.sl, s.slotOf p key with
      | true, some x =>
        if x.bmp.contains h.pkt.member then
          .go (h.set d (if x.done h.group then 1 else 0)).next (s.modPorter p (·.countDup))
        else if 16 ≤ x.raw.length then
          if s.spillRoom then .go { (h.set d 0).next with sl := false } ((s.countPoison h.group h.pkt).spill p (x.put h.group h.pkt)) else .wait
        else
          let y := (x.put h.group h.pkt).run h.group 513
          .go (h.set d (if y.done h.group then 1 else 0)).next ((s.countPoison h.group h.pkt).modSlot p key fun _ => y)
      | _, _ => .fault 3) s

/-- A handler's slot, if its fold is done (R424, R425). -/
def State.doneSlot (s : State) (p : Nat) (h : Handler) : Option Slot :=
  if h.sl then (s.slotOf p (packetKey h.pkt)).filter (·.done h.group) else none

def execBfwdRes (s : State) : Host.Outcome State Fault Refusal :=
  boster (fun p h s => match s.doneSlot p h with
    | none => .fault 3
    | some x => .go { h.next with sl := false } ((s.writeResult p h.group x).dropSlot p x.key)) s

def execBfwdUp (s : State) : Host.Outcome State Fault Refusal :=
  boster (fun p h s => match s.doneSlot p h with
    | none => .fault 3
    | some x => if h.group.pv then .go { h.next with sl := false } ((s.sendPartial p h.group x).dropSlot p x.key) else .fault 5) s

def execBfwdRaw (s : State) : Host.Outcome State Fault Refusal :=
  boster (fun p h s =>
    if h.pkt.kind = 0 || h.pkt.kind = 2 then
      .go h.next (s.porterWrite p (h.group.rbase + h.pkt.off) h.pkt.mask (packetBytes h.pkt) (h.pkt.poison &&& h.pkt.mask != 0))
    else .fault 5) s

/-- R425, R437: a delivery to every present member, each to be acknowledged. -/
def execBmcast (s : State) : Host.Outcome State Fault Refusal :=
  boster (fun p h s =>
    if h.pkt.kind = 0 && h.group.kind = 1 then
      let dests := h.group.members.filter (!mAbs ·)
      let c := s.count h.pkt.grp h.pkt.ver
      let s := s.setCount { c with sent := c.sent + dests.length }
      let q := { h.pkt with kind := 2, srcPkg := s.forum.pkg.toNat, srcPort := p }
      .go h.next (dests.foldl (fun s m => s.sendPacket (mPkg m) q) s)
    else .fault 5) s

def execBgath (s : State) : Host.Outcome State Fault Refusal :=
  boster (fun p h s =>
    if h.pkt.kind = 0 && h.group.kind = 3 then
      .go h.next (s.porterWrite p (h.group.rbase + h.pkt.member * h.group.gstr + h.pkt.off) h.pkt.mask (packetBytes h.pkt) (h.pkt.poison &&& h.pkt.mask != 0))
    else .fault 5) s

def execBcmpl (d : BitVec 4) (s : State) : Host.Outcome State Fault Refusal :=
  boster (fun p h s =>
    let r := s.countSector p h.group h.pkt.grp h.pkt.ver
    .go (h.set d (BitVec.ofNat 64 h.group.nsec - BitVec.ofNat 64 r.1)).next r.2) s

def execBfree (s : State) : Host.Outcome State Fault Refusal :=
  boster (fun p h s => if h.sl then .go { h.next with sl := false } (s.dropSlot p (packetKey h.pkt)) else .fault 3) s

def execBend (s : State) : Host.Outcome State Fault Refusal := boster (fun _ _ s => .fin s) s

/-- R424: a reserved `OPC`, a nonzero unused field, or `bfwd` kind 3. -/
def execBosterReservedWord (_ : BitVec 32) (s : State) : Host.Outcome State Fault Refusal := boster (fun _ _ _ => .fault 1) s

-- packets at their porters

/-- What a decided packet brings about (R418, R437): the acknowledgement or refusal of the store-buffer entry it was, or of a delivery. -/
def State.packetDecided (s : State) (id : Nat) (p : Packet) (ok : Bool) : State :=
  if p.kind = 2 then
    s.tell p.srcPkg (.deliveryAck p.grp p.ver ok) (·.spawn .deliveryAck { grp := p.grp, ver := p.ver, flag := ok })
  else match s.coreNums.filterMap fun c => ((s.core c).sb.find? (·.id == id)).map (c, ·) with
    | (c, e) :: _ =>
      if ok then s.acceptEntry c e
      else s.refuseEntry c e Cause.permitDenied.code
    | [] => s

/-- R418: a packet is checked at its home porter when the porter takes it. -/
def execPacketArrival (s : State) : Host.Outcome State Fault Refusal :=
  match s.par.packet with
  | some p =>
    let (id, s) := s.fresh
    .next ((s.modForum fun g => { g with packets := g.packets ++ [(id, p)] }).spawn .packetArrival { id := id })
  | none =>
    match s.forum.packets.find? (·.1 == s.par.id) with
    | none => .next s
    | some (id, p) =>
      if !s.packetReady ((s.forum.packets.takeWhile (·.1 != id)).map (·.2)) p then .next (s.spawn .packetArrival s.par)
      else
        let (ok, s) := (s.modForum fun g => { g with packets := g.packets.filter (·.1 != id) }).packetAtHome p
        .next (s.packetDecided id p ok)

/-- R426: the timer of a slot reaches a nonzero `TMO`; a handler that holds the slot ends first. -/
def execSlotTimeout (s : State) : Host.Outcome State Fault Refusal :=
  let p := s.par.porter
  let key := (s.par.grp, s.par.ver, s.par.off)
  match s.slotOf p key with
  | none => .next s
  | some x =>
    let (g, s) := s.porterGroup p x.grp
    if g.tmo = 0 then .next s
    else if s.slotHeld p key || !s.spillRoom then .next (s.spawn .slotTimeout s.par)
    else .next (s.spill p x)

/-- The end of a spilled fold (R426): the result or the partial, the count, and the mark. -/
def State.endSpill (s : State) (g : Group) (x : Slot) : State :=
  let s := s.modForum fun f => { f with spills := f.spills.filter (·.key != x.key) }
  let s := if g.pv then s.sendPartial 50 g x else s.writeResult 50 g x
  let s := (s.countSector 50 g x.grp x.ver).2
  s.modPorter (min g.home 50) fun q => { q with marks := q.marks.filter (· != x.key) }

/-- R426, R427: the endpoint continues the fold with a forwarded packet, or from the spilled state; a packet of a key whose fold has ended
meanwhile is a duplicate. -/
def execSpillEndpointFold (s : State) : Host.Outcome State Fault Refusal :=
  match s.forum.packets.find? (·.1 == s.par.id) with
  | none => .next s
  | some (id, p) =>
    let s := s.modForum fun f => { f with packets := f.packets.filter (·.1 != id) }
    let (g, s) := s.porterGroup 50 p.grp
    match s.forum.spills.find? (·.key == packetKey p) with
    | none => .next (if p.kind = 3 then s else s.modPorter (min g.home 50) (·.countDup))
    | some x =>
      if p.kind ≠ 3 && x.bmp.contains p.member then .next (s.modPorter (min g.home 50) (·.countDup))
      else
        let s := if p.kind = 3 then s else s.countPoison g p
        let y := (if p.kind = 3 then x else x.put g p).run g 513
        .next (if y.done g then s.endSpill g y
          else s.modForum fun f => { f with spills := modWhere (·.key == y.key) (fun _ => y) f.spills })

/-- R437: an acknowledgement of a delivery is counted; an update that waited for the last follows. -/
def execDeliveryAck (s : State) : Host.Outcome State Fault Refusal :=
  let c := s.count s.par.grp s.par.ver
  if c.sent ≤ c.accepted + c.refused then .next s
  else
    let c := if s.par.flag then { c with accepted := c.accepted + 1 } else { c with refused := c.refused + 1 }
    match c.due with
    | some g => .next (if c.sent = c.accepted + c.refused then s.completeGroup (min g.home 50) g c else s.setCount c)
    | none => .next (s.setCount c)

-- registers of the Forum (R400, R416, R429, R430)

/-- A master may write the Forum's registers (R416): the secure master, and the owner. -/
def State.forumWriter (s : State) : Master → Bool
  | .host _ machine => machine
  | .ext m => s.ownerIs m && (s.master (.ext m)).attached

/-- The same for a porter's registers (R429). -/
def State.porterWriter (s : State) (m : Master) (p : Nat) : Bool := if s.porterSecure p then m.isSecure else s.forumWriter m

/-- A refused access sets `SWSTS`.`ERR` (R400). -/
def State.windowError (s : State) (m : Master) : State := s.modMaster m fun r => { r with swerr := true }

/-- A write of the master that the event names, if it may, and if its register takes it; otherwise it changes nothing but `ERR`. -/
def State.registerEvent (s : State) (may : Bool) (r : Option State) : Host.Outcome State Fault Refusal :=
  .next (if may then r.getD (s.windowError s.par.m) else s.windowError s.par.m)

/-- R430: a write of 1 to `RUN`. -/
def State.startPorter (s : State) (p : Nat) : State :=
  (s.modPorter p fun q =>
    { q with running := true, hlt := false, err := if q.hlt then 0 else q.err, held := [],
             drop := if q.hlt then sat16 (q.drop + q.held.length) else q.drop }).startHandlers p

def execPctlRunStart (s : State) : Host.Outcome State Fault Refusal :=
  s.registerEvent (decide (s.par.porter < 51) && s.porterWriter s.par.m s.par.porter) (some (s.startPorter s.par.porter))

/-- R430: a write of 0 to `RUN`; the running handlers end. -/
def execPctlRunStop (s : State) : Host.Outcome State Fault Refusal :=
  s.registerEvent (decide (s.par.porter < 51) && s.porterWriter s.par.m s.par.porter)
    (some (s.modPorter s.par.porter fun q => { q with running := false }))

/-- R430: a `PSDATA` access moves `PSADDR`; the write is performed only while the porter is stopped and no handler runs. -/
def State.psdata (s : State) (m : Master) (p : Nat) (v : BitVec 64) : State :=
  let q := s.porter p
  let s' := s.modPorter p fun q => { q with psaddr := (q.psaddr + 1) % 1024 }
  if q.running || !q.handlers.isEmpty then s'.windowError m
  else s'.modPorter p fun q' => { q' with words := sparsePut 0 q'.words (q.psaddr % 1024) (v.extractLsb' 0 32) }

def execPsdataWrite (s : State) : Host.Outcome State Fault Refusal :=
  s.registerEvent (decide (s.par.porter < 51) && s.porterWriter s.par.m s.par.porter) (some (s.psdata s.par.m s.par.porter s.par.v))

/-- Every porter drops its copy of the groups named; handlers that began with one are marked (R416). -/
def State.dropGroups (s : State) (which : Option Nat) : State :=
  let hit (n : Nat) : Bool := match which with | none => true | some g => n == g
  s.modForum fun f => { f with porters := f.porters.map fun q =>
    { q with groups := q.groups.filter fun e => !hit e.1,
             handlers := q.handlers.map fun h => { h with stale := h.stale || hit h.pkt.grp } } }

/-- A write of `GTINV` (R416). -/
def State.gtinv (s : State) (v : BitVec 64) : State :=
  let which := if v.getLsbD 12 then none else some (v.extractLsb' 0 12).toNat
  ((s.dropGroups which).modForum fun f => { f with gtIssued := f.gtIssued + 1, gtPending := f.gtPending ++ [which] }).spawn
    .gtInvalidationComplete {}

def execGtinvWrite (s : State) : Host.Outcome State Fault Refusal := s.registerEvent (s.forumWriter s.par.m) (some (s.gtinv s.par.v))

/-- R416: the oldest invalidation completes when every handler that began with a copy it covers has ended. -/
def execGtInvalidationComplete (s : State) : Host.Outcome State Fault Refusal :=
  match s.forum.gtPending with
  | [] => .next s
  | w :: r =>
    let hit (n : Nat) : Bool := match w with | none => true | some g => n == g
    if s.forum.porters.any fun q => q.handlers.any fun h => h.stale && hit h.pkt.grp then .next (s.spawn .gtInvalidationComplete {})
    else .next (s.modForum fun f => { f with gtPending := r, gtDone := f.gtDone + 1 })

end Sys2Proof.Machine
end

