-- ==== Sys2Proof/Machine/Collectives.lean ====
section
/-!
DEFINITION. Package barriers' configuration, counters and chunk graphs, and the agreement rounds of elastic groups (R438-R448).
-/
namespace Sys2Proof.Machine

open Sys2Proof

-- package barriers (R438)

/-- A write of `PBCFG` with `FREE` = 0: none where it is refused. -/
def State.pbReserve (s : State) (v : BitVec 64) : Option State :=
  let n := (v.extractLsb' 0 8).toNat
  let own := (v.extractLsb' 48 16).toNat
  let exp := (v.extractLsb' 32 16).toNat
  let b := s.pkgBar n
  if exp = 0 then none
  else match b.own with
    | none => some (s.setPkgBar n { PkgBar.reset with own := some own, exp := exp })
    | some o => if o = own then some (s.setPkgBar n { b with nextExp := some exp }) else none

/-- A write of `PBCFG` with `FREE` = 1. -/
def State.pbFree (s : State) (v : BitVec 64) : State := s.setPkgBar (v.extractLsb' 0 8).toNat PkgBar.reset

def execPbcfgReserve (s : State) : Host.Outcome State Fault Refusal := s.registerEvent (s.forumWriter s.par.m) (s.pbReserve s.par.v)

def execPbcfgFree (s : State) : Host.Outcome State Fault Refusal := s.registerEvent (s.forumWriter s.par.m) (some (s.pbFree s.par.v))

-- counters (R441, R443)

/-- A write of `CADD`; a slot without a graph has no counters. -/
def State.cadd (s : State) (v : BitVec 64) : Option State :=
  let slot := (v.extractLsb' 0 6).toNat
  (s.graph? slot).map fun _ => s.advance slot (v.extractLsb' 6 3).toNat (v.extractLsb' 32 32).toNat

def execCadd (s : State) : Host.Outcome State Fault Refusal := s.registerEvent (s.forumWriter s.par.m) (s.cadd s.par.v)

-- loading a graph (R442)

/-- A chunk from its 64 bytes. -/
def Chunk.parse (b : List Byte) : Chunk where
  terms := (List.range 4).map fun i => BitVec.ofNat 64 (field b (8 * i) 8)
  form := field b 0x20 1
  act := field b 0x21 1
  bsel := field b 0x22 1
  done := field b 0x23 1
  sport := field b 0x24 1
  rsvZero := field b 0x25 3 == 0 && field b 0x2C 4 == 0
  len := field b 0x28 4
  soff := field b 0x30 8
  doff := field b 0x38 8

/-- A malformed chunk (R442). -/
def Chunk.malformed (c : Chunk) : Bool :=
  let moves := c.act == 1 || c.act == 2
  !c.rsvZero || c.pairs.isEmpty || c.act == 0 || decide (4 < c.act) || c.terms.any (fun t => t.extractLsb' 4 28 != 0) ||
  decide (1 < c.form) || decide (63 < c.bsel) || decide (15 < c.done) || (c.act == 1 && decide (50 < c.sport)) ||
  (moves && (c.len % 32 != 0 || c.len == 0 || decide (2 ^ 24 < c.len) || c.soff % 32 != 0 || c.doff % 32 != 0))

/-- The leaves below a table: only entries that memory lists can be valid ones. -/
def tableLeaves (mem : List Host.Cell) (pkg : Nat) : Nat → Nat → List Leaf
  | level, table =>
    let idx := ((mem.filter fun e => decide (table ≤ e.1) && decide (e.1 < table + tableBytes level)).map fun e => (e.1 - table) / 8).eraseDups
    idx.flatMap fun i =>
      let e := Memory.read mem (table + 8 * i) 8
      if !e.testBit 0 then []
      else if e.testBit 15 then (if level = 3 then [] else (leafOf pkg level e).toList)
      else match level with
        | 0 => []
        | n + 1 => tableLeaves mem pkg n (bits e 16 44 * 2 ^ 8)

/-- A physical range is pinned for a context: pinned leaves of its tables cover it. -/
def State.pinnedPhys (s : State) (ctx pa n : Nat) : Bool :=
  let ls := (tableLeaves s.mem s.forum.pkg.toNat 3 (bits (s.context ctx).ptroot.toNat 17 35 * 2 ^ 17)).filter fun l => l.pin && decide (l.apt < 4)
  let inside (a : Nat) : Bool := ls.any fun l => decide (l.pa ≤ a) && decide (a < l.pa + l.size)
  inside pa && inside (pa + (n - 1))

/-- A write of `CGLOAD`: none where the image is refused, which leaves the slot empty. -/
def State.cgload (s : State) (v : BitVec 64) : Option State :=
  let slot := (v.extractLsb' 0 6).toNat
  let pa := (v.extractLsb' 6 46).toNat * 64
  let h := Memory.bytes s.mem pa 64
  let nch := field h 0 2
  let ctx := field h 2 2
  let cs := (List.range (min nch 256)).map fun i => Chunk.parse (Memory.bytes s.mem (pa + 64 + 64 * i) 64)
  let room := ((s.forum.graphs.filter (·.slot != slot)).map fun g => g.chunks.length).sum + nch
  let runs := match s.graph? slot with | some g => g.replay.isSome | none => false
  if nch = 0 || 256 < nch || field h 4 4 ≠ 0 || (h.drop 16).any (· != 0) || cs.any Chunk.malformed ||
     !s.pinnedPhys ctx pa (64 + 64 * nch) || s.worldRefuses (s.context ctx).world pa || 4096 < room || runs then none
  else some (s.modForum fun f =>
    { f with graphs := f.graphs.filter (·.slot != slot) ++ [⟨slot, ctx, BitVec.ofNat 64 (field h 8 8), cs, List.replicate 8 0, none⟩] })

def execCgload (s : State) : Host.Outcome State Fault Refusal :=
  if s.forumWriter s.par.m then
    .next ((s.cgload s.par.v).getD ((s.modForum fun f =>
      { f with graphs := f.graphs.filter (·.slot != (s.par.v.extractLsb' 0 6).toNat) }).windowError s.par.m))
  else .next (s.windowError s.par.m)

-- replays (R444, R445)

/-- A replay ends: the status word, and the graph's completion update. -/
def State.endReplay (s : State) (slot : Nat) (g : Graph) (r : Replay) (how : Nat) : State :=
  let world := (s.context g.ctx).world
  let f := match r.failed with | x :: _ => x | [] => (0xFFFF, 0)
  let status := r.completed.length + f.1 * 2 ^ 16 + how * 2 ^ 32 + f.2 * 2 ^ 40
  let s := match s.lookWalk g.ctx world .write (r.recAddr + 0x40) with
    | .ok l => if l.apt < 4 then s.homeWrite (l.phys (r.recAddr + 0x40)) 8 status else s
    | _ => s
  (s.modGraph slot fun g => { g with replay := none }).completion g.cmpl g.ctx 0 (how != 1)

/-- A replay whose fired chunks have all ended ends by R445. -/
def State.checkReplay (s : State) (slot : Nat) : State :=
  match s.graph? slot with
  | none => s
  | some g =>
    match g.replay with
    | none => s
    | some r =>
      if r.completed.length = g.chunks.length then s.endReplay slot g r 1
      else if r.fired.all fun i => r.completed.contains i || r.failed.any (·.1 == i) then
        if !r.failed.isEmpty then s.endReplay slot g r 2 else if r.cancelled then s.endReplay slot g r 3 else s
      else s

def State.modReplay (s : State) (slot : Nat) (f : Replay → Replay) : State :=
  s.modGraph slot fun g => { g with replay := g.replay.map f }

/-- Up to 32 bytes of a context at its homes, in pages of apertures 0 to 3 (R444), with the pieces' leaves; the cause's code otherwise. -/
def State.chunkPieces (s : State) (ctx : Nat) (k : Access) (va n : Nat) : Except Nat (List (Nat × Nat)) :=
  let world := (s.context ctx).world
  let one (va n : Nat) : Except Nat (Nat × Nat) :=
    match s.lookWalk ctx world k va with
    | .ok l => if 4 ≤ l.apt then .error Cause.permitDenied.code else if s.hostGone l va then .error Cause.pageFault.code else .ok (l.phys va, n)
    | .fault c => .error c.code
    | .miss => .error Cause.pageFault.code
  let m := min n (2 ^ 16 - va % 2 ^ 16)
  match one va m with
  | .error e => .error e
  | .ok a => if m = n then .ok [a] else match one (va + m) (n - m) with
    | .error e => .error e
    | .ok b => .ok [a, b]

def State.piecesBytes (s : State) (ps : List (Nat × Nat)) : List Byte := ps.flatMap fun p => Memory.bytes s.mem p.1 p.2

/-- How far a chunk's action comes. -/
inductive ChunkRes where
  | done
  | waits
  | fails (code : Nat)
  deriving DecidableEq, Repr

/-- `PUT` (R444): the sectors from `i` on, each one packet. -/
def State.put (s : State) (slot n ctx port src dst : Nat) : Nat → Nat → State × ChunkRes
  | 0, _ => (s, .done)
  | fuel + 1, i =>
    match s.chunkPieces ctx .read (src + 32 * i) 32, s.lookWalk ctx (s.context ctx).world .write (dst + 32 * i) with
    | .error e, _ => (s, .fails e)
    | _, .fault c => (s, .fails c.code)
    | _, .miss => (s, .fails Cause.pageFault.code)
    | .ok ps, .ok l =>
      if l.apt < 5 then (s, .fails Cause.permitDenied.code)
      else
        let bad := ps.any fun p => s.poisoned p.1 p.2
        let p := { s.aliasPacket port l (dst + 32 * i) (2 ^ 32 - 1) (leNat (s.piecesBytes ps)) with poison := if bad then 2 ^ 32 - 1 else 0 }
        if !s.packetReady (s.forum.packets.map (·.2)) p then (s, .waits)
        else match s.packetAtHome p with
          | (false, s) => (s, .fails Cause.permitDenied.code)
          | (true, s) => State.put (s.modReplay slot fun r => { r with sent := assocPut r.sent n (i + 1) }) slot n ctx port src dst fuel (i + 1)

/-- `COPY` (R444), 32 bytes at a time. -/
def State.chunkCopy (s : State) (ctx src dst : Nat) : Nat → Nat → State × ChunkRes
  | 0, _ => (s, .done)
  | fuel + 1, i =>
    match s.chunkPieces ctx .read (src + 32 * i) 32, s.chunkPieces ctx .write (dst + 32 * i) 32 with
    | .error e, _ | _, .error e => (s, .fails e)
    | .ok a, .ok b =>
      if a.any fun p => s.poisoned p.1 p.2 then (s, .fails Cause.pageFault.code)
      else
        let bs := s.piecesBytes a
        let s := (b.foldl (fun (acc : State × List Byte) p => (acc.1.homeWrite p.1 p.2 (leNat (acc.2.take p.2)), acc.2.drop p.2)) (s, bs)).1
        State.chunkCopy s ctx src dst fuel (i + 1)

/-- The action of a fired chunk. -/
def State.chunkAct (s : State) (slot n : Nat) (g : Graph) (r : Replay) (c : Chunk) : State × ChunkRes :=
  let src := nth 0 r.bases (bits c.bsel 0 3) + c.soff
  let dst := nth 0 r.bases (bits c.bsel 3 3) + c.doff
  match c.act with
  | 1 =>
    let i := assocGet 0 r.sent n
    s.put slot n g.ctx c.sport src dst (c.len / 32 - i) i
  | 2 => s.chunkCopy g.ctx src dst (c.len / 32) 0
  | 3 => (s.completion (BitVec.ofNat 64 c.soff) g.ctx 0 false, .done)
  | _ => (s.advance slot (bits c.bsel 0 3) c.len, .done)

/-- R444: a fired chunk performs its action and completes, with its `DONE` advance; or it fails. -/
def execChunkComplete (s : State) : Host.Outcome State Fault Refusal :=
  let slot := s.par.slot
  let n := s.par.n
  match s.graph? slot with
  | none => .next s
  | some g =>
    match g.replay, g.chunks[n]? with
    | some r, some c =>
      if !r.fired.contains n || r.completed.contains n || r.failed.any (·.1 == n) then .next s
      else match s.chunkAct slot n g r c with
        | (s, .waits) => .next (s.spawn .chunkComplete s.par)
        | (s, .fails e) => .next ((s.modReplay slot fun r => { r with failed := r.failed ++ [(n, e)] }).checkReplay slot)
        | (s, .done) =>
          let s := s.modReplay slot fun r => { r with completed := r.completed ++ [n] }
          let s := if c.done.testBit 3 then s.advance slot (bits c.done 0 3) 1 else s
          .next (s.checkReplay slot)
    | _, _ => .next s

/-- A write of `CGRUN` with a record (R445): none where nothing starts. -/
def State.cgstart (s : State) (v : BitVec 64) : Option State :=
  let slot := (v.extractLsb' 0 6).toNat
  let va := (v.extractLsb' 6 50).toNat * 64
  match s.graph? slot with
  | none => none
  | some g =>
    match g.replay, s.chunkPieces g.ctx .read va 128, s.chunkPieces g.ctx .write va 128 with
    | none, .ok ps, .ok _ =>
      let b := s.piecesBytes ps
      let r : Replay := ⟨va, (List.range 8).map fun i => field b (8 * i) 8, [], [], [], [], false⟩
      some ((s.modGraph slot fun g => { g with counters := List.replicate 8 0, replay := some r }).fireChunks slot)
    | _, _, _ => none

/-- A write of `CGRUN` with `REC` = 0 (R445): none where no replay runs. -/
def State.cgcancel (s : State) (slot : Nat) : Option State :=
  match (s.graph? slot).bind (·.replay) with
  | none => none
  | some _ => some ((s.modReplay slot fun r => { r with cancelled := true }).checkReplay slot)

def execCgrunStart (s : State) : Host.Outcome State Fault Refusal := s.registerEvent (s.forumWriter s.par.m) (s.cgstart s.par.v)

def execCgrunCancel (s : State) : Host.Outcome State Fault Refusal := s.registerEvent (s.forumWriter s.par.m) (s.cgcancel s.par.slot)

-- agreement rounds (R446, R447)

/-- Entry `i` of a round descriptor, and whether its words are well formed. -/
def roundEntry (s : State) (pa i : Nat) : RoundEnt × Bool :=
  let a := Memory.read s.mem (pa + 0x40 + 16 * i) 8
  let b := Memory.read s.mem (pa + 0x40 + 16 * i + 8) 8
  let n := bits a 32 9 + 1
  (⟨bits a 0 12, bits a 12 10, n, (List.range n).map (fun j => BitVec.ofNat 32 (Memory.read s.mem (b + 4 * j) 4)), .sent⟩,
   bits a 22 10 == 0 && bits a 41 23 == 0 && b % 64 == 0)

/-- A prepare goes to a participant: this package's porters, or another package (R447). -/
def State.sendPrepare (s : State) (i : Nat) (e : RoundEnt) (newver tmo : Nat) : State :=
  s.tell e.pkg (.prepare e.grp newver tmo e.members) (·.spawn .roundPrepare { n := i })

/-- A write of `ELCMD` (R446): none where it is ignored. -/
def State.elcmd (s : State) (v : BitVec 64) : Option State :=
  let pa := (v.extractLsb' 6 46).toNat * 64
  let h := Memory.bytes s.mem pa 64
  let ne := field h 0 2
  let es := (List.range (min ne 64)).map (roundEntry s pa)
  if s.forum.round.isSome || !(isNear pa || isBulk pa) || ne = 0 || 64 < ne || field h 4 4 = 0 || (h.drop 0x18).any (· != 0) || es.any (!·.2) then none
  else
    let ents := es.map (·.1)
    let r : Round := ⟨pa, field h 2 2, field h 4 4, BitVec.ofNat 64 (field h 8 8), ents, none⟩
    let s := s.modForum fun f => { f with round := some r }
    some ((List.range ents.length).foldl (fun s i =>
      match ents[i]? with | some e => s.sendPrepare i e r.newver r.tmo | none => s) s)

def execElcmd (s : State) : Host.Outcome State Fault Refusal := s.registerEvent (s.forumWriter s.par.m) (s.elcmd s.par.v)

def State.setEntry (s : State) (i : Nat) (st : RoundSt) : State :=
  s.modForum fun f => { f with round := f.round.map fun r => { r with ents := modAt r.ents i fun e => { e with st := st } } }

/-- A participant has answered. -/
def RoundSt.answered : RoundSt → Bool
  | .ready _ | .refused => true
  | _ => false

/-- The leader decides once it has every answer, or a refusal (R447). -/
def State.roundAnswered (s : State) : State :=
  match s.forum.round with
  | some r =>
    if r.decided.isNone && (r.ents.any (·.st == .refused) || r.ents.all (·.st.answered)) then s.spawnOnce .roundDecide {} else s
  | none => s

/-- The answer of a participation of this package, to its leader. -/
def State.answerRound (s : State) (src grp : Nat) (a : RoundAns) : State :=
  s.tell src (.roundAnswer grp a) fun s =>
    match s.forum.round with
    | some r =>
      let me := s.forum.pkg.toNat
      match (List.range r.ents.length).find? fun i => match r.ents[i]? with | some e => e.pkg == me && e.grp == grp && !e.st.answered | none => false with
      | some i => (s.setEntry i (match a with | .ready n => .ready n | .refuse => .refused)).roundAnswered
      | none => s
    | none => s

/-- A prepare is performed at the group's home porter: contributions are held from now on, or it refuses (R447). -/
def State.prepareHere (s : State) (src grp newver : Nat) (members : List (BitVec 32)) : State :=
  let g := s.readGroup grp
  if g.unusable || (g.ver + 1) % 2 ^ 16 ≠ newver then s.answerRound src grp .refuse
  else
    (s.modForum fun f => { f with parts := f.parts.filter (·.grp != grp) ++ [⟨src, grp, newver, members, false⟩] }).spawn .roundOldVersionTimeout
      { grp := grp }

/-- Member words as they come from another package. -/
def memberWords (b : List Byte) : List (BitVec 32) := (List.range (b.length / 4)).map fun j => BitVec.ofNat 32 (field b (4 * j) 4)

/-- R447: the prepare of an entry here; the answer of a participant elsewhere; or the prepare of another package's round. -/
def execRoundPrepare (s : State) : Host.Outcome State Fault Refusal :=
  match s.par.bytes with
  | some b =>
    .next (s.prepareHere s.par.src s.par.grp s.par.ver (memberWords b))
  | none =>
    match s.forum.round with
    | none => .next s
    | some r =>
      match r.ents[s.par.n]? with
      | none => .next s
      | some e =>
        if e.st != .sent || r.decided.isSome then .next s
        else if e.pkg = s.forum.pkg.toNat then .next ((s.setEntry s.par.n .preparing).prepareHere e.pkg e.grp r.newver e.members)
        else match s.par.round with
          | some (.ready n) => .next (s.setEntry s.par.n (.ready n)).roundAnswered
          | some .refuse => .next (s.setEntry s.par.n .refused).roundAnswered
          | none => .next s

/-- The operations of a group's old version that remain are aborted (R447): slots, spill slots, waiting packets and counts; how many. -/
def State.abortOld (s : State) (g : Group) (grp : Nat) : Nat × State :=
  let home := min g.home 50
  let mine (k : Nat × Nat × Nat) : Bool := k.1 == grp && k.2.1 == g.ver
  let c := s.count grp g.ver
  let q := s.porter home
  let any := c.n != 0 || q.slots.any (fun x => mine x.key) || q.input.any (fun p => mine (packetKey p)) || s.forum.spills.any fun x => mine x.key
  let s := s.modPorter home fun q => { q with slots := q.slots.filter (fun x => !mine x.key), marks := q.marks.filter (fun k => !mine k),
                                               input := q.input.filter fun p => !mine (packetKey p) }
  let s := s.modForum fun f => { f with spills := f.spills.filter (fun x => !mine x.key),
                                        counts := f.counts.filter fun x => !(x.grp == grp && x.ver == g.ver) }
  (if any then 1 else 0, if c.n = 0 then s else s.completion g.cmpl g.ctx (32 * g.nsec) true)

/-- R447: after `TMO` what remains of the old version is aborted, and the participant is ready; handlers that run end first. -/
def execRoundOldVersionTimeout (s : State) : Host.Outcome State Fault Refusal :=
  let grp := s.par.grp
  match s.forum.parts.find? (·.grp == grp) with
  | none => .next s
  | some x =>
    if x.ready then .next s
    else
      let g := s.readGroup grp
      if (s.porter (min g.home 50)).handlers.any (·.pkt.grp == grp) then .next (s.spawn .roundOldVersionTimeout s.par)
      else
        let (n, s) := s.abortOld g grp
        let s := s.modForum fun f => { f with parts := modWhere (·.grp == grp) (fun x => { x with ready := true }) f.parts }
        .next (s.answerRound x.src grp (.ready n))

/-- The round ends: the status word, then the completion update (R447). -/
def State.endRound (s : State) (r : Round) (committed : Bool) : State :=
  let dropped := (((r.ents.filter (·.st == .dropped)).map (·.pkg)).eraseDups).length
  let aborted := (r.ents.map fun e => match e.st with | .ready n | .committed n => n | _ => 0).sum
  let s := s.homeWrite (r.addr + 0x10) 8 ((if committed then 1 else 2) + dropped * 2 ^ 8 + aborted % 2 ^ 16 * 2 ^ 16)
  let ctx := match r.ents with | e :: _ => (s.readGroup e.grp).ctx | [] => 0
  (s.modForum fun f => { f with round := none }).completion r.cmpl ctx 0 (!committed || 0 < dropped)

/-- The members of a dropped package are absent in the other entries (R447). -/
def absentFrom (pkgs : List Nat) (m : BitVec 32) : BitVec 32 := if pkgs.contains (mPkg m) then m ||| (1#32 <<< 17) else m

/-- R447: one refusal aborts the round; otherwise the silent packages are dropped, and the others commit. -/
def execRoundDecide (s : State) : Host.Outcome State Fault Refusal :=
  match s.forum.round with
  | none => .next s
  | some r =>
    let me := s.forum.pkg.toNat
    if r.decided.isSome then .next s
    else if r.ents.any (·.st == .refused) then
      let s := r.ents.foldl (fun s e => s.tell e.pkg (.roundAbort e.grp) fun s =>
        s.modForum fun f => { f with parts := f.parts.filter fun x => !(x.src == me && x.grp == e.grp) }) s
      .next (s.endRound r false)
    else
      let silent := ((r.ents.filter fun e => !e.st.answered).map (·.pkg)).eraseDups
      let ents := r.ents.map fun e =>
        if silent.contains e.pkg then { e with st := RoundSt.dropped } else { e with members := e.members.map (absentFrom silent) }
      let r := { r with ents := ents, decided := some true }
      let s := s.modForum fun f => { f with round := some r, parts := f.parts.filter fun x => !(x.src == me && silent.contains me) }
      if ents.all (·.st == .dropped) then .next (s.endRound r true)
      else .next ((List.range ents.length).foldl (fun s i =>
        match ents[i]? with
        | some e => if e.st == .dropped then s else s.tell e.pkg (.commit e.grp r.newver e.members) (·.spawn .roundCommit { n := i })
        | none => s) s)

/-- A commit is performed here (R447): the entry in memory, the cached copies, and the packets held. -/
def State.commitHere (s : State) (grp newver : Nat) (members : List (BitVec 32)) : State :=
  let base := s.groupBase
  let mem := Memory.write (Memory.write s.mem (base + 64 * grp) 2 members.length) (base + 64 * grp + 4) 2 newver
  let mem := Memory.putBytes mem (base + 0x40000 + 0x800 * grp) (members.flatMap fun m => leBytes m.toNat 4)
  ({ s with mem := mem }.dropGroups (some grp)).modForum fun f => { f with parts := f.parts.filter (·.grp != grp) }

/-- R447: a commit of the round led here is performed, here or elsewhere; or the commit, or the abort, of another package's round comes
in. -/
def execRoundCommit (s : State) : Host.Outcome State Fault Refusal :=
  let me := s.forum.pkg.toNat
  if s.par.k ≠ 0 then
    match s.forum.parts.find? fun x => x.src == s.par.src && x.grp == s.par.grp with
    | none => .next s
    | some x =>
      let members := match s.par.bytes with | some b => memberWords b | none => x.members
      if s.par.k ≠ 1 then .next (s.modForum fun f => { f with parts := f.parts.filter (· != x) })
      else .next (if x.ready then s.commitHere x.grp x.newver members else s)
  else match s.forum.round with
    | none => .next s
    | some r =>
      match r.ents[s.par.n]?, r.decided with
      | some e, some true =>
        (match e.st with
        | .ready n =>
          let s := if e.pkg = me then s.commitHere e.grp r.newver e.members else s
          let ents := setAt r.ents s.par.n { e with st := .committed n }
          let r := { r with ents := ents }
          let s := s.modForum fun f => { f with round := some r }
          .next (if ents.all fun x => match x.st with | .committed _ | .dropped => true | _ => false then s.endRound r true else s)
        | _ => .next s)
      | _, _ => .next s

end Sys2Proof.Machine
end

