-- ==== Sys2Proof/Machine/Header.lean ====
section
/-!
DEFINITION. The header that every packet between packages carries (R460): its layout, the kinds, and the header of a request that is
outstanding.
-/
namespace Sys2Proof.Machine

open Sys2Proof

/-- The fields of the 32-byte header (R460). -/
structure Header where
  kind : Nat
  flg : Nat
  src : Nat
  dst : Nat
  seq : Nat
  rgn : Nat
  len : Nat
  opx : Nat
  addr : Nat
  mask : Nat
  tag : Nat
  deriving DecidableEq, Repr

/-- The header as it stands at the start of the payload (R460). -/
def Header.bytes (h : Header) : List Byte :=
  leBytes h.kind 1 ++ leBytes h.flg 1 ++ leBytes h.src 2 ++ leBytes h.dst 2 ++ leBytes h.seq 2 ++ leBytes h.rgn 4 ++ leBytes h.len 2 ++
  leBytes h.opx 2 ++ leBytes h.addr 8 ++ leBytes h.mask 4 ++ leBytes h.tag 4

def Header.parse (b : List Byte) : Header :=
  ⟨field b 0 1, field b 1 1, field b 2 2, field b 4 2, field b 6 2, field b 8 4, field b 12 2, field b 14 2, field b 16 8, field b 24 4, field b 28 4⟩

/-- A kind that R460 reserves: a packet that carries it is dropped and counted. -/
def Header.reserved (h : Header) : Bool := h.kind == 0 || decide (18 ≤ h.kind)

/-- `OPX` of an atomic or a reduction: its type code and its operation code (R460). -/
def opxOf (op : AtomOp) (t1 : BitVec 6) : Nat := t1.toNat + op.code * 2 ^ 8

/-- What a request says of its data: its kind, `OPX`, byte mask of a sector, and data bytes (R460). The bytes that a store sends with its mask
are those of the sector, and an atomic sends its operand, two for `.cas` (notes/assumptions/67.md). -/
def State.requestOf (s : State) : RemoteFor → Nat × Nat × Nat × Nat
  | .load _ l => (1, l.t1.toNat, 0, 0)
  | .fetch .. | .ret .. | .record .. | .next .. | .row .. => (1, 0, 0, 0)
  | .atom _ _ a => (4, opxOf a.op a.t1, 0, if a.op = .cas then 2 * a.len else a.len)
  | .sb _ e => match e.kind with
    | .store _ m _ => (3, 0, m.toNat, 32)
    | .red op t1 _ len _ => (4, opxOf op t1, 0, len)
  | .copy c id => match ((s.core c).eqcp.find? (·.id == id)).map EngCmd.kind with
    | some (EngKind.copy k _ da _ ta _ _ _ _ _ _ _ _) => match k with
      | .st => (3, 0, 0, (Fmt.of ta).w / 8)
      | .red op => (4, da.etar + op.code * 2 ^ 8, 0, (Fmt.of ta).w / 8)
      | _ => (1, 0, 0, 0)
    | _ => (1, 0, 0, 0)
  | .stage _ _ _ w => match w.red with
    | none => (7, 0, w.mask, 32)
    | some (op, t1) => (7, opxOf op t1, 0, w.len)
  | .prepare .. => (8, 0, 0, 0)
  | .apply .. => (11, 0, 0, 0)

/-- The number of the region that a request belongs to (R460, R462). -/
def State.requestRegion (s : State) : RemoteFor → Option Nat
  | .stage c slot fid _ | .prepare c slot fid | .apply c slot fid =>
    ((s.fibre? c slot fid).bind (·.region)).map fun r => regionNumber c r.rgn
  | _ => none

/-- The header of an outstanding request (R459, R460). -/
def State.requestHeader (s : State) (o : RemoteOut) : Header :=
  let k := s.requestOf o.what
  let rgn := s.requestRegion o.what
  { kind := k.1, flg := (if o.seq.isSome then 1 else 0) + (if rgn.isSome then 2 else 0), src := s.forum.pkg.toNat, dst := o.pkg,
    seq := (o.seq.getD 0) % 2 ^ 16, rgn := rgn.getD 0, len := k.2.2.2, opx := k.2.1, addr := o.pa, mask := k.2.2.1, tag := o.id % 2 ^ 32 }

/-- The kind of a message's packet, where R460 gives it one. -/
def SentMsg.packetKind : SentMsg → Option Nat
  | .answer _ (.data _) | .answer _ (.poisoned _) => some 2
  | .answer _ (.ack _) | .region _ (.ack _) | .region _ .applied => some 5
  | .answer _ (.refuse _) => some 6
  | .region _ .ready => some 10
  | .region _ (.refuse _) => some 9
  | .discard _ => some 12
  | .barrierArrival .. => some 13
  | .barrierRelease .. => some 14
  | .packet _ => some 15
  | .launchShare .. => some 16
  | .answer _ _ | .region _ _ | .shareEnded _ | .deliveryAck .. | .prepare .. | .roundAnswer .. | .commit .. | .roundAbort _ => none

end Sys2Proof.Machine
end

