-- ==== Sys2Proof/Machine/Fabric.lean ====
section
/-!
DEFINITION. The fabric (R450-R466): planes, answers to requests at other packages, export windows and the requests of peers, remote
regions, links of package barriers, and launch shares.
-/
namespace Sys2Proof.Machine

open Sys2Proof

-- remote regions of a fibre (R461-R464)

/-- An asynchronous failure of a fibre's region (R464): it rolls back, whatever it waits for. -/
def State.regionFails (s : State) (c slot fid code : Nat) : State :=
  match (s.fibre? c slot fid).bind (·.region) with
  | none => s
  | some r =>
    if r.applying then s
    else (((s.withdraw c slot fid).rollback c slot fid code).formGangs c slot [fid] (s.now c + 1)).regang c

/-- A region slot of a core that no fibre holds (R461). -/
def State.freeRegion (s : State) (c : Nat) : Option Nat :=
  (List.range 64).find? fun n => !((s.core c).teams.any fun t => t.fibres.any fun f => f.region.any (·.rgn == n))

/-- `rmt.open` in a fibre: its checkpoint needs every earlier result (R461). -/
def openLane (f : FR) (x : Ctx) (fid : Nat) (s : State) : State × LaneRes :=
  match s.fibre? x.core x.slot fid with
  | none => (s, .done)
  | some g =>
    if g.region.isSome then (s.rollback x.core x.slot fid 11, .trap { cause := .regionAbort, info := 11 })
    else match s.freeRegion x.core with
      | none => (s, .waitAgain)
      | some n =>
        if g.pend.any (·.due == .out) then (s, .waitAgain)
        else
          let pd := match f.d with | .p i => i | _ => 0
          let vs := match f.a with | .v i => i | _ => 0
          let g' := g.land fun _ => true
          let r : Region :=
            { pred := g'.pred, srstep := g'.srstep, regs := g'.regs.take 32, resume := x.pc + 12, pd := pd, vs := vs, rgn := n, staged := [],
              nstaged := 0, preparing := false, ready := [], applying := false, applied := [] }
          (s.modFibre x.core x.slot fid fun h => { ((h.land fun _ => true).setPred pd.toNat true).setReg vs.toNat 0 with region := some r }, .done)

def execRmtOpen (f : FR) (s : State) : Host.Outcome State Fault Refusal := issue (.rmtOpen f) f.h noCheck (fun x => laneFold x (openLane f)) s

/-- `rmt.commit` or `rmt.abort` without a region (R464). -/
def noRegion : LaneRes := .trap { cause := .regionAbort, info := 12, next := true }

/-- A message of a region to a target; the leaf only names the package. -/
def State.regionAsk (s : State) (pkg : Nat) (what : RemoteFor) : State :=
  s.remoteAsk ⟨pkg, 0, 2 ^ 16, 0, false, false, 4, 1, false, false, true⟩ 0 false what

/-- `rmt.commit` in a fibre (R463): the release wait, then the prepares. -/
def commitLane (x : Ctx) (fid : Nat) (s : State) : State × LaneRes :=
  match s.fibre? x.core x.slot fid with
  | none => (s, .done)
  | some g => match g.region with
    | none => (s, noRegion)
    | some r =>
      if !s.relReady x.core x.slot fid then (s.releaseWork x.core x.slot fid, .waitAgain)
      else if r.staged.isEmpty then (s.modFibre x.core x.slot fid fun h => { h with region := none }, .done)
      else
        let (id, s) := s.fresh
        let s := s.modFibre x.core x.slot fid fun h => { h with region := some { r with preparing := true }, wait := some (.remote id) }
        (((r.staged.map (·.1)).eraseDups).foldl (fun s p => s.regionAsk p (.prepare x.core x.slot fid)) s, .block)

def execRmtCommit (f : FR) (s : State) : Host.Outcome State Fault Refusal := issue (.rmtCommit f) f.h noCheck (fun x => laneFold x commitLane) s

def abortLane (x : Ctx) (fid : Nat) (s : State) : State × LaneRes :=
  match (s.fibre? x.core x.slot fid).bind (·.region) with
  | none => (s, noRegion)
  | some r => (s.rollback x.core x.slot fid 6, .jump r.resume)

def execRmtAbort (f : FR) (s : State) : Host.Outcome State Fault Refusal := issue (.rmtAbort f) f.h noCheck (fun x => laneFold x abortLane) s

/-- A target is ready: with the last, the applies set out (R463). -/
def State.regionReady (s : State) (c slot fid pkg : Nat) : State :=
  match (s.fibre? c slot fid).bind (·.region) with
  | none => s
  | some r =>
    let targets := (r.staged.map (·.1)).eraseDups
    let ready := r.ready ++ [pkg]
    let all := targets.all ready.contains
    let s := s.modFibre c slot fid fun g => { g with region := some { r with ready := ready, applying := all } }
    if all then targets.foldl (fun s p => s.regionAsk p (.apply c slot fid)) s else s

/-- A target has applied: with the last, the fibre goes on (R463). -/
def State.regionApplied (s : State) (c slot fid pkg : Nat) : State :=
  match (s.fibre? c slot fid).bind (·.region) with
  | none => s
  | some r =>
    let applied := r.applied ++ [pkg]
    if ((r.staged.map (·.1)).eraseDups).all applied.contains then
      (s.modFibre c slot fid fun g => { g with region := none }).complete c slot [fid] (s.now c + 1)
    else s.modFibre c slot fid fun g => { g with region := some { r with applied := applied } }

-- answers of other packages (R458, R460)

/-- The bytes that a fibre's open region has staged are laid over those of the home (R462). -/
def State.overlay (s : State) (c slot fid pkg pa n v : Nat) : Nat :=
  match (s.fibre? c slot fid).bind (·.region) with
  | none => v
  | some r => r.staged.foldl (fun v w =>
      if w.1 ≠ pkg then v
      else leNat ((List.range n).map fun i =>
        let at_ := pa + i
        BitVec.ofNat 8 (if w.2.1 ≤ at_ && w.2.2.1.testBit (at_ - w.2.1) then bits w.2.2.2 (8 * (at_ - w.2.1)) 8 else bits v (8 * i) 8))) v

/-- The trap of a refused access (R458): its cause, or an unreachable target, for which `INFO` bit 4 is set; poison sets bit 2 (R405). -/
def refusedTrap (va : Nat) (wr : Bool) : RemoteAns → Trap
  | .refuse x => if 32 ≤ x then { memTrap .pageFault va wr with info := if wr then 17 else 16 } else memTrap (Cause.ofCode x) va wr
  | _ => { cause := .pageFault, addr := BitVec.ofNat 64 va, info := 4 }

/-- A load's answer. -/
def State.loadAnswer (s : State) (c : Nat) (l : Load) (ans : RemoteAns) : State :=
  match ans with
  | .data v =>
    let v := s.overlay c l.slot l.fid l.leaf.tgt (l.leaf.phys l.va) (tyBytes l.t1) v
    let s := match l.acq with | some sc => s.acquire c sc | none => s
    (s.resultOf c l.slot l.fid l.id l.uni (l.value (v % 2 ^ (8 * tyBytes l.t1)))).performed c l.slot l.id [l.fid]
  | ans =>
    let s := match l.uni with | some u => s.uniDrop c u l.fid | none => s
    if (s.fibre? c l.slot l.fid).any fun f => f.wait == some (.remote l.id) || (match l.uni with | some u => f.wait == some (.uniform u) | none => false) then
      s.failWaiting c l.slot l.fid (refusedTrap l.va false ans)
    else s

/-- A returning atomic's answer: what its home held. -/
def State.remoteAtom (s : State) (c slot : Nat) (a : Atomic) (ans : RemoteAns) : State :=
  match ans with
  | .ack v | .data v =>
    s.atomAnswer c a (atomGroup a.op a.t1 a.tar a.len (v % 2 ^ (8 * a.len)) (a.lanes.map (·.2))).1
  | ans =>
    a.lanes.foldl (fun s l =>
      let s := s.modFibre c slot l.1 fun f => { f with unack := f.unack - 1 }
      let s := match a.uni with | some u => s.uniDrop c u l.1 | none => s
      if (s.fibre? c slot l.1).any fun f => f.wait == some (.remote a.id) || (match a.uni with | some u => f.wait == some (.uniform u) | none => false) then
        s.failWaiting c slot l.1 (refusedTrap a.va true ans)
      else s) s

/-- The call record of a `ret` (R149): the fibre goes on at the address it holds. -/
def State.retAnswer (s : State) (c slot fid : Nat) (d : BitVec 8) (sp : BitVec 64) (va : Nat) (ans : RemoteAns) : State :=
  let waits := match (s.fibre? c slot fid).bind (·.wait) with | some (.remote _) => true | _ => false
  if !waits then s
  else match ans with
    | .data v =>
      let (id, s) := s.fresh
      let s := s.modFibre c slot fid fun f => f.goesOn ((f.oweOperand (.v d) true sp .ready id).jump (BitVec.ofNat 56 v))
      s.formGangs c slot [fid] (s.now c + 1)
    | ans => s.failWaiting c slot fid (refusedTrap va false ans)

/-- The code that a fetch or a record read keeps of a refusal: the cause's, and 32 more for an unreachable target. -/
def refusalCode : RemoteAns → Nat
  | .refuse x => x
  | _ => Cause.pageFault.code

/-- The answer to a part of a token row (R375, R376): the bytes, or an abort of the command. -/
def State.rowAnswer (s : State) (d id va n : Nat) (ans : RemoteAns) : State :=
  s.modDisp d id fun q => match ans with
    | .data v => { q with asked := false, got := q.got ++ leBytes v n }
    | a => { q with asked := false, abort := q.abort <|> some (refusalCode a % 32, va) }

/-- What the answer to a request brings about, once the request is no longer outstanding. -/
def State.answered (s : State) (o : RemoteOut) (ans : RemoteAns) : State :=
  match o.what with
  | .load c l => s.loadAnswer c l ans
  | .fetch c ctx va n =>
    let e : IFetch := match ans with
      | .data v | .poisoned v => ⟨ctx, va, n, BitVec.ofNat 96 (v % 2 ^ (8 * n)), 0⟩
      | a => ⟨ctx, va, n, 0, refusalCode a⟩
    s.modCore c fun k => { k with ifetch := k.ifetch ++ [e] }
  | .ret c slot fid d sp va => s.retAnswer c slot fid d sp va ans
  | .record c slot fid va n =>
    let e := match ans with
      | .data v => (slot, fid, va, leBytes v n, 0)
      | a => (slot, fid, va, [], refusalCode a)
    if (s.fibre? c slot fid).isSome then s.modCore c fun k => { k with rrecs := k.rrecs ++ [e] } else s
  | .next d id _ va n => s.fireOn d id va (match ans with | .data v => some (leBytes v n) | _ => none)
  | .atom c slot a => s.remoteAtom c slot a ans
  | .sb c e =>
    match (s.core c).sb.find? (·.id == e.id) with
    | none => s
    | some e => match ans with
      | .refuse x => s.refuseEntry c e x
      | _ => s.acceptEntry c e
  | .row d id _ va n => s.rowAnswer d id va n ans
  | .copy c id => s.copyAnswer c id (match ans with | .refuse x => .refuse (if 32 ≤ x then Cause.pageFault.code else x) | a => a)
  | .stage c slot fid _ =>
    let s := s.modFibre c slot fid fun f => { f with unack := f.unack - 1 }
    match ans with
    | .refuse x => s.regionFails c slot fid (if 32 ≤ x then 4 else if x = 7 then 7 else 1)
    | _ => s
  | .prepare c slot fid =>
    match ans with
    | .refuse x => s.regionFails c slot fid (if 32 ≤ x || x = 4 then 4 else if x = 1 then 1 else 2)
    | .ready => s.regionReady c slot fid o.pkg
    | _ => s
  | .apply c slot fid => s.regionApplied c slot fid o.pkg

/-- An answer that the request can have (R460). -/
def RemoteFor.takes : RemoteFor → RemoteAns → Bool
  | .load .., .data _ | .load .., .poisoned _ | .load .., .refuse _ => true
  | .fetch .., .data _ | .fetch .., .poisoned _ | .fetch .., .refuse _ => true
  | .ret .., .data _ | .ret .., .poisoned _ | .ret .., .refuse _ => true
  | .record .., .data _ | .record .., .poisoned _ | .record .., .refuse _ => true
  | .next .., .data _ | .next .., .poisoned _ | .next .., .refuse _ => true
  | .atom .., .ack _ | .atom .., .poisoned _ | .atom .., .refuse _ => true
  | .sb .., .ack _ | .sb .., .refuse _ => true
  | .row .., .data _ | .row .., .poisoned _ | .row .., .refuse _ => true
  | .copy .., .data _ | .copy .., .ack _ | .copy .., .poisoned _ | .copy .., .refuse _ => true
  | .stage .., .ack _ | .stage .., .refuse _ => true
  | .prepare .., .ready | .prepare .., .refuse _ => true
  | .apply .., .applied => true
  | _, _ => false

def State.deadPlane (s : State) (p : Nat) : Bool := s.forum.plDead.getLsbD p

/-- An outstanding request ends with an answer. -/
def State.takeAnswer (s : State) (o : RemoteOut) (ans : RemoteAns) : State :=
  (s.modForum fun g => { g with out := g.out.filter (·.id != o.id) }).answered o ans

/-- R458: the answer to a request, over the plane that it travelled (R453). -/
def execRemoteResponse (s : State) : Host.Outcome State Fault Refusal :=
  match s.forum.out.find? (·.id == s.par.id) with
  | none => .next s
  | some o => .next (if s.deadPlane o.plane || !o.what.takes s.par.ans then s else s.takeAnswer o s.par.ans)

/-- R458: no response on any live plane within 2 ms; an apply is delivered at last (R463). -/
def execUnreachableTimeout (s : State) : Host.Outcome State Fault Refusal :=
  match s.forum.out.find? (·.id == s.par.id) with
  | none => .next s
  | some o => .next (match o.what with
    | .apply .. => s
    | _ => s.takeAnswer o (.refuse (32 + Cause.pageFault.code)))

-- planes (R453-R455)

/-- The physical plane of a logical one. -/
def mapOf (m : BitVec 8) (q : Nat) : Nat := bits m.toNat (2 * q) 2

def setMap (m : BitVec 8) (q p : Nat) : BitVec 8 :=
  BitVec.ofNat 8 (((List.range 4).map fun i => (if i = q then p else mapOf m i) * 2 ^ (2 * i)).sum)

/-- The next live plane after a plane, in ascending order, wrapping. -/
def State.nextLive (s : State) (p : Nat) : Option Nat := ([1, 2, 3].map fun i => (p + i) % 4).find? fun q => !s.deadPlane q

/-- The logical plane of an outstanding request. -/
def RemoteOut.logical (o : RemoteOut) : Nat := planeOf o.pkg o.pa

/-- The requests that wait on a dead plane, all closes being in, go to the planes that the map names now (R455). -/
def State.moveWaiting (s : State) : State :=
  let free := (s.forum.closing.filter fun e => e.2.isEmpty).map (·.1)
  let ok (q : Nat) : Bool := !s.deadPlane (mapOf s.forum.plMap q)
  s.modForum fun g =>
    { g with out := modWhere (fun o => free.contains o.plane && ok o.logical) (fun o => { o with plane := mapOf g.plMap o.logical }) g.out,
             plQsc := BitVec.ofNat 4 (maskOf ((List.range 4).filter fun q => g.plQsc.getLsbD q && !ok q)),
             closing := g.closing.filter fun e => !(e.2.isEmpty && (List.range 4).all fun q => mapOf g.plMap q != e.1) }

/-- Steps 3 and 4 of R455, once every close for the plane is in: the map is written, and its requests move. -/
def State.closePlane (s : State) (p : Nat) : State :=
  match s.forum.closing.find? (·.1 == p), s.nextLive p with
  | some e, some l =>
    if !e.2.isEmpty then s
    else
      let qs := (List.range 4).filter fun q => mapOf s.forum.plMap q == p
      (s.modForum fun g => { g with plMap := qs.foldl (fun m q => setMap m q l) g.plMap }).moveWaiting
  | _, _ => s

/-- R455: a plane is dead; regions with a staged write or a prepare outstanding on it roll back (R464). -/
def execPlaneDeath (s : State) : Host.Outcome State Fault Refusal :=
  let p := s.par.n
  if 4 ≤ p || s.deadPlane p then .next s
  else
    let lost := (s.forum.out.filter (·.plane == p)).filterMap fun o => match o.what with
      | .stage c slot fid _ | .prepare c slot fid => some (c, slot, fid)
      | _ => none
    let s := lost.eraseDups.foldl (fun s x => s.regionFails x.1 x.2.1 x.2.2 3) s
    let targets := ((s.forum.out.filter (·.plane == p)).map (·.pkg)).eraseDups
    let s := s.modForum fun g =>
      { g with plDead := g.plDead ||| (1#4 <<< p),
               plQsc := g.plQsc ||| BitVec.ofNat 4 (maskOf ((List.range 4).filter fun q => mapOf g.plMap q == p)),
               closing := g.closing ++ [(p, targets)] }
    .next (s.report.closePlane p)

/-- R455: a target's plane close: the requests it has performed are answered, and the rest are sent again. -/
def execPlaneClose (s : State) : Host.Outcome State Fault Refusal :=
  match s.forum.closing.find? fun e => e.2.contains s.par.pkg with
  | none => .next s
  | some (p, _) =>
    let s := s.par.performed.foldl (fun s x =>
      match s.forum.out.find? fun o => o.id == x.1 && o.plane == p && o.pkg == s.par.pkg with
      | some o => if o.what.takes x.2 then s.takeAnswer o x.2 else s
      | none => s) s
    let s := s.modForum fun g => { g with closing := modWhere (·.1 == p) (fun e => (e.1, e.2.filter (· != s.par.pkg))) g.closing }
    .next (s.closePlane p)

/-- R455: the plane may be used again after a write of `MAP`. -/
def execPlaneComesBack (s : State) : Host.Outcome State Fault Refusal :=
  .next (if 4 ≤ s.par.n then s else s.modForum fun g => { g with plDead := g.plDead &&& ~~~(1#4 <<< s.par.n) })

/-- A write of `PLMAP` (R455): one that names a dead plane is ignored. -/
def State.writeMap (s : State) (v : BitVec 64) : State :=
  let m := v.extractLsb' 0 8
  if (List.range 4).any fun q => s.deadPlane (mapOf m q) then s else (s.modForum fun g => { g with plMap := m }).moveWaiting

def execPlmapMapWrite (s : State) : Host.Outcome State Fault Refusal := s.registerEvent s.par.m.isSecure (some (s.writeMap s.par.v))

/-- An option that the external ports support (R9, R450). -/
def PortOption.supported : PortOption → Bool
  | .speed gbps lanes => gbps == 1600 && lanes == 8
  | .linkRetry | .creditFlow | .reliableUnordered | .senderCongestion | .aesGcm => true
  | .payload n => decide (n ≤ 4096)
  | .priorityFlow | .otherDelivery | .spraying | .otherCongestion | .semantic | .otherCipher | .other => false

/-- R450: a port trains, a failed lane replaced by a spare one (R18), or is declined for an option that is not supported and stays down. -/
def execExternalPortTraining (s : State) : Host.Outcome State Fault Refusal :=
  .next (if !s.par.offered.all PortOption.supported || 36 ≤ s.par.n then s
    else
      let s := if s.par.flag then (s.useSpare 3 s.par.n (Config.spareStock 3)).2 else s
      s.modForum fun g => { g with portsUp := setAt g.portsUp s.par.n true })

-- requests of other packages (R457, R459)

/-- The bit of `EXC` that admits a request: loads, stores, atomics and reductions. -/
def kindBit : RemoteKind → Nat
  | .load => 1
  | .store => 2
  | .atom .. => 3

/-- A window admits bytes for a kind and a group (R457). -/
def windowAdmits (a c : BitVec 64) (bit fgrp pa n : Nat) : Bool :=
  c.getLsbD 0 && c.getLsbD bit && (c.getLsbD 9 || (c.extractLsb' 10 6).toNat == fgrp) &&
  decide ((a.extractLsb' 16 36).toNat ≤ pa / 2 ^ 16) && decide ((pa + (n - 1)) / 2 ^ 16 ≤ (c.extractLsb' 16 36).toNat)

/-- The cause of a refusal, 0 for none (R457, R458). -/
def State.admission (s : State) (bit fgrp pa n : Nat) : Nat :=
  let inside (a : Nat) : Bool := isNear a || isBulk a
  if !((List.range 64).any fun i => windowAdmits (nth 0 s.forum.exa i) (nth 0 s.forum.exc i) bit fgrp pa n) ||
     !(inside pa && inside (pa + (n - 1))) then Cause.permitDenied.code
  else if s.worldRefuses false pa || s.worldRefuses false (pa + (n - 1)) then Cause.worldViolation.code
  else 0

/-- A message to another package, or the model's record of it. -/
def State.send (s : State) (pkg : Nat) (m : SentMsg) : State := s.modForum fun g => { g with sent := g.sent ++ [(pkg, m)] }

/-- An atomic or reduction of another package at its home: the fetched value. A tariff entry of its team is not known here. -/
def State.peerAtom (s : State) (op : AtomOp) (t1 : BitVec 6) (pa len data cmp : Nat) : Nat × State :=
  if op == .fadd && 16 ≤ t1.toNat then
    let (v, s) := s.free
    (Memory.read s.mem pa len, s.homeWrite pa len (v.toNat % 2 ^ (8 * len)))
  else
    let old := Memory.read s.mem pa len
    let r := atomGroup op t1 (nth 0 fixedTariff t1.toNat) len old [(BitVec.ofNat 64 data, BitVec.ofNat 64 cmp)]
    (old, s.homeWrite pa len r.2)

/-- A request of another package is performed at its home, and answered; one refused is answered so. -/
def State.servePeer (s : State) (q : RemoteReq) (cause : Nat) : State :=
  if cause ≠ 0 then s.send q.src (.answer q.tag (.refuse cause))
  else match q.kind with
    | .load =>
      let v := Memory.read s.mem q.pa q.len
      s.send q.src (.answer q.tag (if s.poisoned q.pa q.len then .poisoned v else .data v))
    | .store => (s.homeWriteMasked q.pa q.mask q.data).send q.src (.answer q.tag (.ack 0))
    | .atom op t1 =>
      if s.poisoned q.pa q.len then s.send q.src (.answer q.tag (.poisoned 0))
      else
        let r := s.peerAtom op t1 q.pa q.len q.data q.cmp
        r.2.send q.src (.answer q.tag (.ack r.1))

/-- The next SO sequence number of a source. -/
def State.nextSeq (s : State) (src : Nat) : Nat := assocGet 0 s.forum.recvSeq src

/-- A held request may be performed: its turn in the SO order of its source, no earlier one of its source on its line, and no line that a
ready region has staged (R454, R459, R463). -/
def State.peerTurn (s : State) (before : List (RemoteReq × Nat)) (q : RemoteReq) : Bool :=
  (match q.so with | some n => n == s.nextSeq q.src % 2 ^ 16 | none => true) &&
  !(before.any fun b => b.1.src == q.src && b.1.pa / 64 == q.pa / 64) && !s.lineStaged q.pa && !s.lineStaged (q.pa + (q.len - 1))

def State.servablePeer (s : State) : List (RemoteReq × Nat) → List (RemoteReq × Nat) → Option (RemoteReq × Nat)
  | _, [] => none
  | before, q :: r => if s.peerTurn before q.1 then some q else s.servablePeer (before ++ [q]) r

/-- Every held request whose turn has come is performed. -/
def State.servePeers (s : State) : Nat → State
  | 0 => s
  | n + 1 =>
    match s.servablePeer [] s.forum.reorder with
    | none => s
    | some q =>
      let s := s.modForum fun g =>
        { g with reorder := g.reorder.erase q,
                 recvSeq := if q.1.so.isSome then assocPut g.recvSeq q.1.src (assocGet 0 g.recvSeq q.1.src + 1) else g.recvSeq }
      State.servePeers (s.servePeer q.1 q.2) n

def State.serveAll (s : State) : State := s.servePeers s.forum.reorder.length

/-- R457, R459: a request of another package is admitted or refused as it arrives, and performed in its turn; a packet of a reserved kind is
dropped and counted (R460). -/
def execRemoteRequestArrival (s : State) : Host.Outcome State Fault Refusal :=
  match s.par.req with
  | none => .next (if s.par.bytes.any fun b => (Header.parse b).reserved then s.report else s)
  | some q =>
    let cause := s.admission (kindBit q.kind) q.fgrp q.pa q.len
    .next ((s.modForum fun g => { g with reorder := g.reorder ++ [(q, cause)] }).serveAll)

-- regions of other packages (R462, R463)

def State.staging? (s : State) (src rgn : Nat) : Option Staging := s.forum.staging.find? fun g => g.src == src && g.rgn == rgn

/-- A staged write is admitted (R457). -/
def State.stagedAdmission (s : State) (w : StagedReq) : Nat := s.admission (if w.red.isSome then 3 else 2) w.fgrp w.pa w.len

/-- R462: a staged write is held, or refused; 7 is the code of R464 for want of room. -/
def execStagedWrite (s : State) : Host.Outcome State Fault Refusal :=
  match s.par.staged with
  | none => .next s
  | some w =>
    let answer (a : RemoteAns) (s : State) : State := s.send w.src (.region w.rgn a)
    if s.stagedAdmission w ≠ 0 then .next (answer (.refuse 1) s)
    else match s.staging? w.src w.rgn with
      | some _ =>
        .next (answer (.ack 0) (s.modForum fun g =>
          { g with staging := modWhere (fun x => x.src == w.src && x.rgn == w.rgn) (fun x => { x with writes := x.writes ++ [w] }) g.staging }))
      | none =>
        if 2048 ≤ s.forum.staging.length then .next (answer (.refuse 7) s)
        else .next (answer (.ack 0) (s.modForum fun g => { g with staging := g.staging ++ [⟨w.src, w.rgn, w.fgrp, [w], false⟩] }))

/-- A region's staging goes, and what waited for its lines goes on. -/
def State.dropStaging (s : State) (src rgn : Nat) : State :=
  (s.modForum fun g =>
    { g with staging := g.staging.filter (fun x => !(x.src == src && x.rgn == rgn)),
             excHold := g.excHold.filter fun h => !(h.2.1 == src && h.2.2 == rgn) }).serveAll

/-- R462: no packet of the region for 10 ms; a ready region keeps its staging until its apply or discard (R463). -/
def execStagingDiscardTimeout (s : State) : Host.Outcome State Fault Refusal :=
  .next (match s.staging? s.par.src s.par.rgn with
    | some g => if g.ready then s else s.dropStaging g.src g.rgn
    | none => s)

/-- R463: ready when every staged write is still admitted; otherwise the codes of R464. -/
def execRegionPrepare (s : State) : Host.Outcome State Fault Refusal :=
  let answer (a : RemoteAns) (s : State) : State := s.send s.par.src (.region s.par.rgn a)
  match s.staging? s.par.src s.par.rgn with
  | none => .next (answer (.refuse 4) s)
  | some x =>
    if x.writes.any fun w => s.stagedAdmission w != 0 then .next (answer (.refuse 2) s)
    else .next (answer .ready (s.modForum fun g =>
      { g with staging := modWhere (fun y => y.src == x.src && y.rgn == x.rgn) (fun y => { y with ready := true }) g.staging }))

/-- One staged write performed (R463). -/
def State.applyStaged (s : State) (w : StagedReq) : State :=
  match w.red with
  | none => s.homeWriteMasked w.pa w.mask w.data
  | some (op, t1) => (s.peerAtom op t1 w.pa w.len w.data 0).2

/-- R463: the staged writes are performed in program order, as one step. -/
def execRegionApply (s : State) : Host.Outcome State Fault Refusal :=
  match s.staging? s.par.src s.par.rgn with
  | none => .next s
  | some x =>
    if !x.ready then .next s
    else .next (((x.writes.foldl (·.applyStaged ·) s).send x.src (.region x.rgn .applied)).dropStaging x.src x.rgn)

def execRegionDiscard (s : State) : Host.Outcome State Fault Refusal :=
  .next (if (s.staging? s.par.src s.par.rgn).isSome then s.dropStaging s.par.src s.par.rgn else s)

-- export windows (R457)

/-- A write of `EXC`n: the ready regions with a write that only the earlier value admits hold back the next read. -/
def State.writeExc (s : State) (n : Nat) (v : BitVec 64) : State :=
  let a := nth 0 s.forum.exa n
  let old := nth 0 s.forum.exc n
  let new := v &&& 0x000FFFFFFFFFFE0F
  let lost (w : StagedReq) : Bool :=
    let bit := if w.red.isSome then 3 else 2
    windowAdmits a old bit w.fgrp w.pa w.len && !windowAdmits a new bit w.fgrp w.pa w.len
  let hold := (s.forum.staging.filter fun g => g.ready && g.writes.any lost).map fun g => (n, g.src, g.rgn)
  s.modForum fun g => { g with exc := setAt g.exc n new, excHold := g.excHold ++ hold }

def execExcWrite (s : State) : Host.Outcome State Fault Refusal :=
  s.registerEvent (decide (s.par.n < 64) && s.forumWriter s.par.m) (some (s.writeExc s.par.n s.par.v))

/-- A read of `EXC`n may return: the requests admitted before the write have been performed, and those regions have ended. -/
def State.excSettled (s : State) (n : Nat) : Bool := !(s.forum.excHold.any (·.1 == n)) && !(s.forum.reorder.any (·.2 == 0))

-- links of package barriers and launch shares (R465, R466)

/-- A write of `PBFWD`. -/
def State.pbfwd (s : State) (v : BitVec 64) : Option State :=
  let n := (v.extractLsb' 0 8).toNat
  let b := s.pkgBar n
  if b.own != some (v.extractLsb' 48 16).toNat then none
  else some (s.setPkgBar n
    { b with parent := if v.getLsbD 16 then some ((v.extractLsb' 32 10).toNat, (v.extractLsb' 24 8).toNat) else none })

def execPbfwdWrite (s : State) : Host.Outcome State Fault Refusal := s.registerEvent (s.forumWriter s.par.m) (s.pbfwd s.par.v)

/-- The launch number of a share: that of the launch, told apart from this package's own. -/
def shareNum (src n : Nat) : Nat := n % 2 ^ 32 + 2 ^ 32 * (src + 1)

/-- R466: a share of another package's launch, or the end of a share of one of this package's. -/
def execLaunchShare (s : State) : Host.Outcome State Fault Refusal :=
  let p := s.par
  if p.flag then
    let s := s.modLaunch p.n fun l => { l with shares := l.shares.filter (· != p.src) }
    .next (match s.launchOf? p.n with
      | some l => if s.launchOver l then s.spawnOnce .launchEnd { n := l.num } else s
      | none => s)
  else
    let r := LaunchRec.parse (p.bytes.getD [])
    let world := p.k = 1
    let refuse : State := s.report.tell p.src (.shareEnded p.n) id
    if !(s.contexts.any fun c => c.num == p.ctx && c.world == world) || !r.wellFormed || 8 ≤ p.die || (s.launchOf? (shareNum p.src p.n)).isSome then
      .next refuse
    else match s.barrierBases r p.die with
      | none => .next refuse
      | some bases => .next (s.acceptLaunch (shareNum p.src p.n) p.die p.ctx p.prio world r 0 [] (some p.src) [] bases)

end Sys2Proof.Machine
end

