-- ==== Sys2Proof/Machine/Matrix.lean ====
section
/-!
DEFINITION. The matrix unit and the gather unit (R230-R239): the issue of their commands, and the steps that perform them.
-/
namespace Sys2Proof.Machine

open Sys2Proof

-- issue

/-- An operand tensor's element entry (R231). -/
def mxElemOk (e : Fmt) : Bool := decide (e.cls ≤ 1) && (e.w == 4 || e.w == 6 || e.w == 8 || e.w == 16 || e.w == 32)

/-- A matrix command enters its queues: `eq.mx`, and `eq.gx` where `g` says so (R199, R234). -/
def mxPlace (g : Bool) (kind : State → Team → EngKind) (event : Instr) (x : Ctx) (s : State) : State × List (Nat × LaneRes) :=
  match x.act, x.team s with
  | [], _ | _, none => (s, [])
  | fid :: _, some t =>
    if !((s.core x.core).eqRoom 0 && (!g || (s.core x.core).eqRoom 2)) then (s, x.wait)
    else
      let (id, s) := s.fresh
      let e := EngCmd.fresh id x.slot fid x.pc (kind s t)
      let s := s.modCore x.core fun k => { k with eqmx := k.eqmx ++ [e], eqgx := if g then k.eqgx ++ [e] else k.eqgx }
      let s := s.spawn event { core := x.core, id := id }
      (if g then s.spawn .gatherRowsFetch { core := x.core, id := id } else s, [])

/-- R236. -/
def execMxzero (f : FE) (s : State) : Host.Outcome State Fault Refusal :=
  issue (.mxzero f) f.h noCheck (mxPlace false (fun _ _ => .mxzero f.acc.toNat) .mxCommandComplete) s

/-- Check 9 of `mxloop` (R231). -/
def mxloopCheck (f : FE) : Ctx → State → List (Nat × Trap) :=
  engineCheck [f.tda.toNat, f.tdb.toNat]
    (fun t =>
      let da := t.desc f.tda.toNat
      let db := t.desc f.tdb.toNat
      let ea := Fmt.of (t.tar da.etar)
      let eb := Fmt.of (t.tar db.etar)
      [(f.t1.toNat, fun _ => f.t1 == 0 || f.t1 == 6), (da.etar, mxElemOk)] ++ scaleReq t da ++ [(db.etar, mxElemOk)] ++ scaleReq t db ++
      [(f.t1.toNat, fun _ => f.t1 == 0 || (ea.cls == 1 && eb.cls == 1 && ea.bsk == 0 && eb.bsk == 0 && !f.ev.getLsbD 0))])
    (fun _ => [(f.tda.toNat, (·.spc)), (f.tdb.toNat, (·.spc))])

/-- What `mxloop` captures (R227, R234). -/
def mxloopKind (f : FE) (g : Bool) (x : Ctx) (s : State) (t : Team) : EngKind :=
  let da := t.desc f.tda.toNat
  let db := t.desc f.tdb.toNat
  let ts := if f.ev.getLsbD 0 then x.rdU s true f.b else 0x3F8000003F800000
  .mxloop f.acc.toNat (f.t1 == 0) (f.ev.getLsbD 1) da db (t.tar da.etar) (t.tar db.etar) (t.tar da.star) (t.tar db.star)
    ((x.rdU s false f.d).setWidth 32) ((x.rdU s false f.a).setWidth 32) f.ks.toNat (ts.extractLsb' 0 32) (ts.extractLsb' 32 32)
    (if g then some (nth [] t.rowLists f.acc.toNat) else none)

/-- R234. -/
def mxloopBody (f : FE) (g : Bool) (x : Ctx) (s : State) : State × List (Nat × LaneRes) :=
  if s.tdHeld x.core x.slot [f.tda.toNat, f.tdb.toNat] then (s, x.act.map (·, .retry))
  else mxPlace g (fun _ t => mxloopKind f g x s t) .mxKstep x s

def execMxloop (f : FE) (s : State) : Host.Outcome State Fault Refusal := issue (.mxloop f) f.h (mxloopCheck f) (mxloopBody f false) s
def execMxloopG (f : FE) (s : State) : Host.Outcome State Fault Refusal := issue (.mxloopG f) f.h (mxloopCheck f) (mxloopBody f true) s

/-- R235: the row list of the tile, from the gang's lanes. -/
def execGxrows (f : FE) (s : State) : Host.Outcome State Fault Refusal :=
  issue (.gxrows f) f.h noCheck (fun x s =>
    match x.act, x.team s with
    | [], _ | _, none => (s, [])
    | _, some t =>
      let byLane := x.act.filterMap fun fid => (t.fibre? fid).map fun g => (g.lane, (x.rd s fid false f.a).setWidth 32)
      let rows := (List.range 32).map fun l => assocGet 0xFFFFFFFF byLane l
      (s.modTeam x.core x.slot fun t => { t with rowLists := setAt t.rowLists f.acc.toNat rows }, [])) s

/-- R237. -/
def execMxwait (f : FE) (s : State) : Host.Outcome State Fault Refusal :=
  issue (.mxwait f) f.h noCheck (fun x s =>
    let acc := if f.ev.getLsbD 0 then none else some f.acc.toNat
    let rd := f.ev.getLsbD 1
    if !(s.core x.core).matrixOpen x.slot s.uid acc rd then (s, [])
    else
      (s.modTeam x.core x.slot fun t =>
        { t with fibres := modWhere (fun g => x.act.contains g.fid) (fun g => { g with wait := some (.matrix s.uid acc rd) }) t.fibres },
        x.act.map (·, .block))) s

/-- Check 9 of a drain (R231, R239). -/
def drainCheck (f : FE) (q : Bool) (x : Ctx) (s : State) : List (Nat × Trap) :=
  let acc : Nat × (Fmt → Bool) := (f.t1.toNat, fun _ => f.t1 == 0 || f.t1 == 6)
  let tars (t : Team) : List (Nat × (Fmt → Bool)) :=
    let dd := t.desc f.tda.toNat
    let dp := t.desc f.tdb.toNat
    if q then [acc, (dd.etar, fun e => decide (e.cls ≤ 1) && decide (e.w ≤ 32))] ++ scaleReq t dd ++
        [(dp.etar, fun _ => (t.tar dp.etar).extractLsb' 0 38 == (t.tar 0).extractLsb' 0 38)]
    else [acc, (dd.etar, (·.w == 32))]
  let n0 := bits (x.rdU s false f.a).toNat 16 16
  let descs (t : Team) : List (Nat × (Desc → Bool)) :=
    let b := tarBlock (t.tar (t.desc f.tda.toNat).etar)
    (f.tda.toNat, fun d => d.spc && !(q && b != 0 && n0 % b != 0)) :: (if q then [(f.tdb.toNat, (·.spc))] else [])
  engineCheck (if q then [f.tda.toNat, f.tdb.toNat] else [f.tda.toNat]) tars descs x s

/-- What a drain captures (R227, R238, R239). -/
def drainKind (f : FE) (q : Bool) (x : Ctx) (s : State) (t : Team) : EngKind :=
  let dd := t.desc f.tda.toNat
  let sr := match x.act.head?.bind t.fibre? with | some g => g.srstep | none => 0
  .mxdrain f.acc.toNat (f.t1 == 0) q f.ev.toNat dd (if q then t.desc f.tdb.toNat else Desc.of 0) (t.tar dd.etar) (t.tar dd.star)
    ((x.rdU s false f.a).setWidth 32) ((x.rdU s false f.d).setWidth 32) sr
    (match f.b with | .b n => some n.toNat | _ => none)

def drainBody (f : FE) (q : Bool) (x : Ctx) (s : State) : State × List (Nat × LaneRes) :=
  if s.tdHeld x.core x.slot (if q then [f.tda.toNat, f.tdb.toNat] else [f.tda.toNat]) then (s, x.act.map (·, .retry))
  else
    let r := mxPlace false (fun _ t => drainKind f q x s t) .mxDrainRun x s
    -- R82, R239: a `.sr` drain advances `SRSTEP` of the issuing fibre
    if q && f.ev == 4 && r.2.isEmpty && !x.act.isEmpty then (r.1.modFibre x.core x.slot (x.act.headD 0) fun g => { g with srstep := g.srstep + 1 }, r.2) else r

def execMxdrain (f : FE) (s : State) : Host.Outcome State Fault Refusal := issue (.mxdrain f) f.h (drainCheck f false) (drainBody f false) s
def execMxdrainQ (f : FE) (s : State) : Host.Outcome State Fault Refusal := issue (.mxdrainQ f) f.h (drainCheck f true) (drainBody f true) s

-- the steps

/-- A matrix command may act: it may begin, and every earlier command on its tile has completed (R199, R233). -/
def Core.mxReady (k : Core) (e : EngCmd) : Bool :=
  k.mayBegin 0 e.id && !((k.eqmx.takeWhile (·.id != e.id)).any fun x => x.slot == e.slot && x.kind.acc? == e.kind.acc? && !x.moved)

/-- An element of an operand block: its code and scale code; none where it reads zero. -/
abbrev MxElem := Option (Nat × Nat)

/-- 32 elements of a row from reduction index `k` (R231, R232). -/
def State.mxRow (s : State) (c : Nat) (d : Desc) (e : Fmt) (r k : Nat) : List MxElem :=
  (List.range 32).map fun i =>
    if r < d.sz 1 && k + i < d.sz 0 then
      let p := d.elemPos e.w [k + i, r, 0, 0, 0]
      some (s.engBits c p.1 p.2 e.w, if e.bsk = 0 then 0 else s.engByte c (d.scalePos [k + i, r, 0, 0, 0]))
    else none

/-- The bytes that such a row reads. -/
def rowBytes (d : Desc) (e : Fmt) (r k : Nat) : List (Nat × Nat) :=
  if r < d.sz 1 && k < d.sz 0 then
    let last := min (k + 31) (d.sz 0 - 1)
    let p := d.elemPos e.w [last, r, 0, 0, 0]
    ((d.elemPos e.w [k, r, 0, 0, 0]).1, p.1 + (p.2 + e.w + 7) / 8) ::
      (if e.bsk = 0 then [] else [(d.scalePos [k, r, 0, 0, 0], d.scalePos [last, r, 0, 0, 0] + 1)])
  else []

/-- `Val` of R85 and R232, with its count of flushes. DESIGN CHOICE: an element outside `SIZE` is +0 whatever the tensor scale is, an infinity
or NaN included (notes/assumptions/64.md). -/
def elemVal (e sc : Fmt) (t : Val) (x : MxElem) : Val × Cnt :=
  match x with
  | none => (.fin false 0 1, .zero)
  | some (code, scale) =>
    let v := e.decodeIn code
    ((if e.bsk = 0 then v.1 else v.1.mul (sc.decode scale)).mul t, v.2)

/-- An element is a NaN operand (R88): its code, its scale code or the tensor scale is NaN. -/
def elemNan (e sc : Fmt) (t : Val) (x : MxElem) : Bool :=
  match x with
  | none => false
  | some (code, scale) => (e.decode code).isNan || (e.bsk != 0 && (sc.decode scale).isNan) || t.isNan

/-- A value of an integer entry. -/
def Val.toInt : Val → Int
  | .fin s n d => if s then -((n / d : Nat) : Int) else (n / d : Nat)
  | _ => 0

/-- Tile word (i, j) of `a`N. -/
def Team.tile (t : Team) (n i : Nat) : BitVec 32 := sparseGet 0 t.tiles (1024 * n + i)

def Team.setTile (t : Team) (n i : Nat) (v : BitVec 32) : Team := { t with tiles := sparsePut 0 t.tiles (1024 * n + i) v }

/-- One word of `KStep` (R232): the new word, its counts, and whether its result is NaN from operands that are not; `nan` says that an
operand of the rows is NaN (R249). -/
def kstepWord (f32 sat : Bool) (w : BitVec 32) (nan : Bool) (va vb : List Val) : BitVec 32 × Cnt × Bool :=
  let S := (va.zip vb).foldl (fun (S : Val) p => S.add (p.1.mul p.2) 0) (.fin false 0 1)
  if f32 then
    let old := fmtF32.decode w.toNat
    let r := fmtF32.encode (old.add S 0) 0 0
    (BitVec.ofNat 32 r.1, r.2, (fmtF32.decode r.1).isNan && !old.isNan && !nan)
  else
    let x := w.toInt + S.toInt
    let lo : Int := -2 ^ 31
    let hi : Int := 2 ^ 31 - 1
    if sat && (decide (x < lo) || decide (hi < x)) then (BitVec.ofInt 32 (clampInt lo hi x), ⟨0, 0, 1, 0⟩, false)
    else (BitVec.ofInt 32 x, .zero, false)

/-- The codes of the pair at the lowest k whose product is not finite (R249). -/
def kstepOps (ra rb : List MxElem) (va vb : List Val) : BitVec 64 :=
  let finite (v : Val) : Bool := match v with | .fin .. => true | _ => false
  let k := ((List.range 32).find? fun i => !finite ((nth .nan va i).mul (nth .nan vb i))).getD 0
  let code (r : List MxElem) : Nat := match nth none r k with | some x => x.1 | none => 0
  BitVec.ofNat 64 (code ra + code rb * 2 ^ 32)

/-- The operands of an `mxloop` in its k-step: the rows of A and of B. -/
def State.kstepBlocks (s : State) (c : Nat) (e : EngCmd) : EngKind → List (List MxElem) × List (List MxElem)
  | .mxloop _ _ _ da db ta tb _ _ k0 mn _ _ _ _ =>
    let k := k0.toNat + 32 * e.prog
    let a := match e.latch with
      | some l => (List.range 32).map fun i => (l.drop (32 * i)).take 32
      | none => (List.range 32).map fun i => s.mxRow c da (Fmt.of ta) (bits mn.toNat 0 16 + i) k
    (a, (List.range 32).map fun j => s.mxRow c db (Fmt.of tb) (bits mn.toNat 16 16 + j) k)
  | _ => ([], [])

/-- `KStep` of R232 on the tile of a command. -/
def State.kstep (s : State) (c : Nat) (e : EngCmd) : State :=
  match e.kind, s.team? c e.slot with
  | .mxloop n f32 sat _ _ ta tb sa sb _ _ _ tsa tsb _, some t =>
    let (ra, rb) := s.kstepBlocks c e e.kind
    let vals (f sc : BitVec 64) (ts : BitVec 32) (rows : List (List MxElem)) : List (List (Val × Cnt)) :=
      rows.map fun r => r.map (elemVal (Fmt.of f) (Fmt.of sc) (fmtF32.decode ts.toNat))
    let va := vals ta sa tsa ra
    let vb := vals tb sb tsb rb
    let nans (f sc : BitVec 64) (ts : BitVec 32) (rows : List (List MxElem)) : List Bool :=
      rows.map fun r => r.any (elemNan (Fmt.of f) (Fmt.of sc) (fmtF32.decode ts.toNat))
    let na := nans ta sa tsa ra
    let nb := nans tb sb tsb rb
    let flushed := ((va ++ vb).flatten).foldl (fun n v => n.add v.2) Cnt.zero
    let row (v : List (List (Val × Cnt))) (i : Nat) : List Val := (nth [] v i).map (·.1)
    let ws := (List.range 1024).map fun i => (i, kstepWord f32 sat (t.tile n i) (nth false na (i / 32) || nth false nb (i % 32)) (row va (i / 32)) (row vb (i % 32)))
    let cnt := ws.foldl (fun k w => k.add w.2.2.1) flushed
    let s := s.modTeam c e.slot fun t => (ws.foldl (fun t w => t.setTile n w.1 w.2.1) t).count 1 cnt
    match ws.find? (·.2.2.2) with
    | some w => s.engineNan c e 0 1 w.1 0 (kstepOps (nth [] ra (w.1 / 32)) (nth [] rb (w.1 % 32)) (row va (w.1 / 32)) (row vb (w.1 % 32)))
    | none => s
  | _, _ => s

/-- The bytes that a k-step reads. -/
def kstepBytes (e : EngCmd) : List (Nat × Nat) :=
  match e.kind with
  | .mxloop _ _ _ da db ta tb _ _ k0 mn _ _ _ rows =>
    let k := k0.toNat + 32 * e.prog
    (if rows.isSome then [] else (List.range 32).flatMap fun i => rowBytes da (Fmt.of ta) (bits mn.toNat 0 16 + i) k) ++
    (List.range 32).flatMap fun j => rowBytes db (Fmt.of tb) (bits mn.toNat 16 16 + j) k
  | _ => []

/-- R233: a command performs its next k-step once it may act, its operands are not held (R186, R228), and its latch is full (R235). -/
def execMxKstep (s : State) : Host.Outcome State Fault Refusal :=
  let c := s.par.core
  match (s.core c).cmd? 0 s.par.id with
  | none => .next s
  | some e =>
    match e.kind with
    | .mxloop _ _ _ _ _ _ _ _ _ _ _ ks _ _ rows =>
      if e.readAll then .next s
      else if !(s.core c).mxReady e || (rows.isSome && e.latch.isNone) || (kstepBytes e).any (fun b => s.engHeld c e.id e.id b.1 b.2) then
        .next (s.spawn .mxKstep s.par)
      else
        let all := e.prog + 1 == ks
        let s := (s.kstep c e).modCmd c e.id fun q => { q with prog := q.prog + 1, latch := none, readAll := all }
        let s := if all then s.spawn .mxCommandComplete s.par else s.spawn .mxKstep s.par
        .next ((if rows.isSome && !all then s.spawn .gatherRowsFetch s.par else s).engineWake c)
    | _ => .next s

/-- R235: the listed rows of the next k-step come into the operand latch, once the command may begin in `eq.gx` and no fence before it in
`eq.mx` bars it (R246). -/
def execGatherRowsFetch (s : State) : Host.Outcome State Fault Refusal :=
  let c := s.par.core
  match (s.core c).cmd? 2 s.par.id, (s.core c).cmd? 0 s.par.id with
  | some g, some e =>
    match e.kind with
    | .mxloop _ _ _ da _ ta _ _ _ k0 _ _ _ _ (some rows) =>
      if e.readAll || e.latch.isSome then .next s
      else
        let k := k0.toNat + 32 * e.prog
        let f := Fmt.of ta
        let ranges := rows.flatMap fun r => rowBytes da f r.toNat k
        let fenced := ((s.core c).eqmx.takeWhile (·.id != e.id)).any (·.kind.isFence)
        if !(s.core c).mayBegin 2 g.id || fenced || ranges.any (fun b => s.engHeld c e.id e.id b.1 b.2) then .next (s.spawn .gatherRowsFetch s.par)
        else
          let blk := rows.flatMap fun r => s.mxRow c da f r.toNat k
          .next (s.modCmd c e.id fun q => { q with latch := some blk })
    | _ => .next s
  | _, _ => .next s

-- drains

/-- A drained element: its tile index, its code; and, where a block gives it, a scale code at a byte. -/
structure Drained where
  codes : List (Nat × Nat)
  scales : List (Nat × Nat)
  cnt : Cnt
  /-- the first element whose NaN no operand had: tile index, kind, codes -/
  nan : Option (Nat × Nat × BitVec 64)

/-- The elements of a drain that lie within the destination (R239). -/
def drainKeep (dd : Desc) (mn : BitVec 32) : List Nat :=
  (List.range 1024).filter fun i => decide (bits mn.toNat 16 16 + i % 32 < dd.sz 0) && decide (bits mn.toNat 0 16 + i / 32 < dd.sz 1)

/-- `DrainQ` of R239 on the elements kept, with the coordinates of R82. -/
def State.drainQ (s : State) (c : Nat) (t : Team) (e : EngCmd) (acc : Nat) (f32 : Bool) (mode : Nat) (dd dp : Desc) (td : BitVec 64)
    (mn tscale : BitVec 32) (srstep : BitVec 16) : Drained :=
  let n0 := bits mn.toNat 16 16
  let m0 := bits mn.toNat 0 16
  let E := Fmt.of td
  let T := fmtF32.decode tscale.toNat
  let par (row j : Nat) : Nat :=
    if n0 + j < dp.sz 0 && row < dp.sz 1 then
      let p := dp.elemPos 32 [n0 + j, row, 0, 0, 0]
      s.engBits c p.1 p.2 32
    else 0
  let word (i : Nat) : BitVec 32 := t.tile acc i
  let x (i : Nat) : Val := if f32 then fmtF32.decode (word i).toNat else .fin (decide ((word i).toInt < 0)) (word i).toInt.natAbs 1
  let mul (i : Nat) : Val := fmtF32.decode (par 0 (i % 32))
  let bias (i : Nat) : Val := fmtF32.decode (par 1 (i % 32))
  let v (i : Nat) : Val := ((x i).mul (mul i)).add (bias i) mode
  let sr (i : Nat) : Nat := srBits t.srseed (BitVec.ofNat 32 (srstep.toNat * 2 ^ 16 + e.fid % 64 * 2 ^ 10 + i))
  let clean (i : Nat) : Bool := !(x i).isNan && !(mul i).isNan && !(bias i).isNan && !T.isNan
  let ops (i : Nat) : BitVec 64 := BitVec.ofNat 64 ((word i).toNat + par 0 (i % 32) * 2 ^ 32)
  let invalid (i : Nat) : Bool := ((v i).div T).isNan
  let keep := drainKeep dd mn
  if E.bsk = 0 then
    let rs := keep.map fun i => (i, E.encode ((v i).div T) mode (sr i))
    let bad := rs.find? fun r => clean r.1 && (E.decode r.2.1).isNan
    ⟨rs.map fun r => (r.1, r.2.1), [], rs.foldl (fun k r => k.add r.2.2) .zero,
      bad.map fun r => (r.1, if invalid r.1 then 0 else 1, ops r.1)⟩
  else
    let b := tarBlock td
    let blocks := (List.range (1024 / b)).filterMap fun n =>
      match keep.filter fun i => i / b == n with
      | [] => none
      | is =>
        let q := quantBlock E (E.bsk == 2) (is.map v) T mode (is.map sr)
        let pos := dd.scalePos [n0 + is.headD 0 % 32, m0 + is.headD 0 / 32, 0, 0, 0]
        let bad := if is.all clean && q.2.1.any (fun k => (E.decode k).isNan) then
            match is.find? invalid with
            | some i => some (i, 0, ops i)
            | none => ((is.zip q.2.1).find? fun p => (E.decode p.2).isNan).map fun p => (p.1, 1, ops p.1)
          else none
        some (Drained.mk (is.zip q.2.1) [(pos, q.1)] q.2.2 bad)
    let nans := sortBy (·.1) (blocks.filterMap (·.nan))
    ⟨blocks.flatMap (·.codes), blocks.flatMap (·.scales), blocks.foldl (fun k d => k.add d.cnt) .zero, nans.head?⟩

/-- The bytes that a drain may touch: its destination rows with their scales, and its parameters. -/
def drainBytes (q : Bool) (dd dp : Desc) (td : BitVec 64) (mn : BitVec 32) : List (Nat × Nat) :=
  let n0 := bits mn.toNat 16 16
  let m0 := bits mn.toNat 0 16
  ((List.range 32).flatMap fun i => rowBytes dd (Fmt.of td) (m0 + i) n0) ++
  (if q then rowBytes dp fmtF32 0 n0 ++ rowBytes dp fmtF32 1 n0 else [])

/-- R239: a drain writes its tile. -/
def execMxDrainRun (s : State) : Host.Outcome State Fault Refusal :=
  let c := s.par.core
  match (s.core c).cmd? 0 s.par.id with
  | none => .next s
  | some e =>
    match e.kind, s.team? c e.slot with
    | .mxdrain acc f32 q mode dd dp td _ mn ts srstep _, some t =>
      if e.moved then .next s
      else if !(s.core c).mxReady e || (drainBytes q dd dp td mn).any (fun b => s.engHeld c e.id e.id b.1 b.2) then
        .next (s.spawn .mxDrainRun s.par)
      else
        let E := Fmt.of td
        let r : Drained := if q then s.drainQ c t e acc f32 mode dd dp td mn ts srstep
          else ⟨(drainKeep dd mn).map fun i => (i, (t.tile acc i).toNat), [], .zero, none⟩
        let s := r.codes.foldl (fun s k =>
          let p := dd.elemPos E.w [bits mn.toNat 16 16 + k.1 % 32, bits mn.toNat 0 16 + k.1 / 32, 0, 0, 0]
          s.putEngBits c p.1 p.2 E.w k.2) s
        let s := r.scales.foldl (fun s k => s.putEngBits c k.1 0 8 k.2) s
        let s := s.modTeam c e.slot (·.count 1 r.cnt)
        let s := match r.nan with
          | some (i, k, ops) => s.engineNan c e dd.etar 1 i k ops
          | none => s
        let s := s.modCmd c e.id fun q => { q with moved := true, readAll := true }
        .next ((s.spawn .mxCommandComplete s.par).engineWake c)
    | _, _ => .next s

/-- R233: a command completes: an `mxzero` clears its tile, a drain performs its completion action (R239). -/
def execMxCommandComplete (s : State) : Host.Outcome State Fault Refusal :=
  let c := s.par.core
  match (s.core c).cmd? 0 s.par.id with
  | none => .next s
  | some e =>
    match e.kind with
    | .mxzero n =>
      if !(s.core c).mxReady e then .next (s.spawn .mxCommandComplete s.par)
      else
        let s := s.modTeam c e.slot fun t => { t with tiles := t.tiles.filter fun w => w.1 / 1024 != n }
        .next (s.finishCmd c e.id)
    | .mxloop .. => if e.readAll then .next (s.finishCmd c e.id) else .next s
    | .mxdrain _ _ _ _ _ _ td _ _ _ _ bar =>
      if e.moved then
        let s := s.finishCmd c e.id
        .next (match bar with | some n => s.arrive c e.slot n (1024 * (Fmt.of td).w / 8) none | none => s)
      else .next s
    | _ => .next s

end Sys2Proof.Machine
end

