-- ==== Sys2Proof/Machine/System.lean ====
section
/-!
DEFINITION. Registers: `sysrd` and `syswr`, the system window of a master, and unassigned opcodes (R65, R278-R280, R299, R342, R359, R390,
R400-R402, R416, R429, R441, R451).
-/
namespace Sys2Proof.Machine

open Sys2Proof

-- team-context registers (R278, R279, R299)

/-- `DBGSTS` (R299). -/
def Team.dbgsts (t : Team) : Nat :=
  (if t.dbg.err then 2 ^ 16 else 0) +
  (t.fibres.filter fun f => match f.run with | .halted | .held _ => true | _ => false).length % 2 ^ 16

/-- A read of a team-context register; one that may only be written reads zero. -/
def State.readTeamReg (s : State) (t : Team) (n : Nat) : BitVec 64 :=
  if n = 0x00 then BitVec.ofNat 64 (s.ctlw t)
  else if n = 0x01 then t.tvec
  else if n = 0x02 then t.tmask
  else if n = 0x03 then t.srseed
  else if n = 0x04 then BitVec.ofNat 64 t.frbase
  else if n = 0x05 then t.fmbox
  else if n = 0x06 then (s.context t.ctx).ptroot
  else if n = 0x07 then BitVec.ofNat 64 t.ctxid
  else if 0x10 ≤ n && n ≤ 0x13 then nth 0 t.dbg.bpa (n - 0x10)
  else if 0x14 ≤ n && n ≤ 0x17 then nth 0 t.dbg.wpa (n - 0x14)
  else if 0x18 ≤ n && n ≤ 0x1B then nth 0 t.dbg.wpc (n - 0x18)
  else if n = 0x1C then t.dbg.ctl
  else if n = 0x1E then BitVec.ofNat 64 t.dbgsts
  else 0

/-- What a read changes: `ERR` of `DBGSTS` is cleared (R299). -/
def State.afterTeamRead (s : State) (c slot n : Nat) : State :=
  if n = 0x1E then s.modTeam c slot fun t => { t with dbg := { t.dbg with err := false } } else s

/-- A write of `PTROOT`: one value for the context (R278). -/
def State.setRoot (s : State) (ctx : Nat) (v : BitVec 64) : State :=
  let x := { s.context ctx with ptroot := v &&& 0x000FFFFFFFFE0000 }
  { s with contexts := s.contexts.filter (·.num != ctx) ++ [x] }

/-- A write of a team-context register at a privilege; a register that is read-only there keeps its value. -/
def State.writeTeamReg (s : State) (c slot : Nat) (sup : Bool) (n : Nat) (v : BitVec 64) : State :=
  let set (f : Team → Team) : State := s.modTeam c slot f
  let dbg (f : Debug → Debug) : State := if sup then set fun t => { t with dbg := f t.dbg } else s
  match s.team? c slot with
  | none => s
  | some t =>
    if n = 0x00 then set fun t => { t with sbchk := v.getLsbD 0, nantrap := v.getLsbD 1, nanseen := t.nanseen && !v.getLsbD 2 }
    else if n = 0x01 then set fun t => { t with tvec := v &&& 0x00FFFFFFFFFFFFFC }
    else if n = 0x02 then set fun t => { t with tmask := v &&& 0xFAFFFE }
    else if n = 0x03 then set fun t => { t with srseed := v }
    else if n = 0x05 then (if sup then set fun t => { t with fmbox := v } else s)
    else if n = 0x06 then (if sup then s.setRoot t.ctx v else s)
    else if n = 0x08 then (if sup && v == 1 then s.terminateByCommand c slot else s)
    else if 0x10 ≤ n && n ≤ 0x13 then dbg fun d => { d with bpa := setAt d.bpa (n - 0x10) (v &&& 0x00FFFFFFFFFFFFFD) }
    else if 0x14 ≤ n && n ≤ 0x17 then dbg fun d => { d with wpa := setAt d.wpa (n - 0x14) v }
    else if 0x18 ≤ n && n ≤ 0x1B then dbg fun d => { d with wpc := setAt d.wpc (n - 0x18) (v &&& 0x3F) }
    else if n = 0x1C then dbg fun d => { d with ctl := v &&& 3 }
    else if n = 0x1D then (if sup then s.debugCommand c slot v else s)
    else s

-- die registers (R342, R359, R390)

/-- Occupancy of the continuation queues. -/
def Die.cqsts (d : Die) : Nat := ((List.range 4).map fun i => min (nth [] d.queues i).length 0xFFFF * 2 ^ (16 * i)).sum

/-- A register of the die walker, the continuation queues or the mailbox rings. -/
def dieReg (n : Nat) : Bool := (decide (0x20 ≤ n) && decide (n ≤ 0x22)) || (decide (0x30 ≤ n) && decide (n ≤ 0x32)) || (decide (0x40 ≤ n) && decide (n ≤ 0x4F))

def State.readDieReg (s : State) (d n : Nat) : BitVec 64 :=
  if n = 0x22 then (s.die d).invDone ++ (s.die d).invIssued
  else if n = 0x30 then (s.die d).cqbase
  else if n = 0x31 then (s.die d).cqlog
  else if n = 0x32 then BitVec.ofNat 64 (s.die d).cqsts
  else if 0x40 ≤ n && n ≤ 0x4F then nth 0 (if n % 2 = 0 then (s.die d).kdown else (s.die d).kup) ((n - 0x40) / 2)
  else 0

/-- A write of a die register; the queue registers keep their values while a queue holds a record (R359). -/
def State.writeDieReg (s : State) (d n : Nat) (v : BitVec 64) : State :=
  let busy := (s.die d).queues.any fun q => !q.isEmpty
  let ring := v &&& 0x000FFFFFFFFFFFC0
  if n = 0x20 then s.modDie d fun y => { y with invaddr := v &&& 0x00FFFFFFFFFF0000 }
  else if n = 0x21 then s.invalidate d v
  else if n = 0x30 then (if busy then s else s.modDie d fun y => { y with cqbase := v &&& 0x000FFFFFFFF00000 })
  else if n = 0x31 then
    (if busy || v.toNat < 10 || 16 < v.toNat then s else (s.modDie d fun y => { y with cqlog := v }).kick)
  else if 0x40 ≤ n && n ≤ 0x4F then
    s.modDie d fun y => if n % 2 = 0 then { y with kdown := setAt y.kdown ((n - 0x40) / 2) ring } else { y with kup := setAt y.kup ((n - 0x40) / 2) ring }
  else s

-- `sysrd` and `syswr` (R280)

/-- The selector: register number, whether another slot is named, and that slot. -/
def sysSel (xf : BitVec 16) : Nat × Bool × Nat := ((xf.extractLsb' 0 8).toNat, xf.getLsbD 11, (xf.extractLsb' 12 4).toNat)

def sysrdBody (f : FR) (x : Ctx) (s : State) : State × List (Nat × LaneRes) :=
  match x.act with
  | [] => (s, [])
  | _ =>
    let (n, oth, slot) := sysSel f.xf
    if dieReg n then
      let v := s.readDieReg (dieOf x.core) n
      (if n = 0x22 then s.acquire x.core 5 else s).deliverAll x f.d true v
    else
      let slot := if oth then slot else x.slot
      match s.team? x.core slot with
      | none => s.deliverAll x f.d true 0
      | some t => (s.afterTeamRead x.core slot n).deliverAll x f.d true (s.readTeamReg t n)

/-- R280: performed once for the gang. -/
def execSysrd (f : FR) (s : State) : Host.Outcome State Fault Refusal := issue (.sysrd f) f.h noCheck (sysrdBody f) s

/-- `CADD` or `CGRUN` of a user (R441): a write from another context than the slot's graph is ignored. -/
def State.userForum (s : State) (ctx n : Nat) (v : BitVec 64) : State :=
  let slot := (v.extractLsb' 0 6).toNat
  match s.graph? slot with
  | none => s
  | some g =>
    if g.ctx ≠ ctx then s
    else if n = 0x74 then (s.cadd v).getD s
    else if v.extractLsb' 6 50 == 0 then (s.cgcancel slot).getD s
    else (s.cgstart v).getD s

def syswrBody (f : FR) (x : Ctx) (s : State) : State × List (Nat × LaneRes) :=
  match x.act, x.team s with
  | [], _ => (s, [])
  | _, none => (s, [])
  | _, some t =>
    let (n, oth, slot) := sysSel f.xf
    let v := x.rdU s true f.a
    let sup := (s.context t.ctx).supervisor
    let done (s : State) : State × List (Nat × LaneRes) := (s, x.act.map (·, .done))
    if n = 0x74 || n = 0x76 then
      if !x.act.all (s.relReady x.core x.slot) then
        (x.act.foldl (fun s fid => if s.relReady x.core x.slot fid then s else s.releaseWork x.core x.slot fid) s, x.act.map (·, .waitAgain))
      else done (s.userForum t.ctx n v)
    else if dieReg n then done (s.writeDieReg (dieOf x.core) n v)
    else done (s.writeTeamReg x.core (if oth then slot else x.slot) sup n v)

/-- R280, R441: performed once for the gang. -/
def execSyswr (f : FR) (s : State) : Host.Outcome State Fault Refusal := issue (.syswr f) f.h noCheck (syswrBody f) s

/-- R65: `ILLEGAL_OPCODE` in every fibre of the gang. -/
def execUnassignedOpcode (w : IWord) (s : State) : Host.Outcome State Fault Refusal :=
  let c := s.cur.core
  match s.cur.fids.filterMap (s.fibre? c s.cur.slot) with
  | [] => .next s
  | f :: r =>
    .next (s.trapGang c s.cur.slot (f.fid :: r.map (·.fid)) f.pc f.rep.isSome { cause := .illegalOpcode, info := rawInfo w })

-- world maps (R401, R402)

/-- Regions of the near memory of a die, or of the bulk tier, whose world a write changes are cleared first. -/
def State.writeRegions (s : State) (r : Option Nat) (old v : BitVec 64) : State :=
  let chg := (List.range 64).filter fun n => (old ^^^ v).getLsbD n && !s.regionClearing (r, n)
  let s := match r with
    | some d => s.modDie d fun y => { y with clearing := y.clearing ++ chg }
    | none => s.modForum fun g => { g with clearing := g.clearing ++ chg }
  chg.foldl (fun s n => s.spawn .regionClearingComplete { region := r, n := n }) s

/-- A core that holds a team keeps its world; another's scratchpad is cleared. -/
def State.writeCoreWorlds (s : State) (d q : Nat) (v : BitVec 64) : State :=
  let old := nth 0 (s.die d).wmcore q
  let chg := (List.range 64).filter fun b => (old ^^^ v).getLsbD b && (s.core (512 * d + 64 * q + b)).teams.isEmpty
  let s := s.modDie d fun y => { y with wmcore := setAt y.wmcore q (old ^^^ BitVec.ofNat 64 (maskOf chg)) }
  (chg.foldl (fun s b => s.modCore (512 * d + 64 * q + b) fun k => { k with spad := [], lastCtx := none }) s).kick

def State.readWorldReg (s : State) (d n : Nat) : BitVec 64 :=
  if n = 0x50 then (s.die d).wmreg else if n = 0x59 then (s.die d).wmkiosk else nth 0 (s.die d).wmcore (n - 0x51)

def State.writeWorldReg (s : State) (d n : Nat) (v : BitVec 64) : State :=
  if n = 0x50 then s.writeRegions (some d) (s.die d).wmreg v
  else if n = 0x59 then s.modDie d fun y => { y with wmkiosk := v &&& 0xFF }
  else s.writeCoreWorlds d (n - 0x51) v

-- Forum registers

/-- `SPARE` (R409): the stock in use of each kind, 0xFF where it is exhausted; lanes also while a plane is dead (R455). The spec names no
field for the lanes of the mesh links and routers of a cluster: the model counts them with the other lanes, and rows nowhere
(notes/assumptions/51.md). -/
def State.spareWord (s : State) : Nat :=
  let used (kind : Nat) : List Nat := (s.forum.sparesUsed.filter fun e => e.1 / 2 ^ 16 == kind).map (·.2)
  let out (kind stock : Nat) : Bool := (used kind).any fun n => decide (stock ≤ n)
  let fld (n : Nat) (gone : Bool) : Nat := if gone then 0xFF else min n 0xFE
  fld (used 0).sum (out 0 spareCores) + fld (used 1).sum (out 1 (Config.spareStock 1)) * 2 ^ 8 +
    fld (used 2).sum (out 2 (Config.spareStock 2)) * 2 ^ 16 +
    fld ((used 3).sum + (used 4).sum) (out 3 (Config.spareStock 3) || out 4 (Config.spareStock 4) || s.forum.plDead != 0) * 2 ^ 24

/-- A porter's register (R429), and what reading it changes. -/
def State.readPorterReg (s : State) (p k : Nat) : BitVec 64 × State :=
  let q := s.porter p
  let b (x : Bool) (n : Nat) : Nat := if x then n else 0
  if k = 0 then (BitVec.ofNat 64 (q.fpc * 2 ^ 32 + q.err * 2 ^ 16 + b q.hlt 2 + b q.running 1), s)
  else if k = 1 then (BitVec.ofNat 64 q.psaddr, s)
  else if k = 2 then
    ((sparseGet 0 q.words (q.psaddr % 1024)).setWidth 64, s.modPorter p fun q => { q with psaddr := (q.psaddr + 1) % 1024 })
  else (BitVec.ofNat 64 (q.drop * 2 ^ 48 + q.spill * 2 ^ 32 + q.refused * 2 ^ 16 + q.dup),
        s.modPorter p fun q => { q with dup := 0, refused := 0, spill := 0, drop := 0 })

/-- A read of a Forum register: none for one not listed. -/
def State.readForumReg (s : State) (n : Nat) : Option (BitVec 64 × State) :=
  let g := s.forum
  if n = 0x50 then some (g.wmbulk, s)
  else if n = 0x51 then some (g.wmport, s)
  else if n = 0x60 then some (g.temps ++ g.watts, s)
  else if n = 0x61 then some (g.thrcyc, s)
  else if n = 0x62 then some (g.softcnt, s)
  else if n = 0x63 then some (g.refusedHost ++ g.uecnt, s)
  else if n = 0x64 then some (BitVec.ofNat 64 s.spareWord, s)
  else if n = 0x70 then some (g.gtbase, s)
  else if n = 0x71 then some (BitVec.ofNat 64 (g.gtDone.toNat * 2 ^ 32 + g.gtIssued.toNat * 2 ^ 13), s)
  else if n = 0x72 then some (g.spillbase, s)
  else if 0x73 ≤ n && n ≤ 0x78 then some (0, s)
  else if n = 0x79 then some (BitVec.ofNat 64 (g.fgrp.toNat * 2 ^ 16 + g.pkg.toNat), s)
  else if n = 0x7A then some (BitVec.ofNat 64 (g.plQsc.toNat * 2 ^ 12 + g.plDead.toNat * 2 ^ 8 + g.plMap.toNat), s)
  else if 0x80 ≤ n && n < 0x100 then some (nth 0 (if n % 2 = 0 then g.exa else g.exc) ((n - 0x80) / 2), s)
  else if 0x100 ≤ n && n < 0x100 + 4 * 51 then some (s.readPorterReg ((n - 0x100) / 4) (n % 4))
  else none

/-- A write of a porter's register by a master that may write it (R429, R430). -/
def State.writePorterReg (s : State) (m : Master) (p k : Nat) (v : BitVec 64) : State :=
  if k = 0 then (if v.getLsbD 0 then s.startPorter p else s.modPorter p fun q => { q with running := false })
  else if k = 1 then s.modPorter p fun q => { q with psaddr := v.toNat % 1024 }
  else if k = 2 then s.psdata m p v
  else s

/-- A write of a Forum register: none where it is refused, or names none. Read-only registers keep their values. -/
def State.writeForumReg (s : State) (m : Master) (n : Nat) (v : BitVec 64) : Option State :=
  let may (r : Option State) : Option State := if s.forumWriter m then r else none
  if n = 0x50 then (if m.isSecure then some (s.writeRegions none s.forum.wmbulk v) else none)
  else if n = 0x51 then (if m.isSecure then some (s.modForum fun g => { g with wmport := v &&& 0x0007FFFFFFFFFFFF }) else none)
  else if 0x60 ≤ n && n ≤ 0x64 then some s
  else if n = 0x70 then may (some (s.modForum fun g => { g with gtbase := v &&& 0x000FFFFFFF000000 }))
  else if n = 0x71 then may (some (s.gtinv v))
  else if n = 0x72 then may (some (s.modForum fun g => { g with spillbase := v &&& 0x000FFFFFFE000000 }))
  else if n = 0x73 then may (if v.getLsbD 9 then some (s.pbFree v) else s.pbReserve v)
  else if n = 0x74 then may (s.cadd v)
  else if n = 0x75 then
    may (some ((s.cgload v).getD ((s.modForum fun f =>
      { f with graphs := f.graphs.filter (·.slot != (v.extractLsb' 0 6).toNat) }).windowError m)))
  else if n = 0x76 then may (if v.extractLsb' 6 50 == 0 then s.cgcancel (v.extractLsb' 0 6).toNat else s.cgstart v)
  else if n = 0x77 then may (s.elcmd v)
  else if n = 0x78 then may (s.pbfwd v)
  else if n = 0x79 then
    (if m.isSecure && s.forum.pkgstate < 4 then some (s.modForum fun g => { g with fgrp := v.extractLsb' 16 6, pkg := v.extractLsb' 0 10 })
     else none)
  else if n = 0x7A then (if m.isSecure then some (s.writeMap v) else none)
  else if 0x80 ≤ n && n < 0x100 then
    may (some (if n % 2 = 0 then s.modForum fun g => { g with exa := setAt g.exa ((n - 0x80) / 2) (v &&& 0x000FFFFFFFFF0000) }
      else s.writeExc ((n - 0x80) / 2) v))
  else if 0x100 ≤ n && n < 0x100 + 4 * 51 then
    (if s.porterWriter m ((n - 0x100) / 4) then some (s.writePorterReg m ((n - 0x100) / 4) (n % 4) v) else none)
  else none

-- the system window (R400)

/-- What `SWSEL` selects. -/
structure Sel where
  fid : Nat
  num : Nat
  item : Bool
  slot : Nat
  core : Nat
  die : Nat
  forum : Bool
  deriving DecidableEq, Repr

def Sel.of (v : BitVec 64) : Sel where
  fid := (v.extractLsb' 34 15).toNat
  num := (v.extractLsb' 25 9).toNat
  item := v.getLsbD 24
  slot := (v.extractLsb' 20 4).toNat
  core := (v.extractLsb' 8 4).toNat * 256 + (v.extractLsb' 12 8).toNat
  die := (v.extractLsb' 8 4).toNat / 2
  forum := v.getLsbD 7

/-- A master whose window exists: the host complex's, or an attached external master's. -/
def State.windowOpen (s : State) : Master → Bool
  | .ext m => (s.master (.ext m)).attached
  | _ => true

/-- A master may reach a team (R400). -/
def teamOpen (m : Master) (t : Team) : Bool := m.isSecure || !t.world

def teamReg (n : Nat) : Bool := decide (n ≤ 0x08) || (decide (0x10 ≤ n) && decide (n ≤ 0x1E))
def worldReg (n : Nat) : Bool := decide (0x50 ≤ n) && decide (n ≤ 0x59)

/-- A read through the window: none for one refused, or that names nothing. -/
def State.windowRead (s : State) (m : Master) (x : Sel) : Option (BitVec 64 × State) :=
  if x.forum then s.readForumReg x.num
  else if x.item then
    match s.team? x.core x.slot, s.fibre? x.core x.slot x.fid with
    | some t, some f =>
      if teamOpen m t && f.readable then (s.debugItem x.core t f x.num).map fun v => (BitVec.ofNat 64 v, s) else none
    | _, _ => none
  else if dieReg x.num then some (s.readDieReg x.die x.num, s)
  else if worldReg x.num then some (s.readWorldReg x.die x.num, s)
  else if !teamReg x.num then none
  else match s.team? x.core x.slot with
    | some t => if teamOpen m t then some (s.readTeamReg t x.num, s.afterTeamRead x.core x.slot x.num) else none
    | none => none

/-- A write through the window: none for one refused, or that names nothing. -/
def State.windowWrite (s : State) (m : Master) (x : Sel) (v : BitVec 64) : Option State :=
  if (match m with | .ext e => !s.ownerIs e | _ => false) then none
  else if x.forum then s.writeForumReg m x.num v
  else if x.item then none
  else if dieReg x.num then some (s.writeDieReg x.die x.num v)
  else if worldReg x.num then (if m.isSecure then some (s.writeWorldReg x.die x.num v) else none)
  else if !teamReg x.num then none
  else match s.team? x.core x.slot with
    | some t => if teamOpen m t then some (s.writeTeamReg x.core x.slot true x.num v) else none
    | none => none

/-- A read of a register of a master's block other than `SWDATA` (R6, R395, R396): what it gives, and what reading it changes. A core of the
host complex has the window's registers only (R400). -/
def State.readMasterReg (s : State) (m : Master) (reg : MasterReg) : BitVec 64 × State :=
  let r := s.master m
  let own (e : BitVec 2) : BitVec 64 :=
    match reg with
    | .portid => e.setWidth 64
    | .ownsts => BitVec.ofNat 64 s.forum.ownsts
    | .pkgstate => BitVec.ofNat 64 s.forum.pkgstate
    | .crsts => r.crsts
    | _ => 0
  match reg, m with
  | .swsel, _ => (r.swsel, s)
  | .swdata, _ => (r.swdata, s)
  | .swsts, _ => (if r.swerr then 1 else 0, s.modMaster m fun r => { r with swerr := false })
  | _, .ext e => (own e, s)
  | _, .host .. => (0, s)

/-- R400: a read of `SWDATA`; a read of `EXC`n waits until it may return (R457). A read of another register of the block answers at once
(R395). -/
def execSwdataRead (s : State) : Host.Outcome State Fault Refusal :=
  let m := s.par.m
  let x := Sel.of (s.master m).swsel
  if !s.windowOpen m then .next s
  else if s.par.reg ≠ .swdata then
    let (v, s) := s.readMasterReg m s.par.reg
    .next (s.modMaster m fun r => { r with answer := some (leBytes v.toNat 8) })
  else if x.forum && 0x80 ≤ x.num && x.num < 0x100 && x.num % 2 = 1 && !s.excSettled ((x.num - 0x80) / 2) then .next (s.spawn .swdataRead s.par)
  else match s.windowRead m x with
    | some (v, s) => .next (s.modMaster m fun r => { r with swdata := v })
    | none => .next (s.modMaster m fun r => { r with swdata := if x.item && !x.forum then 0xFFFFFFFFFFFFFFFF else 0, swerr := true })

/-- R400: a write of `SWDATA`. -/
def execSwdataWrite (s : State) : Host.Outcome State Fault Refusal :=
  let m := s.par.m
  if !s.windowOpen m then .next s
  else
    let s := s.modMaster m fun r => { r with swdata := s.par.v }
    .next ((s.windowWrite m (Sel.of (s.master m).swsel) s.par.v).getD (s.windowError m))

/-- R6, R395, R400: a write of a register of the master's block that has no step of its own; registers that are read only, and `SWSTS`, which a
read clears, keep their values. -/
def execRegisterWrite (s : State) : Host.Outcome State Fault Refusal :=
  let m := s.par.m
  let v := s.par.v
  let ext := match m with | .ext _ => true | _ => false
  if !s.windowOpen m then .next s
  else .next (match s.par.reg with
    | .swsel => s.modMaster m fun r => { r with swsel := v &&& 0x0001FFFFFFFFFF80 }
    | .crva => if ext then s.modMaster m fun r => { r with crva := v } else s
    | .crval => if ext then s.modMaster m fun r => { r with crval := v } else s
    | .crnote => if ext then s.modMaster m fun r => { r with crnote := v } else s
    | .portid | .ownsts | .owncmd | .pkgstate | .crcmd | .crsts | .swdata | .swsts => s)

end Sys2Proof.Machine
end

