-- ==== Sys2Proof/Machine/Dispatch.lean ====
section
/-!
DEFINITION. The dispatch: one arm per constructor of Instr, a direct call of its meaning.
-/
namespace Sys2Proof.Machine

def exec (i : Instr) (s : State) : Host.Outcome State Fault Refusal :=
  match i with
  | .nop f => Sys2Proof.Machine.execNop f s
  | .add f => Sys2Proof.Machine.execAdd f s
  | .addI f => Sys2Proof.Machine.execAddI f s
  | .sub f => Sys2Proof.Machine.execSub f s
  | .subI f => Sys2Proof.Machine.execSubI f s
  | .mul f => Sys2Proof.Machine.execMul f s
  | .mulI f => Sys2Proof.Machine.execMulI f s
  | .mulhi f => Sys2Proof.Machine.execMulhi f s
  | .mulhiI f => Sys2Proof.Machine.execMulhiI f s
  | .mad f => Sys2Proof.Machine.execMad f s
  | .madw f => Sys2Proof.Machine.execMadw f s
  | .min f => Sys2Proof.Machine.execMin f s
  | .minI f => Sys2Proof.Machine.execMinI f s
  | .max f => Sys2Proof.Machine.execMax f s
  | .maxI f => Sys2Proof.Machine.execMaxI f s
  | .abs f => Sys2Proof.Machine.execAbs f s
  | .neg f => Sys2Proof.Machine.execNeg f s
  | .and f => Sys2Proof.Machine.execAnd f s
  | .andI f => Sys2Proof.Machine.execAndI f s
  | .or f => Sys2Proof.Machine.execOr f s
  | .orI f => Sys2Proof.Machine.execOrI f s
  | .xor f => Sys2Proof.Machine.execXor f s
  | .xorI f => Sys2Proof.Machine.execXorI f s
  | .not f => Sys2Proof.Machine.execNot f s
  | .shl f => Sys2Proof.Machine.execShl f s
  | .shlI f => Sys2Proof.Machine.execShlI f s
  | .shr f => Sys2Proof.Machine.execShr f s
  | .shrI f => Sys2Proof.Machine.execShrI f s
  | .sar f => Sys2Proof.Machine.execSar f s
  | .sarI f => Sys2Proof.Machine.execSarI f s
  | .rot f => Sys2Proof.Machine.execRot f s
  | .rotI f => Sys2Proof.Machine.execRotI f s
  | .clz f => Sys2Proof.Machine.execClz f s
  | .popc f => Sys2Proof.Machine.execPopc f s
  | .brev f => Sys2Proof.Machine.execBrev f s
  | .bfx f => Sys2Proof.Machine.execBfx f s
  | .bfi f => Sys2Proof.Machine.execBfi f s
  | .sel f => Sys2Proof.Machine.execSel f s
  | .cmp f => Sys2Proof.Machine.execCmp f s
  | .cmpI f => Sys2Proof.Machine.execCmpI f s
  | .lea f => Sys2Proof.Machine.execLea f s
  | .leaI f => Sys2Proof.Machine.execLeaI f s
  | .mov f => Sys2Proof.Machine.execMov f s
  | .movk f => Sys2Proof.Machine.execMovk f s
  | .ldi f => Sys2Proof.Machine.execLdi f s
  | .ldiHi f => Sys2Proof.Machine.execLdiHi f s
  | .gets f => Sys2Proof.Machine.execGets f s
  | .pand f => Sys2Proof.Machine.execPand f s
  | .por f => Sys2Proof.Machine.execPor f s
  | .pxor f => Sys2Proof.Machine.execPxor f s
  | .pnot f => Sys2Proof.Machine.execPnot f s
  | .pmov f => Sys2Proof.Machine.execPmov f s
  | .pmovWRead f => Sys2Proof.Machine.execPmovWRead f s
  | .pmovWWrite f => Sys2Proof.Machine.execPmovWWrite f s
  | .fadd f => Sys2Proof.Machine.execFadd f s
  | .faddPk f => Sys2Proof.Machine.execFaddPk f s
  | .fsub f => Sys2Proof.Machine.execFsub f s
  | .fsubPk f => Sys2Proof.Machine.execFsubPk f s
  | .fmul f => Sys2Proof.Machine.execFmul f s
  | .fmulPk f => Sys2Proof.Machine.execFmulPk f s
  | .ffma f => Sys2Proof.Machine.execFfma f s
  | .ffmaPk f => Sys2Proof.Machine.execFfmaPk f s
  | .fmin f => Sys2Proof.Machine.execFmin f s
  | .fminPk f => Sys2Proof.Machine.execFminPk f s
  | .fmax f => Sys2Proof.Machine.execFmax f s
  | .fmaxPk f => Sys2Proof.Machine.execFmaxPk f s
  | .fcmp f => Sys2Proof.Machine.execFcmp f s
  | .frcp f => Sys2Proof.Machine.execFrcp f s
  | .frcpPk f => Sys2Proof.Machine.execFrcpPk f s
  | .frsq f => Sys2Proof.Machine.execFrsq f s
  | .frsqPk f => Sys2Proof.Machine.execFrsqPk f s
  | .fsqrt f => Sys2Proof.Machine.execFsqrt f s
  | .fsqrtPk f => Sys2Proof.Machine.execFsqrtPk f s
  | .fexp2 f => Sys2Proof.Machine.execFexp2 f s
  | .fexp2Pk f => Sys2Proof.Machine.execFexp2Pk f s
  | .flog2 f => Sys2Proof.Machine.execFlog2 f s
  | .flog2Pk f => Sys2Proof.Machine.execFlog2Pk f s
  | .fsin f => Sys2Proof.Machine.execFsin f s
  | .fsinPk f => Sys2Proof.Machine.execFsinPk f s
  | .fcos f => Sys2Proof.Machine.execFcos f s
  | .fcosPk f => Sys2Proof.Machine.execFcosPk f s
  | .ftanh f => Sys2Proof.Machine.execFtanh f s
  | .ftanhPk f => Sys2Proof.Machine.execFtanhPk f s
  | .frnd f => Sys2Proof.Machine.execFrnd f s
  | .frndPk f => Sys2Proof.Machine.execFrndPk f s
  | .cvt f => Sys2Proof.Machine.execCvt f s
  | .cvtPk f => Sys2Proof.Machine.execCvtPk f s
  | .cvti f => Sys2Proof.Machine.execCvti f s
  | .pk f => Sys2Proof.Machine.execPk f s
  | .upk f => Sys2Proof.Machine.execUpk f s
  | .sclq f => Sys2Proof.Machine.execSclq f s
  | .sclget f => Sys2Proof.Machine.execSclget f s
  | .sclgetClr f => Sys2Proof.Machine.execSclgetClr f s
  | .crng f => Sys2Proof.Machine.execCrng f s
  | .shflPick f => Sys2Proof.Machine.execShflPick f s
  | .shflShift f => Sys2Proof.Machine.execShflShift f s
  | .shflRot f => Sys2Proof.Machine.execShflRot f s
  | .shflMir f => Sys2Proof.Machine.execShflMir f s
  | .voteEvery f => Sys2Proof.Machine.execVoteEvery f s
  | .voteSome f => Sys2Proof.Machine.execVoteSome f s
  | .voteMask f => Sys2Proof.Machine.execVoteMask f s
  | .voteCount f => Sys2Proof.Machine.execVoteCount f s
  | .redux op f => Sys2Proof.Machine.execRedux op f s
  | .scan op f => Sys2Proof.Machine.execScan op f s
  | .scanEx op f => Sys2Proof.Machine.execScanEx op f s
  | .matchPeers f => Sys2Proof.Machine.execMatchPeers f s
  | .matchFirst f => Sys2Proof.Machine.execMatchFirst f s
  | .matchSame f => Sys2Proof.Machine.execMatchSame f s
  | .lsync f => Sys2Proof.Machine.execLsync f s
  | .bra f => Sys2Proof.Machine.execBra f s
  | .brx f => Sys2Proof.Machine.execBrx f s
  | .call f => Sys2Proof.Machine.execCall f s
  | .calli f => Sys2Proof.Machine.execCalli f s
  | .ret f => Sys2Proof.Machine.execRet f s
  | .retTrap f => Sys2Proof.Machine.execRetTrap f s
  | .fork f => Sys2Proof.Machine.execFork f s
  | .exit f => Sys2Proof.Machine.execExit f s
  | .yield f => Sys2Proof.Machine.execYield f s
  | .trap f => Sys2Proof.Machine.execTrap f s
  | .brk f => Sys2Proof.Machine.execBrk f s
  | .rep f => Sys2Proof.Machine.execRep f s
  | .ld f => Sys2Proof.Machine.execLd f s
  | .ldAcq f => Sys2Proof.Machine.execLdAcq f s
  | .st f => Sys2Proof.Machine.execSt f s
  | .stRel f => Sys2Proof.Machine.execStRel f s
  | .lds f => Sys2Proof.Machine.execLds f s
  | .sts f => Sys2Proof.Machine.execSts f s
  | .ldx f => Sys2Proof.Machine.execLdx f s
  | .stx f => Sys2Proof.Machine.execStx f s
  | .prfL1 f => Sys2Proof.Machine.execPrfL1 f s
  | .prfL2 f => Sys2Proof.Machine.execPrfL2 f s
  | .flushWb f => Sys2Proof.Machine.execFlushWb f s
  | .flushInv f => Sys2Proof.Machine.execFlushInv f s
  | .fenceAcq f => Sys2Proof.Machine.execFenceAcq f s
  | .fenceRel f => Sys2Proof.Machine.execFenceRel f s
  | .fenceAr f => Sys2Proof.Machine.execFenceAr f s
  | .carve f => Sys2Proof.Machine.execCarve f s
  | .tlbq f => Sys2Proof.Machine.execTlbq f s
  | .atom op f => Sys2Proof.Machine.execAtom op f s
  | .atomAcq op f => Sys2Proof.Machine.execAtomAcq op f s
  | .atomRel op f => Sys2Proof.Machine.execAtomRel op f s
  | .atomAr op f => Sys2Proof.Machine.execAtomAr op f s
  | .red op f => Sys2Proof.Machine.execRed op f s
  | .redRel op f => Sys2Proof.Machine.execRedRel op f s
  | .mxzero f => Sys2Proof.Machine.execMxzero f s
  | .mxloop f => Sys2Proof.Machine.execMxloop f s
  | .mxloopG f => Sys2Proof.Machine.execMxloopG f s
  | .mxwait f => Sys2Proof.Machine.execMxwait f s
  | .mxdrain f => Sys2Proof.Machine.execMxdrain f s
  | .mxdrainQ f => Sys2Proof.Machine.execMxdrainQ f s
  | .gxrows f => Sys2Proof.Machine.execGxrows f s
  | .cpyLd f => Sys2Proof.Machine.execCpyLd f s
  | .cpyLdNf f => Sys2Proof.Machine.execCpyLdNf f s
  | .cpySt f => Sys2Proof.Machine.execCpySt f s
  | .cpyRed op f => Sys2Proof.Machine.execCpyRed op f s
  | .cpyMc f => Sys2Proof.Machine.execCpyMc f s
  | .cpyMcNf f => Sys2Proof.Machine.execCpyMcNf f s
  | .cpyPf f => Sys2Proof.Machine.execCpyPf f s
  | .eqfence f => Sys2Proof.Machine.execEqfence f s
  | .eqfenceW f => Sys2Proof.Machine.execEqfenceW f s
  | .tdset f => Sys2Proof.Machine.execTdset f s
  | .tdget f => Sys2Proof.Machine.execTdget f s
  | .tset f => Sys2Proof.Machine.execTset f s
  | .tget f => Sys2Proof.Machine.execTget f s
  | .tgetFill f => Sys2Proof.Machine.execTgetFill f s
  | .tgetFillc f => Sys2Proof.Machine.execTgetFillc f s
  | .barv f => Sys2Proof.Machine.execBarv f s
  | .barvB f => Sys2Proof.Machine.execBarvB f s
  | .barw f => Sys2Proof.Machine.execBarw f s
  | .barvw f => Sys2Proof.Machine.execBarvw f s
  | .barx f => Sys2Proof.Machine.execBarx f s
  | .bars f => Sys2Proof.Machine.execBars f s
  | .barsClr f => Sys2Proof.Machine.execBarsClr f s
  | .barsB f => Sys2Proof.Machine.execBarsB f s
  | .cbarA f => Sys2Proof.Machine.execCbarA f s
  | .cbarW f => Sys2Proof.Machine.execCbarW f s
  | .cbarAw f => Sys2Proof.Machine.execCbarAw f s
  | .dbarA f => Sys2Proof.Machine.execDbarA f s
  | .dbarW f => Sys2Proof.Machine.execDbarW f s
  | .dbarAw f => Sys2Proof.Machine.execDbarAw f s
  | .pbarA f => Sys2Proof.Machine.execPbarA f s
  | .pbarW f => Sys2Proof.Machine.execPbarW f s
  | .pbarAw f => Sys2Proof.Machine.execPbarAw f s
  | .qinit f => Sys2Proof.Machine.execQinit f s
  | .qpush f => Sys2Proof.Machine.execQpush f s
  | .qpop f => Sys2Proof.Machine.execQpop f s
  | .qtpush f => Sys2Proof.Machine.execQtpush f s
  | .qtpop f => Sys2Proof.Machine.execQtpop f s
  | .qpeek f => Sys2Proof.Machine.execQpeek f s
  | .qstat f => Sys2Proof.Machine.execQstat f s
  | .qclose f => Sys2Proof.Machine.execQclose f s
  | .qdrain f => Sys2Proof.Machine.execQdrain f s
  | .launch f => Sys2Proof.Machine.execLaunch f s
  | .spawn f => Sys2Proof.Machine.execSpawn f s
  | .spawnr f => Sys2Proof.Machine.execSpawnr f s
  | .jdec f => Sys2Proof.Machine.execJdec f s
  | .lquery f => Sys2Proof.Machine.execLquery f s
  | .xsel f => Sys2Proof.Machine.execXsel f s
  | .xdisp f => Sys2Proof.Machine.execXdisp f s
  | .xcurRd f => Sys2Proof.Machine.execXcurRd f s
  | .xcurWr f => Sys2Proof.Machine.execXcurWr f s
  | .xhist f => Sys2Proof.Machine.execXhist f s
  | .regrp f => Sys2Proof.Machine.execRegrp f s
  | .wwait f => Sys2Proof.Machine.execWwait f s
  | .wwake f => Sys2Proof.Machine.execWwake f s
  | .rmtOpen f => Sys2Proof.Machine.execRmtOpen f s
  | .rmtCommit f => Sys2Proof.Machine.execRmtCommit f s
  | .rmtAbort f => Sys2Proof.Machine.execRmtAbort f s
  | .sysrd f => Sys2Proof.Machine.execSysrd f s
  | .syswr f => Sys2Proof.Machine.execSyswr f s
  | .fcancel f => Sys2Proof.Machine.execFcancel f s
  | .ctxsave f => Sys2Proof.Machine.execCtxsave f s
  | .ctxload f => Sys2Proof.Machine.execCtxload f s
  | .dbgrd f => Sys2Proof.Machine.execDbgrd f s
  | .bnop => Sys2Proof.Machine.execBnop s
  | .bli d imm => Sys2Proof.Machine.execBli d imm s
  | .badd d a b => Sys2Proof.Machine.execBadd d a b s
  | .baddi d a imm => Sys2Proof.Machine.execBaddi d a imm s
  | .band d a b => Sys2Proof.Machine.execBand d a b s
  | .bshr d a n => Sys2Proof.Machine.execBshr d a n s
  | .bbeq a b imm => Sys2Proof.Machine.execBbeq a b imm s
  | .bbne a b imm => Sys2Proof.Machine.execBbne a b imm s
  | .bmatch => Sys2Proof.Machine.execBmatch s
  | .bfold d => Sys2Proof.Machine.execBfold d s
  | .bfwdRes => Sys2Proof.Machine.execBfwdRes s
  | .bfwdUp => Sys2Proof.Machine.execBfwdUp s
  | .bfwdRaw => Sys2Proof.Machine.execBfwdRaw s
  | .bmcast => Sys2Proof.Machine.execBmcast s
  | .bgath => Sys2Proof.Machine.execBgath s
  | .bcmpl d => Sys2Proof.Machine.execBcmpl d s
  | .bfree => Sys2Proof.Machine.execBfree s
  | .bend => Sys2Proof.Machine.execBend s
  | .unassignedOpcode w => Sys2Proof.Machine.execUnassignedOpcode w s
  | .bosterReservedWord w => Sys2Proof.Machine.execBosterReservedWord w s
  | .queueOpAtKeeper => Sys2Proof.Machine.execQueueOpAtKeeper s
  | .enginePush => Sys2Proof.Machine.execEnginePush s
  | .noticePush => Sys2Proof.Machine.execNoticePush s
  | .regroupComplete => Sys2Proof.Machine.execRegroupComplete s
  | .gangMerge => Sys2Proof.Machine.execGangMerge s
  | .gangEntryFree => Sys2Proof.Machine.execGangEntryFree s
  | .scratchpadBankServe => Sys2Proof.Machine.execScratchpadBankServe s
  | .rangeEntryRetire => Sys2Proof.Machine.execRangeEntryRetire s
  | .storeBufferDrain => Sys2Proof.Machine.execStoreBufferDrain s
  | .storeAck => Sys2Proof.Machine.execStoreAck s
  | .loadResponse => Sys2Proof.Machine.execLoadResponse s
  | .atomicResponse => Sys2Proof.Machine.execAtomicResponse s
  | .l1Writeback => Sys2Proof.Machine.execL1Writeback s
  | .remoteScratchpadArrival => Sys2Proof.Machine.execRemoteScratchpadArrival s
  | .remoteScratchpadResponse => Sys2Proof.Machine.execRemoteScratchpadResponse s
  | .barrierNetworkArrival => Sys2Proof.Machine.execBarrierNetworkArrival s
  | .clusterBarrierReport => Sys2Proof.Machine.execClusterBarrierReport s
  | .clusterBarrierRelease => Sys2Proof.Machine.execClusterBarrierRelease s
  | .dieBarrierReport => Sys2Proof.Machine.execDieBarrierReport s
  | .dieBarrierRelease => Sys2Proof.Machine.execDieBarrierRelease s
  | .packageBarrierArrival => Sys2Proof.Machine.execPackageBarrierArrival s
  | .packageBarrierRelease => Sys2Proof.Machine.execPackageBarrierRelease s
  | .mxKstep => Sys2Proof.Machine.execMxKstep s
  | .mxCommandComplete => Sys2Proof.Machine.execMxCommandComplete s
  | .mxDrainRun => Sys2Proof.Machine.execMxDrainRun s
  | .gatherRowsFetch => Sys2Proof.Machine.execGatherRowsFetch s
  | .streamerCopyRun => Sys2Proof.Machine.execStreamerCopyRun s
  | .streamerCompletionAction => Sys2Proof.Machine.execStreamerCompletionAction s
  | .multicastDelivery => Sys2Proof.Machine.execMulticastDelivery s
  | .carveChangeComplete => Sys2Proof.Machine.execCarveChangeComplete s
  | .teamPlace => Sys2Proof.Machine.execTeamPlace s
  | .teamFree => Sys2Proof.Machine.execTeamFree s
  | .launchEnd => Sys2Proof.Machine.execLaunchEnd s
  | .continuationTake => Sys2Proof.Machine.execContinuationTake s
  | .recordAging => Sys2Proof.Machine.execRecordAging s
  | .spareCoreRemap => Sys2Proof.Machine.execSpareCoreRemap s
  | .preemptRequest => Sys2Proof.Machine.execPreemptRequest s
  | .forcedStop => Sys2Proof.Machine.execForcedStop s
  | .contextSave => Sys2Proof.Machine.execContextSave s
  | .contextRestore => Sys2Proof.Machine.execContextRestore s
  | .teamTerminate => Sys2Proof.Machine.execTeamTerminate s
  | .invalidateCommand => Sys2Proof.Machine.execInvalidateCommand s
  | .invalidationComplete => Sys2Proof.Machine.execInvalidationComplete s
  | .dbgHalt => Sys2Proof.Machine.execDbgHalt s
  | .dbgStep => Sys2Proof.Machine.execDbgStep s
  | .dbgRelease => Sys2Proof.Machine.execDbgRelease s
  | .dbgReleaseAll => Sys2Proof.Machine.execDbgReleaseAll s
  | .dispatchRun => Sys2Proof.Machine.execDispatchRun s
  | .dispatchAck => Sys2Proof.Machine.execDispatchAck s
  | .ingressArrival => Sys2Proof.Machine.execIngressArrival s
  | .cxlMemAccess => Sys2Proof.Machine.execCxlMemAccess s
  | .ownClaim => Sys2Proof.Machine.execOwnClaim s
  | .ownHandOver => Sys2Proof.Machine.execOwnHandOver s
  | .ownAccept => Sys2Proof.Machine.execOwnAccept s
  | .ownRelease => Sys2Proof.Machine.execOwnRelease s
  | .ownerLinkDown => Sys2Proof.Machine.execOwnerLinkDown s
  | .crierWait => Sys2Proof.Machine.execCrierWait s
  | .crierWake => Sys2Proof.Machine.execCrierWake s
  | .crierWithdraw => Sys2Proof.Machine.execCrierWithdraw s
  | .swdataRead => Sys2Proof.Machine.execSwdataRead s
  | .swdataWrite => Sys2Proof.Machine.execSwdataWrite s
  | .registerWrite => Sys2Proof.Machine.execRegisterWrite s
  | .linkRetrain => Sys2Proof.Machine.execLinkRetrain s
  | .correctableError => Sys2Proof.Machine.execCorrectableError s
  | .uncorrectableMemoryError => Sys2Proof.Machine.execUncorrectableMemoryError s
  | .teamStateError => Sys2Proof.Machine.execTeamStateError s
  | .hostCacheError => Sys2Proof.Machine.execHostCacheError s
  | .packageReset => Sys2Proof.Machine.execPackageReset s
  | .bootStageAdvance => Sys2Proof.Machine.execBootStageAdvance s
  | .powerSample => Sys2Proof.Machine.execPowerSample s
  | .packetArrival => Sys2Proof.Machine.execPacketArrival s
  | .slotTimeout => Sys2Proof.Machine.execSlotTimeout s
  | .spillEndpointFold => Sys2Proof.Machine.execSpillEndpointFold s
  | .deliveryAck => Sys2Proof.Machine.execDeliveryAck s
  | .pctlRunStart => Sys2Proof.Machine.execPctlRunStart s
  | .pctlRunStop => Sys2Proof.Machine.execPctlRunStop s
  | .psdataWrite => Sys2Proof.Machine.execPsdataWrite s
  | .gtinvWrite => Sys2Proof.Machine.execGtinvWrite s
  | .gtInvalidationComplete => Sys2Proof.Machine.execGtInvalidationComplete s
  | .pbcfgReserve => Sys2Proof.Machine.execPbcfgReserve s
  | .pbcfgFree => Sys2Proof.Machine.execPbcfgFree s
  | .cadd => Sys2Proof.Machine.execCadd s
  | .chunkComplete => Sys2Proof.Machine.execChunkComplete s
  | .cgload => Sys2Proof.Machine.execCgload s
  | .cgrunStart => Sys2Proof.Machine.execCgrunStart s
  | .cgrunCancel => Sys2Proof.Machine.execCgrunCancel s
  | .elcmd => Sys2Proof.Machine.execElcmd s
  | .roundPrepare => Sys2Proof.Machine.execRoundPrepare s
  | .roundOldVersionTimeout => Sys2Proof.Machine.execRoundOldVersionTimeout s
  | .roundDecide => Sys2Proof.Machine.execRoundDecide s
  | .roundCommit => Sys2Proof.Machine.execRoundCommit s
  | .plmapMapWrite => Sys2Proof.Machine.execPlmapMapWrite s
  | .planeDeath => Sys2Proof.Machine.execPlaneDeath s
  | .planeClose => Sys2Proof.Machine.execPlaneClose s
  | .excWrite => Sys2Proof.Machine.execExcWrite s
  | .remoteRequestArrival => Sys2Proof.Machine.execRemoteRequestArrival s
  | .remoteResponse => Sys2Proof.Machine.execRemoteResponse s
  | .unreachableTimeout => Sys2Proof.Machine.execUnreachableTimeout s
  | .stagedWrite => Sys2Proof.Machine.execStagedWrite s
  | .stagingDiscardTimeout => Sys2Proof.Machine.execStagingDiscardTimeout s
  | .regionPrepare => Sys2Proof.Machine.execRegionPrepare s
  | .regionApply => Sys2Proof.Machine.execRegionApply s
  | .regionDiscard => Sys2Proof.Machine.execRegionDiscard s
  | .pbfwdWrite => Sys2Proof.Machine.execPbfwdWrite s
  | .fabricBarrierForward => Sys2Proof.Machine.execFabricBarrierForward s
  | .fabricBarrierRelease => Sys2Proof.Machine.execFabricBarrierRelease s
  | .launchShare => Sys2Proof.Machine.execLaunchShare s
  | .tableWalkEnd => Sys2Proof.Machine.execTableWalkEnd s
  | .masterLinkUp => Sys2Proof.Machine.execMasterLinkUp s
  | .masterLinkDown => Sys2Proof.Machine.execMasterLinkDown s
  | .externalPortTraining => Sys2Proof.Machine.execExternalPortTraining s
  | .planeComesBack => Sys2Proof.Machine.execPlaneComesBack s
  | .regionClearingComplete => Sys2Proof.Machine.execRegionClearingComplete s
  | .markForRetirement => Sys2Proof.Machine.execMarkForRetirement s
  | .meshLinkFailure => Sys2Proof.Machine.execMeshLinkFailure s
  | .stackChannelFailure => Sys2Proof.Machine.execStackChannelFailure s

end Sys2Proof.Machine
end

