-- ==== Sys2Proof/Machine/Step.lean ====
section
/-!
DEFINITION. One step of the package: what moves next, and the meaning of its instruction.
-/
namespace Sys2Proof.Machine

open Sys2Proof

/-- One step: a fetch or the landing of a machine event picks an instruction, which `exec` runs (R68, notes/assumptions/3.md). -/
def step (s : State) : Host.Outcome State Fault Refusal :=
  match s.pick with
  | .done s' => .next s'
  | .run i s' => exec i s'

/-- The state with one instruction where the next step fetches it (notes/assumptions/5.md): a Boster word of 32 bits, or a fibre's word of
96 bits. -/
def State.withFetchWord (s : State) (nbits w : Nat) : State :=
  if nbits ≤ 32 then s.loadBosterWord (BitVec.ofNat 32 w) else s.loadFibreWord (BitVec.ofNat 96 w)

end Sys2Proof.Machine
end

