-- ==== Sys2Proof/Safety.lean ====
section
/-!
DEFINITION. What counts as a safe state and a regular issue, in the terms that statements use: the canonical form of every sparse store;
the states in which a fibre's instruction meets none of the checks and waits of its issue; what completing it does to its gang; and the
state of a package apart from its gang table and work list, which name only who may move next.
-/
namespace Sys2Proof.Machine

open Sys2Proof

/-- The stores of a core in canonical form: its scratchpad, and each team's descriptor table and tiles. -/
def Core.canonical (k : Core) : Bool :=
  Memory.wf k.spad && k.teams.all fun t => sparseWf 0 t.tdesc && sparseWf 0 t.tiles

/-- Memory, the scratchpads, the descriptor tables and tiles of resident and saved teams, and the program stores have their canonical
form. -/
def State.canonical (s : State) : Bool :=
  Memory.wf s.mem && s.cores.all (fun c => c.2.canonical) && s.saved.all (fun x => sparseWf 0 x.team.tdesc) &&
  s.forum.porters.all fun p => sparseWf 0 p.words

-- the issue of an instruction

/-- The state once what is due has landed (R54, R103), and, with W = 1, what the instruction awaits (R57). -/
def State.landed (s : State) (i : Instr) (h : Hints) : State :=
  let s' := s.landTeam s.cur.core s.cur.slot
  match s'.team? s.cur.core s.cur.slot with
  | none => s'
  | some t => if h.w then s'.await s.cur.core s.cur.slot s.cur.fids (guardUse h :: uses t.tar i) else s'

/-- What the instruction of the gang that runs sees: its fibres, the active ones among them, its cycle and address. -/
def State.issueCtx (s : State) (i : Instr) (h : Hints) : Ctx :=
  let c := s.cur.core
  let fids := s.cur.fids
  let pc : BitVec 56 := match (s.landTeam c s.cur.slot).team? c s.cur.slot with
    | some t => ((fids.head?.bind t.fibre?).map (·.pc)).getD 0
    | none => 0
  match (s.landed i h).team? c s.cur.slot with
  | none => ⟨c, s.cur.slot, fids, [], s.now c, pc, 0⟩
  | some t =>
    ⟨c, s.cur.slot, fids, fids.filter fun fid => ((t.fibre? fid).any fun (f : Fibre) => f.active h), s.now c, pc,
     laneMask t fids⟩

/-- The fibres `fids` of a team pass the checks of an issue after check 4, wait for nothing, and no debugger steps them. -/
def regularIssue (x : Ctx) (s : State) (t : Team) (h : Hints) (us : List Use) : Bool :=
  x.gang.all (fun fid => match t.fibre? fid with
    | none => false
    | some f =>
      !(h.w && f.waitsFor t (guardUse h :: us)) && !(t.sbchk && (f.stale t (guardUse h :: us)).isSome) &&
      f.bond == 0 && !f.stepping) &&
  x.act.all (fun fid => match t.fibre? fid with
    | none => false
    | some f => (f.windowFault us).isNone) &&
  us.all (fun u => !u.uni || (differing x s u).isEmpty) &&
  t.preempt.isNone

/-- The gang that runs issues `i` regularly: it has fibres, all distinct and live, its team is under no pre-emption request, and checks
5 to 8 of R68 find nothing and no operand is awaited. -/
def State.issues (s : State) (i : Instr) (h : Hints) : Bool :=
  let c := s.cur.core
  match (s.landTeam c s.cur.slot).team? c s.cur.slot, (s.landed i h).team? c s.cur.slot with
  | some t0, some t =>
    !s.cur.fids.isEmpty && decide s.cur.fids.Nodup && s.cur.fids.all (fun fid => (t0.fibre? fid).isSome) &&
    rightsOk t0 s.cur.fids (rights i) && regularIssue (s.issueCtx i h) (s.landed i h) t h (uses t0.tar i)
  | _, _ => false

/-- The team of the gang that runs, as its instruction finds it. -/
def State.issueTeam (s : State) (i : Instr) (h : Hints) : Team := ((s.landed i h).team? s.cur.core s.cur.slot).getD Team.blank

-- what completing an instruction does to the gang

/-- Each fibre of the gang goes to the place that `go` gives it, and issues nothing before S cycles have passed (R55). -/
def State.proceed (s : State) (x : Ctx) (h : Hints) (go : Fibre → Fibre) : State :=
  s.modTeam x.core x.slot (·.modGang x.gang fun f => { go f with ready := max (go f).ready (x.now + max h.s.toNat 1) })

/-- The fibres of the gang complete the instruction: each goes on to the next, or to the next iteration (R55, R153). -/
def State.advanced (s : State) (x : Ctx) (h : Hints) : State := s.proceed x h (·.advance)

/-- The instruction is over for the fibre, or it waits there for another party: it takes no trap and does not try again. -/
def LaneRes.calm : LaneRes → Bool
  | .done | .jump _ | .jumpSkip _ | .block | .ended => true
  | _ => false

def Core.noGangs (k : Core) : Core := { k with gangs := [] }

def State.noWork (s : State) : State := { s with work := [] }

/-- The package apart from who may move next: the gang table of a core and the work list emptied. -/
def State.bare (s : State) (c : Nat) : State := (s.modCore c (·.noGangs)).noWork

/-- A step answers a next state that is the given one, apart from who may move next. -/
def State.becomes (o : Host.Outcome State Fault Refusal) (c : Nat) (e : State) : Prop := ∃ t, o = .next t ∧ t.bare c = e.bare c

-- the results of an instruction that computes

/-- What a result for a register or predicate of a fibre is owed as: one register, or both of a pair, low register first. -/
def owedTo (due : Due) (id : Nat) (r : Result) : List PendW :=
  match r with
  | (.v i, wide, v) =>
    ⟨.v i.toNat, false, v.extractLsb' 0 32, due, id⟩ :: if wide then [⟨.v (i.toNat + 1), true, v.extractLsb' 32 32, due, id⟩] else []
  | (.p n, _, v) => [⟨.p n.toNat, false, v.extractLsb' 0 32, due, id⟩]
  | _ => []

/-- What a result for a uniform register is owed as, on behalf of the fibres that wrote it (R103). -/
def owedUniform (role : Role) (due : Due) (id : Nat) (fids : List Nat) (r : Result) : List PendU :=
  match r with
  | (.k i, wide, v) =>
    ⟨role, i.toNat, false, v.extractLsb' 0 32, due, id, fids⟩ ::
      if wide then [⟨role, i.toNat + 1, true, v.extractLsb' 32 32, due, id, fids⟩] else []
  | _ => []

/-- The lanes agree on what they write to uniform registers (R103), in the bits that those hold. -/
def outsAgree (outs : List (Nat × List Result)) : Bool :=
  match outs with
  | [] => true
  | o :: _ => outs.all fun p =>
      (p.2.filter fun r => Operand.isUniform r.1).map Result.cut == (o.2.filter fun r => Operand.isUniform r.1).map Result.cut

def Fibre.owes (f : Fibre) (ws : List PendW) : Fibre := { f with pend := f.pend ++ ws }

def Team.owes (t : Team) (ws : List PendU) : Team := { t with upend := t.upend ++ ws }

def Team.mapFibres (t : Team) (g : List Fibre → List Fibre) : Team := { t with fibres := g t.fibres }

/-- The results of the active lanes are owed (R54): each fibre its own, and the uniform registers once for all of them (R103). -/
def State.owed (s : State) (x : Ctx) (due : Due) (outs : List (Nat × List Result)) : State :=
  match outs with
  | [] => s
  | o :: _ =>
    let id := s.uid
    let role := s.fibreRole x.core x.slot o.1
    { s.modTeam x.core x.slot (fun t =>
        (t.owes (o.2.flatMap (owedUniform role due id (outs.map (·.1))))).mapFibres
          (·.map fun f => f.owes ((assocGet [] outs f.fid).flatMap (owedTo due id)))) with
      uid := s.uid + 1 }

end Sys2Proof.Machine
end

