-- ==== Sys2Proof/Certificates/Slice0/Obligations.lean ====
section
/-!
DEFINITION. The statements about the model, with the tables of what the spec says that they compare it with.
-/
open Sys2Proof Sys2Proof.Machine

namespace Sys2Proof.Spec

open Sys2Proof Sys2Proof.Machine

-- integers, bits and predicates (R121-R133)

/-- What an operand field reads in a fibre, as one register or, where the flag says so, a pair. -/
abbrev Rd := Operand → Bool → BitVec 64

/-- An instruction that computes in each lane: its guard and hints, its latency (R54), its results by what its operands read. -/
structure Calc where
  h : Hints
  lat : Nat
  outs : Rd → List Result

/-- The width of a type and whether it is read signed (R47). -/
def width (t : BitVec 6) : Nat := if t ∈ [0, 4] then 8 else if t ∈ [1, 5] then 16 else if t ∈ [2, 6, 8] then 32 else 64
def signed (t : BitVec 6) : Bool := t ∈ [0, 1, 2, 3]
def wide (t : BitVec 6) : Bool := t ∈ [3, 7, 9]

/-- `ReadInt` of R123. -/
def intOf (t : BitVec 6) (v : BitVec 64) : Int :=
  let u := v.setWidth (width t)
  if signed t then u.toInt else (u.toNat : Int)

/-- `WriteInt` of R123. -/
def written (t : BitVec 6) (x : Int) : BitVec 64 :=
  let y := BitVec.ofInt (width t) x
  if signed t && decide (width t < 32) then (y.signExtend 32).setWidth 64 else y.setWidth 64

/-- Variant 0 of R124 wraps, variant 1 clamps to the type's range. -/
def result (t : BitVec 6) (rm : BitVec 3) (x : Int) : BitVec 64 :=
  let lo : Int := if signed t then -(2 ^ (width t - 1)) else 0
  let hi : Int := if signed t then 2 ^ (width t - 1) - 1 else 2 ^ width t - 1
  written t (if rm == 1 then max lo (min hi x) else x)

def latency (t : BitVec 6) : Nat := if wide t then 6 else 4

/-- The second operand of format R, or the sign-extended immediate of format I (R122). -/
def second (b : Operand ⊕ BitVec 32) (rd : Rd) (w : Bool) : BitVec 64 :=
  match b with
  | .inl o => rd o w
  | .inr i => i.signExtend 64

/-- An arithmetic form of R125 with two operands. -/
def arith (h : Hints) (d a : Operand) (b : Operand ⊕ BitVec 32) (t : BitVec 6) (rm : BitVec 3) (lat : Nat) (g : Int → Int → Int) : Calc :=
  ⟨h, lat, fun rd => [(d, wide t, result t rm (g (intOf t (rd a (wide t))) (intOf t (second b rd (wide t)))))]⟩

def arithR (f : FR) (g : Int → Int → Int) : Calc := arith f.h f.d f.a (.inl f.b) f.t1 f.rm (latency f.t1) g
def arithI (f : FI) (g : Int → Int → Int) : Calc := arith f.h f.d f.a (.inr f.imm) f.t1 f.rm (latency f.t1) g

/-- The high half of a product (R125). -/
def highHalf (t : BitVec 6) (a b : Int) : Int := (a * b).fdiv (2 ^ width t)

/-- The integer arithmetic of R125 and R126. -/
def integer : Instr → Option Calc
  | .add f => some (arithR f (· + ·))
  | .addI f => some (arithI f (· + ·))
  | .sub f => some (arithR f (· - ·))
  | .subI f => some (arithI f (· - ·))
  | .mul f => some (arithR f (· * ·))
  | .mulI f => some (arithI f (· * ·))
  | .mulhi f => some (arith f.h f.d f.a (.inl f.b) f.t1 f.rm 6 (highHalf f.t1))
  | .mulhiI f => some (arith f.h f.d f.a (.inr f.imm) f.t1 f.rm 6 (highHalf f.t1))
  | .min f => some (arithR f min)
  | .minI f => some (arithI f min)
  | .max f => some (arithR f max)
  | .maxI f => some (arithI f max)
  | .abs f => some ⟨f.h, latency f.t1, fun rd => [(f.d, wide f.t1, result f.t1 f.rm (intOf f.t1 (rd f.a (wide f.t1))).natAbs)]⟩
  | .neg f => some ⟨f.h, latency f.t1, fun rd => [(f.d, wide f.t1, result f.t1 f.rm (-(intOf f.t1 (rd f.a (wide f.t1)))))]⟩
  | .mad f =>
    let w := wide f.t1
    some ⟨f.h, latency f.t1, fun rd =>
      [(f.d, w, result f.t1 f.rm (intOf f.t1 (rd f.a w) * intOf f.t1 (rd f.b w) + intOf f.t1 (rd f.c w)))]⟩
  | .madw f =>
    let l : BitVec 6 := if f.t1 == 2 then 3 else 7
    some ⟨f.h, 6, fun rd =>
      [(f.d, true, result l f.rm (intOf f.t1 (rd f.a false) * intOf f.t1 (rd f.b false) + intOf l (rd f.c true)))]⟩
  | _ => none

/-- A bitwise form of R128, on values of the type's width. -/
def bitwise (h : Hints) (d a : Operand) (b : Operand ⊕ BitVec 32) (t : BitVec 6) (g : BitVec (width t) → BitVec (width t) → BitVec (width t)) :
    Calc :=
  ⟨h, latency t, fun rd => [(d, wide t, (g ((rd a (wide t)).setWidth _) ((second b rd (wide t)).setWidth _)).setWidth 64)]⟩

/-- A shift of R128: the amount is a 32-bit unsigned number. -/
def shift (h : Hints) (d a : Operand) (b : Operand ⊕ BitVec 32) (t : BitVec 6) (g : BitVec (width t) → Nat → BitVec (width t)) : Calc :=
  ⟨h, latency t, fun rd => [(d, wide t, (g ((rd a (wide t)).setWidth _) ((second b rd false).setWidth 32).toNat).setWidth 64)]⟩

/-- The bitwise and shift instructions of R128. -/
def logic : Instr → Option Calc
  | .and f => some (bitwise f.h f.d f.a (.inl f.b) f.t1 (· &&& ·))
  | .andI f => some (bitwise f.h f.d f.a (.inr f.imm) f.t1 (· &&& ·))
  | .or f => some (bitwise f.h f.d f.a (.inl f.b) f.t1 (· ||| ·))
  | .orI f => some (bitwise f.h f.d f.a (.inr f.imm) f.t1 (· ||| ·))
  | .xor f => some (bitwise f.h f.d f.a (.inl f.b) f.t1 (· ^^^ ·))
  | .xorI f => some (bitwise f.h f.d f.a (.inr f.imm) f.t1 (· ^^^ ·))
  | .not f => some ⟨f.h, latency f.t1, fun rd => [(f.d, wide f.t1, (~~~((rd f.a (wide f.t1)).setWidth (width f.t1))).setWidth 64)]⟩
  | .shl f => some (shift f.h f.d f.a (.inl f.b) f.t1 (· <<< ·))
  | .shlI f => some (shift f.h f.d f.a (.inr f.imm) f.t1 (· <<< ·))
  | .shr f => some (shift f.h f.d f.a (.inl f.b) f.t1 (· >>> ·))
  | .shrI f => some (shift f.h f.d f.a (.inr f.imm) f.t1 (· >>> ·))
  | .sar f => some (shift f.h f.d f.a (.inl f.b) f.t1 (·.sshiftRight ·))
  | .sarI f => some (shift f.h f.d f.a (.inr f.imm) f.t1 (·.sshiftRight ·))
  | .rot f => some (shift f.h f.d f.a (.inl f.b) f.t1 (·.rotateLeft ·))
  | .rotI f => some (shift f.h f.d f.a (.inr f.imm) f.t1 (·.rotateLeft ·))
  | _ => none

/-- A value's bits from the top that are 0 before its first 1 (R128). -/
def leadingZeros {w : Nat} (a : BitVec w) : Nat := ((List.range w).takeWhile fun i => !a.getLsbD (w - 1 - i)).length

/-- The position and length of the field of `bfx` and `bfi` (R129). -/
def position (w : Nat) (b c : BitVec 64) : Nat × Nat :=
  let pos := min (b.setWidth 32).toNat w
  (pos, min (c.setWidth 32).toNat (w - pos))

/-- The counts, the reversal and the bit fields of R128 and R129. -/
def fields : Instr → Option Calc
  | .clz f => some ⟨f.h, latency f.t1, fun rd => [(f.d, false, BitVec.ofNat 64 (leadingZeros ((rd f.a (wide f.t1)).setWidth (width f.t1))))]⟩
  | .popc f => some ⟨f.h, latency f.t1, fun rd =>
      [(f.d, false, BitVec.ofNat 64 ((List.range (width f.t1)).filter (rd f.a (wide f.t1)).getLsbD).length)]⟩
  | .brev f => some ⟨f.h, latency f.t1, fun rd =>
      [(f.d, wide f.t1, ((rd f.a (wide f.t1)).setWidth (width f.t1)).reverse.setWidth 64)]⟩
  | .bfx f =>
    let w := width f.t1
    some ⟨f.h, latency f.t1, fun rd =>
      let p := position w (rd f.b false) (rd f.c false)
      let x := (rd f.a (wide f.t1)).extractLsb' p.1 p.2
      [(f.d, wide f.t1, ((if signed f.t1 then x.signExtend w else x.setWidth w)).setWidth 64)]⟩
  | .bfi f =>
    let w := width f.t1
    some ⟨f.h, latency f.t1, fun rd =>
      let p := position w (rd f.b false) (rd f.c false)
      let mask : BitVec w := (BitVec.ofNat w (2 ^ p.2 - 1)) <<< p.1
      let d := (rd f.d (wide f.t1)).setWidth w
      let a := (rd f.a (wide f.t1)).setWidth w
      [(f.d, wide f.t1, ((d &&& ~~~mask) ||| ((a <<< p.1) &&& mask)).setWidth 64)]⟩
  | _ => none

/-- The conditions of `cmp` (R127). -/
def holds (rm : BitVec 3) (a b : Int) : Bool :=
  if rm = 0 then a = b else if rm = 1 then a ≠ b else if rm = 2 then a < b else if rm = 3 then a ≤ b else if rm = 4 then a > b else a ≥ b

def bit (b : Bool) : BitVec 64 := if b then 1 else 0

/-- Comparison, selection and address arithmetic (R127, R130, R131). -/
def compare : Instr → Option Calc
  | .cmp f => some ⟨f.h, latency f.t1, fun rd =>
      [(f.d, false, bit (holds f.rm (intOf f.t1 (rd f.a (wide f.t1))) (intOf f.t1 (rd f.b (wide f.t1)))))]⟩
  | .cmpI f => some ⟨f.h, latency f.t1, fun rd =>
      [(f.d, false, bit (holds f.rm (intOf f.t1 (rd f.a (wide f.t1))) (intOf f.t1 (f.imm.signExtend 64))))]⟩
  | .sel f => some ⟨f.h, latency f.t1, fun rd => [(f.d, wide f.t1, if rd f.c false = 1 then rd f.a (wide f.t1) else rd f.b (wide f.t1))]⟩
  | .lea f => some ⟨f.h, latency f.t1, fun rd =>
      [(f.d, true, BitVec.ofInt 64 ((rd f.a true).toNat + intOf f.t1 (rd f.b (wide f.t1)) * 2 ^ f.rm.toNat))]⟩
  | .leaI f => some ⟨f.h, latency f.t1, fun rd =>
      [(f.d, true, BitVec.ofInt 64 ((rd f.a true).toNat + intOf f.t1 (f.imm.signExtend 64) * 2 ^ f.rm.toNat))]⟩
  | _ => none

/-- The moves of R132; `after` is the second register of a pair. -/
def moves : Instr → Option Calc
  | .mov f => some ⟨f.h, latency f.t1, fun rd => [(f.d, wide f.t1, rd f.a (wide f.t1))]⟩
  | .movk f => some ⟨f.h, latency f.t1, fun rd =>
      let mask := 0xFFFF#64 <<< (16 * f.rm.toNat)
      [(f.d, wide f.t1, (rd f.d (wide f.t1) &&& ~~~mask) ||| (f.xf.setWidth 64 <<< (16 * f.rm.toNat)))]⟩
  | .ldi f => some ⟨f.h, latency f.t1, fun _ => [(f.d, wide f.t1, f.imm.signExtend 64)]⟩
  | .ldiHi f => some ⟨f.h, 6, fun _ => [(match f.d with | .v i => .v (i + 1) | .k i => .k (i + 1) | o => o, false, f.imm.setWidth 64)]⟩
  | .gets f => some ⟨f.h, latency f.t1, fun rd => [(f.d, wide f.t1, rd f.a (wide f.t1))]⟩
  | _ => none

/-- The predicate forms of R133; a predicate operand reads as 0 or 1, and `.p 0` with the flag set stands for the whole word. -/
def predicates : Instr → Option Calc
  | .pand f => some ⟨f.h, 4, fun rd => [(f.d, false, bit (rd f.a false = 1 ∧ rd f.b false = 1))]⟩
  | .por f => some ⟨f.h, 4, fun rd => [(f.d, false, bit (rd f.a false = 1 ∨ rd f.b false = 1))]⟩
  | .pxor f => some ⟨f.h, 4, fun rd => [(f.d, false, bit (rd f.a false ≠ rd f.b false))]⟩
  | .pnot f => some ⟨f.h, 4, fun rd => [(f.d, false, bit (rd f.a false ≠ 1))]⟩
  | .pmov f => some ⟨f.h, 4, fun rd => [(f.d, false, bit (rd f.a false = 1))]⟩
  | .pmovWRead f => some ⟨f.h, 4, fun rd =>
      [(f.d, false, BitVec.ofNat 64 (((List.range 16).filter fun n => rd (.p (BitVec.ofNat 4 n)) false = 1).map (2 ^ ·)).sum)]⟩
  | .pmovWWrite f => some ⟨f.h, 4, fun rd =>
      (List.range 15).map fun n => (.p (BitVec.ofNat 4 (n + 1)), false, bit ((rd f.a false).getLsbD (n + 1)))⟩
  | _ => none

/-- The results of an instruction's active lanes. -/
def outs (k : Calc) (s : State) (i : Instr) : List (Nat × List Result) :=
  (s.issueCtx i k.h).act.map fun fid => (fid, k.outs fun o w => (s.issueCtx i k.h).rd (s.landed i k.h) fid w o)

/-- In every state in which the instruction issues regularly and its lanes agree on a uniform destination, exec answers the state in which
every active fibre is owed its results, due after the latency, the gang has gone on, and all else is as it was (R52, R54, R55, R103,
R121). -/
def Computes (table : Instr → Option Calc) : Prop :=
  ∀ (s : State) (i : Instr) (k : Calc), table i = some k → wf i = true → s.issues i k.h = true → outsAgree (outs k s i) = true →
    State.becomes (exec i s) s.cur.core
      (((s.landed i k.h).owed (s.issueCtx i k.h) (.at (s.now s.cur.core + k.lat)) (outs k s i)).advanced (s.issueCtx i k.h) k.h)

end Sys2Proof.Spec

open Sys2Proof.Spec

/-- R125-R127, R130, R131. Integer arithmetic, comparisons, selects and address arithmetic. -/
def Obligations.IntegerAndCompare : Prop := Computes integer ∧ Computes compare

/-- R128, R129. Bitwise operations, shifts and bit fields. -/
def Obligations.BitOperations : Prop := Computes logic ∧ Computes fields

/-- R132, R133. Moves, and the predicate registers. -/
def Obligations.MovesAndPredicates : Prop := Computes moves ∧ Computes predicates
namespace Sys2Proof.Spec

open Sys2Proof Sys2Proof.Machine

-- floating point (R134-R147)

/-- What a lane of a float instruction has to work with: its operands and registers, the two entries, and `SrBits` by element (R82). -/
structure Lane where
  rd : Rd
  reg : Nat → BitVec 32
  t1 : Fmt
  t2 : Fmt
  sr : Nat → Nat

/-- A float instruction: its fields, its latency (R54), whether its entries are accepted (R134, R136, R141), and a lane's results and
counts. -/
structure FCalc where
  f : FR
  lat : Nat
  ok : Fmt → Fmt → Bool
  lane : Lane → List Result × Cnt

/-- One element of R135: decoded by T1, computed exactly, encoded by T2 with one rounding; its counts are those of both. -/
def element (l : Lane) (mode e : Nat) (g : List Val → Val) (codes : List Nat) : Nat × Cnt :=
  let ins := codes.map l.t1.decodeIn
  let r := l.t2.encode (g (ins.map (·.1))) mode (l.sr e)
  (r.1, ins.foldl (fun c i => c.add i.2) r.2)

/-- A scalar form: one element in the low bits (R134). -/
def scalar (f : FR) (srcs : List Operand) (mode : Nat) (g : Nat → List Val → Val) (l : Lane) : List Result × Cnt :=
  let r := element l mode 0 (g (l.sr 0)) (srcs.map fun o => (l.rd o false).toNat % 2 ^ l.t1.w)
  ([(f.d, false, BitVec.ofNat 64 r.1)], r.2)

/-- A packed form: elements 0 and 1 in the halves of a register (R136). -/
def packed (f : FR) (srcs : List Operand) (mode : Nat) (g : Nat → List Val → Val) (l : Lane) : List Result × Cnt :=
  let a := element l mode 0 (g (l.sr 0)) (srcs.map fun o => ((l.rd o false).extractLsb' 0 16).toNat)
  let b := element l mode 1 (g (l.sr 1)) (srcs.map fun o => ((l.rd o false).extractLsb' 16 16).toNat)
  ([(f.d, false, BitVec.ofNat 64 (a.1 + 2 ^ 16 * b.1))], a.2.add b.2)

def isFloat (e : Fmt) : Bool := e.cls == 0

/-- An arithmetic form in both shapes. -/
def form (f : FR) (pk : Bool) (lat : Nat) (srcs : List Operand) (mode : Nat) (g : Nat → List Val → Val) : FCalc :=
  ⟨f, lat, fun a b => isFloat a && isFloat b && (!pk || (a.w == 16 && b.w == 16)), if pk then packed f srcs mode g else scalar f srcs mode g⟩

/-- Two operands, and the function on their values. -/
def two (f : FR) (pk : Bool) (g : Val → Val → Val) : FCalc :=
  form f pk 4 [f.a, f.b] f.rm.toNat fun _ l => g (l.getD 0 .nan) (l.getD 1 .nan)

/-- A function of R139. -/
def one (f : FR) (pk : Bool) (g : Fun) : FCalc := form f pk 10 [f.a] f.rm.toNat fun _ l => g.eval (l.getD 0 .nan)

def fma (f : FR) (pk : Bool) : FCalc :=
  form f pk 4 [f.a, f.b, f.c] f.rm.toNat fun _ l => ((l.getD 0 .nan).mul (l.getD 1 .nan)).add (l.getD 2 .nan) f.rm.toNat

/-- `frnd` (R140): rounded to an integral value by the mode, then encoded to nearest. -/
def rnd (f : FR) (pk : Bool) : FCalc :=
  form f pk 4 [f.a] 0 fun sr l => match l.getD 0 .nan with
    | .fin s n d => .fin s (roundInt n d (dirOf f.rm.toNat s) sr) 1
    | v => v

/-- The arithmetic of R137, R139 and R140. -/
def float : Instr → Option FCalc
  | .fadd f => some (two f false fun a b => a.add b f.rm.toNat)
  | .faddPk f => some (two f true fun a b => a.add b f.rm.toNat)
  | .fsub f => some (two f false fun a b => a.add b.neg f.rm.toNat)
  | .fsubPk f => some (two f true fun a b => a.add b.neg f.rm.toNat)
  | .fmul f => some (two f false Val.mul)
  | .fmulPk f => some (two f true Val.mul)
  | .ffma f => some (fma f false)
  | .ffmaPk f => some (fma f true)
  | .fmin f => some (two f false fun a b => a.minMax b false)
  | .fminPk f => some (two f true fun a b => a.minMax b false)
  | .fmax f => some (two f false fun a b => a.minMax b true)
  | .fmaxPk f => some (two f true fun a b => a.minMax b true)
  | .frcp f => some (one f false .rcp)
  | .frcpPk f => some (one f true .rcp)
  | .frsq f => some (one f false .rsq)
  | .frsqPk f => some (one f true .rsq)
  | .fsqrt f => some (one f false .sqrt)
  | .fsqrtPk f => some (one f true .sqrt)
  | .fexp2 f => some (one f false .exp2)
  | .fexp2Pk f => some (one f true .exp2)
  | .flog2 f => some (one f false .log2)
  | .flog2Pk f => some (one f true .log2)
  | .fsin f => some (one f false .sin)
  | .fsinPk f => some (one f true .sin)
  | .fcos f => some (one f false .cos)
  | .fcosPk f => some (one f true .cos)
  | .ftanh f => some (one f false .tanh)
  | .ftanhPk f => some (one f true .tanh)
  | .frnd f => some (rnd f false)
  | .frndPk f => some (rnd f true)
  | _ => none

/-- The value of an element, scaled by a power of two (R83, R142). -/
def converted (l : Lane) (mode e : Nat) (n : Int) (code : Nat) : Nat × Cnt :=
  element l mode e (fun v => (v.getD 0 .nan).scale n) [code]

/-- Bits [w e + w - 1 : w e] of a register. -/
def slot (v : BitVec 64) (w e : Nat) : Nat := (v.extractLsb' (w * e) w).toNat

def narrow (e : Fmt) : Bool := decide (e.w ≤ 16)

/-- The scalar conversion of R141 and R142. -/
def conversion (f : FR) (n : Rd → Int) : FCalc :=
  ⟨f, 6, fun _ _ => true, fun l =>
    let r := converted l f.rm.toNat 0 (n l.rd) ((l.rd f.a (l.t1.w == 64)).toNat % 2 ^ l.t1.w)
    ([(f.d, l.t2.w == 64, BitVec.ofNat 64 r.1)], r.2)⟩

/-- The bit position of pair `j` of elements of width `w` (R143, R144). -/
def pairAt (w : Nat) (j : BitVec 64) : Nat := 2 * w * ((j.setWidth 32).toNat % (32 / w / 2))

/-- The conversions of R141 to R144. -/
def convert : Instr → Option FCalc
  | .cvt f => some (conversion f fun _ => 0)
  | .cvti f => some (conversion f fun rd => ((rd f.b false).setWidth 32).toInt)
  | .cvtPk f => some ⟨f, 6, fun a b => narrow a && narrow b, fun l =>
      let v := l.rd f.a false
      let x := converted l f.rm.toNat 0 0 (slot v l.t1.w 0)
      let y := converted l f.rm.toNat 1 0 (slot v l.t1.w 1)
      ([(f.d, false, BitVec.ofNat 64 (x.1 + 2 ^ l.t2.w * y.1))], x.2.add y.2)⟩
  | .pk f => some ⟨f, 6, fun a b => decide (a.w ≤ 32) && narrow b, fun l =>
      let p := pairAt l.t2.w (l.rd f.c false)
      let x := converted l f.rm.toNat 0 0 ((l.rd f.a false).toNat % 2 ^ l.t1.w)
      let y := converted l f.rm.toNat 1 0 ((l.rd f.b false).toNat % 2 ^ l.t1.w)
      let mask : BitVec 64 := BitVec.ofNat 64 (2 ^ (2 * l.t2.w) - 1) <<< p
      let d := ((l.rd f.d false).setWidth 32).setWidth 64
      ([(f.d, false, (d &&& ~~~mask) ||| (BitVec.ofNat 64 (x.1 + 2 ^ l.t2.w * y.1) <<< p))], x.2.add y.2)⟩
  | .upk f => some ⟨f, 6, fun a b => narrow a && decide (b.w ≤ 32), fun l =>
      let v := (l.rd f.a false) >>> pairAt l.t1.w (l.rd f.b false)
      let x := converted l f.rm.toNat 0 0 (slot v l.t1.w 0)
      let y := converted l f.rm.toNat 0 0 (slot v l.t1.w 1)
      ([(f.d, true, BitVec.ofNat 64 (x.1 + 2 ^ 32 * y.1))], x.2.add y.2)⟩
  | _ => none

/-- The entry that an index names in the gang's team. -/
def entry (s : State) (i : Instr) (h : Hints) (n : BitVec 6) : Fmt := Fmt.of ((s.issueTeam i h).tar n.toNat)

/-- A lane of a float instruction. -/
def laneOf (k : FCalc) (s : State) (i : Instr) (fid : Nat) : Lane where
  rd o w := (s.issueCtx i k.f.h).rd (s.landed i k.f.h) fid w o
  reg n := (((s.landed i k.f.h).fibre? s.cur.core s.cur.slot fid).getD Fibre.blank).reg n
  t1 := entry s i k.f.h k.f.t1
  t2 := entry s i k.f.h k.f.t2
  sr e := (s.issueCtx i k.f.h).sr (s.landed i k.f.h) fid e

/-- The lanes' results, and the counts of all of them. -/
def fouts (k : FCalc) (s : State) (i : Instr) : List (Nat × List Result) :=
  (s.issueCtx i k.f.h).act.map fun fid => (fid, (k.lane (laneOf k s i fid)).1)
def fcount (k : FCalc) (s : State) (i : Instr) : Cnt :=
  (s.issueCtx i k.f.h).act.foldl (fun c fid => c.add (k.lane (laneOf k s i fid)).2) .zero

/-- What a float instruction comes to: the results owed, the counts added when they land (R87), and with RM code 4 `SRSTEP` advanced in
each active fibre (R82). -/
def floatEffect (k : FCalc) (s : State) (i : Instr) : State :=
  let x := s.issueCtx i k.f.h
  let due := s.now s.cur.core + k.lat
  let e := ((s.landed i k.f.h).owed x (.at due) (fouts k s i)).modTeam s.cur.core s.cur.slot (·.countLater due (fcount k s i) x.act)
  if k.f.rm = 4 then e.modTeam s.cur.core s.cur.slot (·.modGang x.act fun f => { f with srstep := f.srstep + 1 }) else e

/-- In every state in which the instruction issues regularly, its entries are legal and accepted, its register pairs fit (R141) and no NaN
is to be trapped (R88), exec answers the state with its effect, the gang gone on, and all else as it was. -/
def FloatComputes (table : Instr → Option FCalc) : Prop :=
  ∀ (s : State) (i : Instr) (k : FCalc), table i = some k → wf i = true → s.issues i k.f.h = true →
    (entry s i k.f.h k.f.t1).legal = true → (entry s i k.f.h k.f.t2).legal = true →
    k.ok (entry s i k.f.h k.f.t1) (entry s i k.f.h k.f.t2) = true →
    pairBad (s.issueCtx i k.f.h) (s.landed i k.f.h) (entry s i k.f.h k.f.t2) k.f.d = [] →
    pairBad (s.issueCtx i k.f.h) (s.landed i k.f.h) (entry s i k.f.h k.f.t1) k.f.a = [] →
    (s.issueTeam i k.f.h).trapsNan = false → outsAgree (fouts k s i) = true →
    State.becomes (exec i s) s.cur.core ((floatEffect k s i).advanced (s.issueCtx i k.f.h) k.f.h)

end Sys2Proof.Spec

/-- R134-R137, R139, R140. -/
def Obligations.FloatArithmetic : Prop := FloatComputes float

/-- R141-R144. -/
def Obligations.Conversions : Prop := FloatComputes convert

namespace Sys2Proof.Spec

open Sys2Proof Sys2Proof.Machine

/-- In every state in which the instruction issues regularly and `pre` holds of what it finds, exec answers the state that `eff` gives, each
fibre of the gang having gone where `go` takes it, and nothing else has changed. -/
def Ends (i : Instr) (h : Hints) (pre : Ctx → State → Prop) (eff : Ctx → State → State) (go : Ctx → State → Fibre → Fibre) : Prop :=
  ∀ s : State, wf i = true → s.issues i h = true → pre (s.issueCtx i h) (s.landed i h) →
    State.becomes (exec i s) s.cur.core ((eff (s.issueCtx i h) (s.landed i h)).proceed (s.issueCtx i h) h (go (s.issueCtx i h) (s.landed i h)))

/-- The whole gang goes on to the next instruction. -/
def on : Ctx → State → Fibre → Fibre := fun _ _ f => f.advance

/-- The active fibres have gone on already, or wait where they are; the others go on. -/
def othersOn : Ctx → State → Fibre → Fibre := fun x _ f => if f.fid ∈ x.act then f else f.advance

def same : Ctx → State → State := fun _ s => s

-- lane instructions (R160, R161)

/-- A participant: its lane, and what its operands read. -/
abbrev Part := Nat × Rd

/-- The results of a lane instruction: from all participants and one's own place among them. -/
structure LaneCalc where
  h : Hints
  outs : List Part → Part → List Result

/-- `shfl`: the A of the source lane, or one's own where no participant is there. -/
def exchange (f : FR) (src : Nat → BitVec 32 → Int) : LaneCalc :=
  ⟨f.h, fun ps me =>
    let from? := ps.find? fun p => (p.1 : Int) == src me.1 ((me.2 f.b false).setWidth 32)
    [(f.d, wide f.t1, (from?.getD me).2 f.a (wide f.t1))]⟩

/-- The lanes of the participants that `p` selects, as a mask. -/
def lanesWhere (ps : List Part) (p : Part → Bool) : BitVec 64 := BitVec.ofNat 64 (maskOf ((ps.filter p).map (·.1)))

def voted (f : FR) (p : Part) : Bool := p.2 f.a false == 1

/-- `op` over the values of some participants, its identity where there is none (R161). -/
def folded (op : RedOp) (t : BitVec 6) (vs : List (BitVec 64)) : BitVec 64 :=
  let w := width t
  let us := vs.map fun v => v.setWidth w
  let lo : Int := if signed t then -(2 ^ (w - 1)) else 0
  let hi : Int := if signed t then 2 ^ (w - 1) - 1 else 2 ^ w - 1
  match op with
  | .add => (us.foldl (· + ·) 0).setWidth 64
  | .and => (us.foldl (· &&& ·) (BitVec.allOnes w)).setWidth 64
  | .or => (us.foldl (· ||| ·) 0).setWidth 64
  | .xor => (us.foldl (· ^^^ ·) 0).setWidth 64
  | .min => (BitVec.ofInt w ((vs.map (intOf t)).foldl min hi)).setWidth 64
  | .max => (BitVec.ofInt w ((vs.map (intOf t)).foldl max lo)).setWidth 64

def gathered (op : RedOp) (f : FR) (p : Nat → Nat → Bool) : LaneCalc :=
  ⟨f.h, fun ps me => [(f.d, wide f.t1, folded op f.t1 ((ps.filter fun q => p q.1 me.1).map fun q => q.2 f.a (wide f.t1)))]⟩

/-- The participants whose A equals one's own. -/
def equals (f : FR) (me p : Part) : Bool :=
  (me.2 f.a (wide f.t1)).setWidth (width f.t1) == (p.2 f.a (wide f.t1)).setWidth (width f.t1)

/-- The lane instructions of R160. -/
def lanes : Instr → Option LaneCalc
  | .shflPick f => some (exchange f fun _ b => (b.extractLsb' 0 5).toNat)
  | .shflShift f => some (exchange f fun l b => l + b.toInt)
  | .shflRot f => some (exchange f fun l b => (l + b.toInt).emod 32)
  | .shflMir f => some (exchange f fun l b => ((l ^^^ (b.extractLsb' 0 5).toNat : Nat) : Int))
  | .voteEvery f => some ⟨f.h, fun ps _ => [(f.d, false, bit (ps.all (voted f)))]⟩
  | .voteSome f => some ⟨f.h, fun ps _ => [(f.d, false, bit (ps.any (voted f)))]⟩
  | .voteMask f => some ⟨f.h, fun ps _ => [(f.d, false, lanesWhere ps (voted f))]⟩
  | .voteCount f => some ⟨f.h, fun ps _ => [(f.d, false, BitVec.ofNat 64 (ps.filter (voted f)).length)]⟩
  | .redux op f => some (gathered op f fun _ _ => true)
  | .scan op f => some (gathered op f fun l me => decide (l ≤ me))
  | .scanEx op f => some (gathered op f fun l me => decide (l < me))
  | .matchPeers f => some ⟨f.h, fun ps me => [(f.d, false, lanesWhere ps (equals f me))]⟩
  | .matchFirst f => some ⟨f.h, fun ps me =>
      [(f.d, false, BitVec.ofNat 64 (((ps.filter (equals f me)).map (·.1)).foldl min me.1))]⟩
  | .matchSame f => some ⟨f.h, fun ps me => [(f.d, false, bit (ps.all (equals f me)))]⟩
  | _ => none

/-- The participants of the instruction that is issued, with their fibres. -/
def parts (s : State) (i : Instr) (h : Hints) : List (Nat × Part) :=
  (s.issueCtx i h).act.map fun fid =>
    (fid, (((s.landed i h).fibre? s.cur.core s.cur.slot fid).map (·.lane)).getD 0, fun o w => (s.issueCtx i h).rd (s.landed i h) fid w o)

def louts (k : LaneCalc) (s : State) (i : Instr) : List (Nat × List Result) :=
  (parts s i k.h).map fun p => (p.1, k.outs ((parts s i k.h).map (·.2)) p.2)

-- branches (R149)

/-- The active fibres continue at an address of their own, the others in sequence. -/
def jumping (target : Ctx → State → Nat → BitVec 56) : Ctx → State → Fibre → Fibre :=
  fun x s f => if f.fid ∈ x.act then { f with pc := target x s f.fid, bpskip := false } else f.advance

/-- The target of format C (R50). -/
def relative (off : BitVec 32) : Ctx → State → Nat → BitVec 56 := fun x _ _ => BitVec.ofInt 56 (x.pc.toNat + 4 * off.toInt)

/-- A result for one fibre, known at once and of variable latency (R54). -/
def State.owe1 (s : State) (x : Ctx) (fid : Nat) (d : Operand) (w : Bool) (v : BitVec 64) : State :=
  s.owed x .ready [(fid, [(d, w, v)])]

/-- A trap of the only active fibre that a handler takes: no handler runs in it, `TMASK` names the cause, no region is open and no debugger
takes the stop (R169). -/
def handled (x : Ctx) (s : State) (fid : Nat) (c : Cause) : Prop :=
  x.act = [fid] ∧ ∃ t f, s.team? x.core x.slot = some t ∧ t.fibre? fid = some f ∧ f.inh = false ∧ f.region = none ∧
    t.tmask.getLsbD c.code = true ∧ t.dbg.ctl.getLsbD 0 = false

end Sys2Proof.Spec

/-- R160, R161: each participant is owed its result after 10 cycles (R54). -/
def Obligations.LaneInstructions : Prop :=
  ∀ (s : State) (i : Instr) (k : LaneCalc), lanes i = some k → wf i = true → s.issues i k.h = true → outsAgree (louts k s i) = true →
    State.becomes (exec i s) s.cur.core
      (((s.landed i k.h).owed (s.issueCtx i k.h) (.at (s.now s.cur.core + 10)) (louts k s i)).advanced (s.issueCtx i k.h) k.h)

/-- R53, R158, R215: these change nothing but that the gang goes on. -/
def Sys2Proof.Spec.NoEffect : Prop :=
  (∀ f, Ends (.nop f) f.h (fun _ _ => True) same on) ∧ (∀ f, Ends (.yield f) f.h (fun _ _ => True) same on) ∧
  ∀ f, Ends (.prfL2 f) f.h (fun _ _ => True) same on

/-- R50, R149. -/
def Sys2Proof.Spec.Branches : Prop :=
  (∀ f, Ends (.bra f) f.h (fun _ _ => True) same (jumping (relative f.off))) ∧
  ∀ f, Ends (.brx f) f.h (fun _ _ => True) same (jumping fun x s fid => (x.rd s fid true f.a).setWidth 56)

/-- R50, R53, R149, R158, R215. The instructions without an effect, and the branches. -/
def Obligations.NoEffectAndBranches : Prop := NoEffect ∧ Branches

/-- R149: a call in one fibre enters the return address into the store buffer at *sp* - 8, and *sp* receives that address; a return reads
the record at *sp* and *sp* rises by 8. -/
def Obligations.CallsAndReturns : Prop :=
  (∀ (i : Instr) (h : Hints) (d : Operand) (target : Ctx → State → Nat → BitVec 56) (fid : Nat) (l : Leaf) (e : State),
    ((∃ f, i = .call f ∧ h = f.h ∧ d = f.d ∧ target = relative f.off) ∨
      (∃ f, i = .calli f ∧ h = f.h ∧ d = f.d ∧ target = fun x s fid => (x.rd s fid true f.a).setWidth 56)) →
    ∀ s : State, wf i = true → s.issues i h = true →
      let x := s.issueCtx i h
      let s' := s.landed i h
      let a := x.rd s' fid true d - 8
      x.act = [fid] → l.apt < 4 → (∃ t, s'.team? x.core x.slot = some t ∧ s'.judgeRecord x.core t fid a.toNat = .go l) →
      s'.enterStores x.core x.slot x.pc none [⟨fid, a.toNat, 8, (x.pc + 12).toNat, l⟩] = some e →
      State.becomes (exec i s) s.cur.core ((State.owe1 e x fid d true a).proceed x h (jumping target x s'))) ∧
  (∀ (f : FR) (fid : Nat) (l : Leaf), ∀ s : State, wf (.ret f) = true → s.issues (.ret f) f.h = true →
      let x := s.issueCtx (.ret f) f.h
      let s' := s.landed (.ret f) f.h
      let sp := x.rd s' fid true f.d
      x.act = [fid] → l.apt < 4 → (∃ t, s'.team? x.core x.slot = some t ∧ s'.judgeRead x.core t fid sp.toNat 8 .read = .go l) →
      s'.readHeld x.core x.slot fid sp.toNat 8 l = false →
      let pa := l.phys sp.toNat
      let r := s'.loadSector x.core x.slot fid s'.uid l (sectorOf pa)
      State.becomes (exec (.ret f) s) s.cur.core
        ((State.owe1 r.2 x fid f.d true (sp + 8)).proceed x f.h (jumping (fun _ _ _ => BitVec.ofNat 56 (r.1 / 2 ^ (8 * (pa % 32)))) x s')))

/-- R159: the fibre completes the instruction and takes the trap, with the code in `INFO`. -/
def Obligations.SoftwareTraps : Prop :=
  (∀ (f : FI) (s : State) (fid : Nat), wf (.trap f) = true → s.issues (.trap f) f.h = true →
    let x := s.issueCtx (.trap f) f.h
    handled x (s.landed (.trap f) f.h) fid .softwareTrap →
    ∃ inrep, State.becomes (exec (.trap f) s) s.cur.core (((s.landed (.trap f) f.h).advanced x f.h).takeTrap x.core x.slot fid x.pc inrep
      (laneMask (s.issueTeam (.trap f) f.h) [fid]) { cause := .softwareTrap, info := f.imm.setWidth 64, next := true })) ∧
  (∀ (f : FI) (s : State) (fid : Nat), wf (.brk f) = true → s.issues (.brk f) f.h = true →
    let x := s.issueCtx (.brk f) f.h
    handled x (s.landed (.brk f) f.h) fid .breakpoint →
    ∃ inrep, State.becomes (exec (.brk f) s) s.cur.core (((s.landed (.brk f) f.h).advanced x f.h).takeTrap x.core x.slot fid x.pc inrep
      (laneMask (s.issueTeam (.brk f) f.h) [fid]) { cause := .breakpoint, info := f.imm.setWidth 64, next := true }))

/-- R60, R168, R169: a trap that a handler takes writes its record, sets the handler flag, and continues at `TVEC`; nothing else of the fibre
changes but that fixed-latency results have landed and a repetition and a wait are over. -/
def Obligations.TrapEntry : Prop :=
  ∀ (s : State) (c slot fid : Nat) (ipc : BitVec 56) (inrep : Bool) (lm : BitVec 32) (tr : Trap) (t : Team) (f : Fibre),
    s.team? c slot = some t → t.fibre? fid = some f → f.inh = false → f.region = none → t.tmask.getLsbD tr.cause.code = true →
    (tr.cause.debugger && t.dbg.ctl.getLsbD 0) = false →
    (s.takeTrap c slot fid ipc inrep lm tr).bare c =
      (((s.settle c slot (· == fid)).writeVirt c t.ctx t.world (t.frbase + 0x1000 + 64 * f.fid)
          (trapRecord f.settle (tr.ipc.getD ipc) (tr.rpc.getD f.settle.pc) (tr.inrep.getD inrep) true (tr.lmask.getD lm) (s.now c) tr)).modFibre
        c slot fid fun g => { g with inh := true, pc := t.tvec.setWidth 56, rep := none, wait := none, bpskip := false }).bare c

/-- R170: a return from a handler takes `PC`, `PRED` and, at a repeat prefix, `RC` from the fibre's record; the word at `RPC` is read as a
fetch reads it. Where no earlier instruction has still to write a predicate, all of `PRED`[15:1] is the record's at once. -/
def Obligations.ReturnFromHandler : Prop :=
  (∀ (f : FR) (s : State) (fid : Nat) (e : State) (pre : Bool), wf (.retTrap f) = true → s.issues (.retTrap f) f.h = true →
    let x := s.issueCtx (.retTrap f) f.h
    let s' := s.landed (.retTrap f) f.h
    let t := s.issueTeam (.retTrap f) f.h
    let ra := t.frbase + 0x1000 + 64 * fid
    let bs := (s'.readOwn x.core t fid ra 2).2
    let rpc := BitVec.ofNat 56 (field bs 8 8)
    let flags := field bs 31 1
    x.act = [fid] → (∃ g, t.fibre? fid = some g ∧ g.inh = true) →
    ((s'.core x.core).sb.any fun e => e.slot == x.slot && e.kind.fids.contains fid &&
      (e.va / 32 * 32 == ra / 32 * 32 || e.va / 32 * 32 == ra / 32 * 32 + 32)) = false →
    ((∃ w, (s'.readOwn x.core t fid ra 2).1.fetch x.core t rpc = .word w e ∧ pre = (w.setWidth 8 == 0x6F)) ∨
      (pre = false ∧ ∃ tr, (s'.readOwn x.core t fid ra 2).1.fetch x.core t rpc = .fault tr e)) →
    State.becomes (exec (.retTrap f) s) s.cur.core
      (((({ e with uid := e.uid + 1 } : State).modFibre x.core x.slot fid fun g =>
          { g.restorePred (BitVec.ofNat 16 (field bs 36 2)) e.uid with
            inh := false, rep := none, rc := if pre then BitVec.ofNat 32 (field bs 32 4) else 0 }).writeVirt x.core t.ctx
          t.world (ra + 31) (leBytes (flags - flags / 4 % 2 * 4) 1)).proceed x f.h fun g =>
        if g.fid ∈ x.act then { g with pc := rpc, bpskip := flags.testBit 2 } else g.advance)) ∧
  ∀ (g : Fibre) (v : BitVec 16) (id : Nat), (∀ w ∈ g.pend, ∀ n, w.loc ≠ .p n) → g.pred.getLsbD 0 = true →
    g.restorePred v id = { g with pred := v ||| 1 }

/-- R115, R157: an active fibre that executes `exit` is no fibre of its team any more. -/
def Sys2Proof.Spec.Exit : Prop :=
  (∀ f, Ends (.exit f) f.h (fun _ _ => True) (fun x s => x.act.foldl (fun s fid => s.endFibre x.core x.slot fid false) s) othersOn) ∧
  ∀ (s : State) (c slot fid : Nat) (killed : Bool), (s.endFibre c slot fid killed).fibre? c slot fid = none

/-- R96-R98, R101, R156: one fibre's fork, in a gang whose fibres have numbers below the next (R96), creates the fibres it asks for, with
consecutive numbers, or none and all ones in D. -/
def Sys2Proof.Spec.Fork : Prop :=
  (∀ f fid, Ends (.fork f) f.h
    (fun x s => x.act = [fid] ∧ ∃ t, s.team? x.core x.slot = some t ∧
      let n := (x.rd s fid false f.a).toNat % 2 ^ 32
      n = 0 ∨ 1024 < n ∨ 32767 < t.nextFid + n - 1)
    (fun x s => State.owe1 s x fid f.d false 0xFFFFFFFF) on) ∧
  (∀ f fid, ∀ places : List (Nat × Nat), ∀ (t : Team) (g : Fibre), ∀ s : State, wf (.fork f) = true → s.issues (.fork f) f.h = true →
    let x := s.issueCtx (.fork f) f.h
    let s' := s.landed (.fork f) f.h
    let n := (x.rd s' fid false f.a).toNat % 2 ^ 32
    let size := 8 * ((f.cm.extractLsb' 0 5).toNat + 1)
    x.act = [fid] → s'.team? x.core x.slot = some t → (∀ k ∈ x.gang, k < t.nextFid) → t.fibre? fid = some g → 0 < n → n ≤ 1024 → t.nextFid + n - 1 ≤ 32767 →
    s'.relReady x.core x.slot fid = true → (s'.core x.core).fibreCount + n ≤ 1024 →
    placeAll (List.replicate n size) 0 (s'.core x.core).windows = some places →
    ∃ e, exec (.fork f) s = .next e ∧ ∃ t', e.team? x.core x.slot = some t' ∧ t'.nextFid = t.nextFid + n ∧
      t'.fibres.length = t.fibres.length + n ∧
      (∀ j p, places[j]? = some p → ∃ k, t'.fibres[t.fibres.length + j]? = some k ∧ k.fid = t.nextFid + j ∧ k.role = g.role ∧
        k.pc = relative f.off x s' fid ∧ k.lane = p.1 ∧ k.wbase = p.2 ∧ k.wsize = size ∧ k.bmem = 0 ∧
        k.regs = BitVec.ofNat 32 j :: (x.rd s' fid false f.b).setWidth 32 :: List.replicate (size - 2) 0) ∧
      (t'.fibre? fid).map (·.pend) = some (g.pend ++ owedTo .ready s'.uid (f.d, false, BitVec.ofNat 64 t.nextFid)))

/-- R96-R98, R101, R115, R156, R157. The end of a fibre, and the creation of fibres. -/
def Obligations.ExitAndFork : Prop := Exit ∧ Fork

/-- R153: a count of 0 leaves the pair out; else, the second word found well formed, the fibres of a gang that is to run the pair hold the
count and the strides and issue the first iteration in the same cycle, and where `RC` has reached the count the pair is complete. -/
def Obligations.RepeatPrefix : Prop :=
  (∀ f : FP, ∀ s : State, wf (.rep f) = true → s.issues (.rep f) ⟨0, false, 0, false, false⟩ = true →
    let h : Hints := ⟨0, false, 0, false, false⟩
    let x := s.issueCtx (.rep f) h
    let s' := s.landed (.rep f) h
    (x.rdU s' false f.a).setWidth 32 = 0 → (∀ fid g, (s'.fibre? x.core x.slot fid) = some g → g.rep = none) →
    State.becomes (exec (.rep f) s) s.cur.core (s'.proceed x h fun g => { g with pc := x.pc + 24, bpskip := false })) ∧
  (∀ (f : FP) (w : IWord), ∀ s : State, wf (.rep f) = true → s.issues (.rep f) ⟨0, false, 0, false, false⟩ = true →
    let h : Hints := ⟨0, false, 0, false, false⟩
    let x := s.issueCtx (.rep f) h
    let s' := s.landed (.rep f) h
    let t := s.issueTeam (.rep f) h
    let n := ((x.rdU s' false f.a).setWidth 32).toNat
    s.fetch x.core t (x.pc + 12) = .word w s → pairCheck (s.context t.ctx).supervisor t x.gang f w = none →
    ((∀ fid ∈ x.gang, ∃ g, t.fibre? fid = some g ∧ g.rc.toNat < n) →
      ∃ e, exec (.rep f) s = .next e ∧ ∀ fid ∈ x.gang, ∀ g, t.fibre? fid = some g →
        e.fibre? x.core x.slot fid = some { g with rep := some ⟨n, f.dstr, f.astr, f.bstr, f.cstr⟩, ready := s.now s.cur.core }) ∧
    (0 < n → (∀ fid ∈ x.gang, ∃ g, t.fibre? fid = some g ∧ n ≤ g.rc.toNat ∧ g.rep = none) →
      State.becomes (exec (.rep f) s) s.cur.core (s'.proceed x h fun g => { g with pc := x.pc + 24, rc := 0, bpskip := false })))

/-- R163, R164: a fibre whose mask names itself alone passes; one whose mask names a live fibre of its role that has not arrived waits. -/
def Obligations.MaskedSynchronisation : Prop :=
  (∀ (f : FR) (fid : Nat), Ends (.lsync f) f.h
    (fun x s => x.act = [fid] ∧ ∃ t g, s.team? x.core x.slot = some t ∧ t.fibre? fid = some g ∧ g.msp = false ∧
      (t.fibres.all fun k => k.lsyncMask?.isNone) = true ∧
      ((x.rd s fid false f.a).setWidth 32 ||| (1#32 <<< (fid % 32))) = (1#32 <<< (fid % 32)))
    (fun x s => { s.modFibre x.core x.slot fid (fun g => { g.advance with wait := none, bond := s.uid + 1 }) with uid := s.uid + 1 }) othersOn) ∧
  (∀ (f : FR) (fid n : Nat), Ends (.lsync f) f.h
    (fun x s => x.act = [fid] ∧ n ≠ fid ∧ ∃ t g k, s.team? x.core x.slot = some t ∧ t.fibre? fid = some g ∧ g.msp = false ∧
      (t.fibres.all fun k => k.lsyncMask?.isNone) = true ∧ n / 32 = fid / 32 ∧
      ((x.rd s fid false f.a).setWidth 32).getLsbD (n % 32) = true ∧ t.fibre? n = some k ∧ k.role = g.role)
    (fun x s => s.modFibre x.core x.slot fid fun g =>
      { g with wait := some (.lsync ((x.rd s fid false f.a).setWidth 32 ||| (1#32 <<< (fid % 32)))) }) othersOn)

namespace Sys2Proof.Spec

open Sys2Proof Sys2Proof.Machine

-- loads, stores, atomics and fences (R205-R226)

/-- The address of format M (R49). -/
def address (f : FM) (x : Ctx) (s : State) (fid : Nat) : Nat := (x.rd s fid true f.a + f.off.signExtend 64).toNat

/-- What a fibre's access of `n` bytes at `va` needs to set out at once under the leaf `l`, besides what loads and stores need of their own
(R205, R208-R210): it is aligned, it translates, no acquire of the fibre is outstanding, its granule has no entry of the fibre in the
side log, and a host that holds the page is attached. -/
def goes (x : Ctx) (s : State) (t : Team) (k : Access) (fid va n : Nat) (l : Leaf) : Prop :=
  va % n = 0 ∧ va < 2 ^ 56 ∧ s.acqOpen x.core x.slot fid = false ∧ s.look x.core t.ctx t.world k va = .ok l ∧
  s.logged x.core x.slot fid va = false ∧ l.apt < 4 ∧ s.hostGone l va = false

/-- A load (R405, R300). -/
def loadGoes (n : Nat) (f : FM) (leaf : Nat → Leaf) (x : Ctx) (s : State) : Prop :=
  ∃ t, x.team s = some t ∧ ∀ fid ∈ x.act,
    let va := address f x s fid
    goes x s t .read fid va n (leaf fid) ∧ s.loadPoisoned x.core ((leaf fid).phys va) n (leaf fid).cached = false ∧ t.watch? va n true false = none

/-- The load of one lane is on its way. -/
def State.loading (s : State) (x : Ctx) (l : Load) : State :=
  { s.modCore x.core fun k => { k with loads := k.loads ++ [l] } with uid := s.uid + 1 }

def State.oweTo (s : State) (x : Ctx) (fid : Nat) (r : Result) : State := s.modFibre x.core x.slot fid (·.owes (owedTo .out s.uid r))

def State.waiting (s : State) (x : Ctx) (fid : Nat) (w : Wait) : State := s.modFibre x.core x.slot fid fun g => { g with wait := some w }

/-- Each active lane is owed what its own load will bring. -/
def loadsSet (f : FM) (acq : Option (BitVec 3)) (leaf : Nat → Leaf) (x : Ctx) (s : State) : State :=
  x.act.foldl (fun r fid => State.loading (State.oweTo r x fid (f.d, wide f.t1, 0)) x
    ⟨r.uid, x.slot, fid, f.t1, address f x s fid, leaf fid, acq, none⟩) s

/-- The lanes' loads for one uniform register are gathered; the fibres wait for the last of them (R103). -/
def State.gathering (s : State) (x : Ctx) (d : Operand) (w : Bool) : State :=
  { s.modCore x.core fun k => { k with unis := k.unis ++ [⟨s.uid, x.slot, x.act, d, w, []⟩] } with uid := s.uid + 1 }

def loadsGathered (f : FM) (acq : Option (BitVec 3)) (leaf : Nat → Leaf) (x : Ctx) (s : State) : State :=
  x.act.foldl (fun r fid => State.loading (State.waiting r x fid (.uniform s.uid)) x
    ⟨r.uid, x.slot, fid, f.t1, address f x s fid, leaf fid, acq, some s.uid⟩) (State.gathering s x f.d (wide f.t1))

/-- A store or reduction of every active lane may enter the store buffer (R190, R224, R300). -/
def storeGoes (n : Nat) (k : Access) (rel : Bool) (f : FM) (leaf : Nat → Leaf) (x : Ctx) (s : State) : Prop :=
  ∃ t, x.team s = some t ∧ ∀ fid ∈ x.act,
    let va := address f x s fid
    goes x s t k fid va n (leaf fid) ∧ (rel = true → s.relReady x.core x.slot fid = true) ∧ s.countFull x.core x.slot fid = false ∧
    t.watch? va n (k == .atomic) true = none

/-- The stores of the active lanes, in lane order. -/
def puts (f : FM) (leaf : Nat → Leaf) (x : Ctx) (s : State) : List Put :=
  x.act.map fun fid => ⟨fid, address f x s fid, width f.t1 / 8, (x.rd s fid (wide f.t1) f.d).toNat % 2 ^ width f.t1, leaf fid⟩

/-- The bytes of one atomic: the element's of `.fadd`, else the type's (R220). -/
def atomBytes (op : AtomOp) (t : BitVec 6) (tar : BitVec 64) : Nat := if op = .fadd then tarWidth tar / 8 else width t / 8

/-- A returning atomic of the only active lane (R224). -/
def atomGoes (op : AtomOp) (rel : Bool) (f : FM) (l : Leaf) (fid : Nat) (x : Ctx) (s : State) : Prop :=
  x.act = [fid] ∧ atomCheck op f.t1 x s = [] ∧ ∃ t, x.team s = some t ∧
    let n := atomBytes op f.t1 (t.tar f.t1.toNat)
    let va := address f x s fid
    goes x s t .atomic fid va n l ∧ s.poisoned (l.phys va) n = false ∧ (rel = true → s.relReady x.core x.slot fid = true) ∧
    s.countFull x.core x.slot fid = false ∧ t.watch? va n true true = none

def atomWide (op : AtomOp) (t : BitVec 6) : Bool := op != .fadd && wide t

def teamTar (op : AtomOp) (f : FM) (x : Ctx) (s : State) : BitVec 64 :=
  if op = .fadd then ((x.team s).getD Team.blank).tar f.t1.toNat else 0

/-- The atomic of a lane, with its operand and, for `cas`, the compared value (R220). -/
def atomicOf (op : AtomOp) (f : FM) (l : Leaf) (fid : Nat) (acq : Option (BitVec 3)) (uni : Option Nat) (id : Nat) (x : Ctx) (s : State) : Atomic :=
  let w := atomWide op f.t1
  ⟨id, x.slot, op, f.t1, teamTar op f x s, address f x s fid, l, atomBytes op f.t1 (teamTar op f x s),
    [(fid, x.rd s fid w f.b, if op = .cas then x.rd s fid w f.d else 0)], acq, uni, id⟩

def State.counted (s : State) (x : Ctx) (fid : Nat) : State := s.modFibre x.core x.slot fid fun g => { g with unack := g.unack + 1 }

def State.atomicOut (s : State) (x : Ctx) (a : Atomic) : State :=
  { s.modCore x.core fun k => { k with atomics := k.atomics ++ [a] } with uid := s.uid + 1 }

def atomSet (op : AtomOp) (f : FM) (l : Leaf) (fid : Nat) (acq : Option (BitVec 3)) (x : Ctx) (s : State) : State :=
  State.atomicOut (State.oweTo (State.counted s x fid) x fid (f.d, atomWide op f.t1, 0)) x (atomicOf op f l fid acq none s.uid x s)

def atomGathered (op : AtomOp) (f : FM) (l : Leaf) (fid : Nat) (acq : Option (BitVec 3)) (x : Ctx) (s : State) : State :=
  let r := State.gathering s x f.d (atomWide op f.t1)
  State.atomicOut (State.waiting (State.counted r x fid) x fid (.uniform s.uid)) x (atomicOf op f l fid acq (some s.uid) r.uid x s)

/-- A reduction of the only active lane stands in the store buffer (R224). -/
def reduction (op : AtomOp) (f : FM) (l : Leaf) (fid : Nat) (rel : Option (BitVec 3)) (x : Ctx) (s : State) : State :=
  let e : SBEntry := ⟨s.uid, x.slot, address f x s fid, l,
    .red op f.t1 (teamTar op f x s) (atomBytes op f.t1 (teamTar op f x s)) [(fid, x.rd s fid (atomWide op f.t1) f.d)], x.pc, rel, false, none, none⟩
  { (State.counted s x fid).modCore x.core fun k => { k with sb := k.sb ++ [e] } with uid := s.uid + 1 }

/-- What an operation makes of memory's value `m` with operand `b` (R220); `fadd` is R222's. -/
def combined (op : AtomOp) (t : BitVec 6) (m b cmp : BitVec 64) : BitVec 64 :=
  let w := width t
  match op with
  | .add => ((m.setWidth w) + (b.setWidth w)).setWidth 64
  | .min => if intOf t b < intOf t m then (b.setWidth w).setWidth 64 else m
  | .max => if intOf t m < intOf t b then (b.setWidth w).setWidth 64 else m
  | .and => m &&& (b.setWidth w).setWidth 64
  | .or => m ||| (b.setWidth w).setWidth 64
  | .xor => m ^^^ (b.setWidth w).setWidth 64
  | .exch => (b.setWidth w).setWidth 64
  | .cas => if m = (cmp.setWidth w).setWidth 64 then (b.setWidth w).setWidth 64 else m
  | .fadd => m

/-- The values that the lanes of one address fetch, in lane order, and what memory then holds (R221). -/
def sequence (op : AtomOp) (t : BitVec 6) (m : BitVec 64) : List (BitVec 64 × BitVec 64) → List (BitVec 64) × BitVec 64
  | [] => ([], m)
  | l :: r =>
    let rest := sequence op t (combined op t m l.1 l.2) r
    (m :: rest.1, rest.2)

/-- No L1 holds the sector for the core. -/
def unheld (s : State) (c pa : Nat) : Prop := (s.core (s.l1Slice c pa)).sector? (sectorOf pa) = none

/-- Bytes `a` to `a + n - 1`. -/
def within (a n b : Nat) : Prop := a ≤ b ∧ b < a + n

end Sys2Proof.Spec

/-- R206, R208, R213, R103. A load of registers sets out in every active lane and the gang goes on; the loads for a uniform register are
gathered and the active fibres wait. -/
def Sys2Proof.Spec.LoadIssue : Prop :=
  ∀ (f : FM) (leaf : Nat → Leaf) (i : Instr) (acq : Option (BitVec 3)),
    (i = .ld f ∧ acq = none) ∨ (i = .ldAcq f ∧ acq = some f.sc) →
    Ends i f.h (fun x s => Operand.isUniform f.d = false ∧ loadGoes (width f.t1 / 8) f leaf x s) (loadsSet f acq leaf) on ∧
    Ends i f.h (fun x s => Operand.isUniform f.d = true ∧ x.act ≠ [] ∧ loadGoes (width f.t1 / 8) f leaf x s) (loadsGathered f acq leaf) othersOn

/-- R188, R189, R208. The lanes' stores enter the store buffer, sector by sector, and the gang goes on; no byte of memory changes. -/
def Sys2Proof.Spec.StoreIssue : Prop :=
  ∀ (f : FM) (leaf : Nat → Leaf) (e : Ctx → State → State) (i : Instr) (rel : Option (BitVec 3)),
    (i = .st f ∧ rel = none) ∨ (i = .stRel f ∧ rel = some f.sc) →
    Ends i f.h (fun x s => storeGoes (width f.t1 / 8) .write rel.isSome f leaf x s ∧
      s.bufferStores x rel (puts f leaf x s) = (e x s, [])) e on

/-- R103, R188, R189, R206, R208, R213. Loads and stores as they issue. -/
def Obligations.LoadAndStoreIssue : Prop := LoadIssue ∧ StoreIssue

/-- R188-R190, R331. Stores into one sector take one new entry, with the bytes of each lane, later lanes over earlier ones, and each count
for their fibres; a store of a fibre alone merges into its own last entry for the page where that is for the sector and no load of its bytes
is in flight behind it; with 256 entries nothing enters. -/
def Obligations.StoreBufferEntry : Prop :=
  (∀ (s : State) (c slot : Nat) (pc : BitVec 56) (scope : Option (BitVec 3)) (p : Put) (r : List Put),
    r ≠ [] ∨ (s.core c).mergeInto slot p = none → (s.core c).sb.length < 256 →
    ∃ t, s.enterStores c slot pc scope (p :: r) = some t ∧ t.mem = s.mem ∧
      (t.core c).sb = (s.core c).sb ++ [⟨s.uid, slot, p.va / 32 * 32, p.leaf,
        .store ((p :: r).map fun u => (u.fid, BitVec.ofNat 32 u.mask)) (BitVec.ofNat 32 ((p :: r).foldl (fun m u => m ||| u.mask) 0))
          (BitVec.ofNat 256 ((p :: r).foldl Put.over 0)), pc, scope, false, none, none⟩]) ∧
  (∀ (s : State) (c slot : Nat) (pc : BitVec 56) (scope : Option (BitVec 3)) (p : Put) (fid : Nat) (m : BitVec 32) (d : BitVec 256) (e : SBEntry),
    ((s.core c).sb.filter fun o => o.slot == slot && o.kind.fids.contains p.fid && o.va / p.leaf.size == p.va / p.leaf.size).getLast? = some e →
    e.kind = .store [(fid, m)] m d → fid = p.fid → e.va = p.va / 32 * 32 → e.leaf = p.leaf → e.sent = false → e.leaf.ord ≠ 0 →
    e.call = none → e.toLog = none →
    ((s.core c).readsAfter slot p.fid e.id (p.leaf.phys p.va) p.mask = false →
      s.enterStores c slot pc scope [p] = some (s.modCore c fun k => { k with sb := k.sb.map fun o => if o.id = e.id then o.merge p else o })) ∧
    ((s.core c).readsAfter slot p.fid e.id (p.leaf.phys p.va) p.mask = true → (s.core c).mergeInto slot p = none)) ∧
  (∀ (s : State) (c slot : Nat) (pc : BitVec 56) (scope : Option (BitVec 3)) (p : Put) (r : List Put),
    r ≠ [] ∨ (s.core c).mergeInto slot p = none → 256 ≤ (s.core c).sb.length → s.enterStores c slot pc scope (p :: r) = none) ∧
  (∀ (k : Core) (slot fid id pa mask : Nat) (l : Load), l ∈ k.loads → l.slot = slot → l.fid = fid → id < l.id →
    l.leaf.phys l.va / 32 = pa / 32 → (2 ^ (width l.t1 / 8) - 1) * 2 ^ (l.va % 32) &&& mask ≠ 0 → k.readsAfter slot fid id pa mask = true) ∧
  ∀ (p : Put) (d i : Nat), i < 32 → p.va % 32 + p.n ≤ 32 →
    bits (Put.over d p) (8 * i) 8 = if p.va % 32 ≤ i ∧ i < p.va % 32 + p.n then bits p.data (8 * (i - p.va % 32)) 8 else bits d (8 * i) 8

/-- R220, R224, R103. An atomic of one lane counts for its fibre and is sent; a reduction enters the store buffer. -/
def Obligations.AtomicIssue : Prop :=
  (∀ (op : AtomOp) (f : FM) (l : Leaf) (fid : Nat) (i : Instr) (rel : Bool) (acq : Option (BitVec 3)),
    (i = .atom op f ∧ rel = false ∧ acq = none) ∨ (i = .atomAcq op f ∧ rel = false ∧ acq = some f.sc) ∨
      (i = .atomRel op f ∧ rel = true ∧ acq = none) ∨ (i = .atomAr op f ∧ rel = true ∧ acq = some f.sc) →
    Ends i f.h (fun x s => Operand.isUniform f.d = false ∧ atomGoes op rel f l fid x s) (atomSet op f l fid acq) on ∧
    Ends i f.h (fun x s => Operand.isUniform f.d = true ∧ atomGoes op rel f l fid x s) (atomGathered op f l fid acq) othersOn) ∧
  ∀ (op : AtomOp) (f : FM) (l : Leaf) (fid : Nat) (i : Instr) (rel : Option (BitVec 3)),
    (i = .red op f ∧ rel = none) ∨ (i = .redRel op f ∧ rel = some f.sc) →
    Ends i f.h (fun x s => x.act = [fid] ∧ atomCheck op f.t1 x s = [] ∧ (s.core x.core).sb.length < 256 ∧
        storeGoes (atomBytes op f.t1 (teamTar op f x s)) .atomic rel.isSome f (fun _ => l) x s)
      (reduction op f l fid rel) on

/-- R206, R208, R300. A load's bytes come from memory, as the type reads them, where no store of its fibre and no L1 holds its sector; from
the sector where an L1 holds it, and memory is then as it was. A fibre that waits for the access goes on; another has gone on. -/
def Obligations.LoadResponse : Prop :=
  (∀ (s : State) (l : Load), (s.core s.par.core).loads.find? (·.id == s.par.id) = some l → s.loadHeld s.par.core l = false →
    l.acq = none → l.uni = none → l.leaf.cached = false → unheld s s.par.core (l.leaf.phys l.va) →
    l.leaf.phys l.va % (width l.t1 / 8) = 0 →
    (s.core s.par.core).forward l.slot l.fid l.id (sectorOf (l.leaf.phys l.va)) = (0, 0) →
    exec .loadResponse s = .next (((s.modCore s.par.core fun k => { k with loads := k.loads.filter (·.id != l.id) }).known s.par.core l.slot l.fid l.id
      (written l.t1 (intOf l.t1 (BitVec.ofNat 64 (Memory.read s.mem (l.leaf.phys l.va) (width l.t1 / 8)))))).performed s.par.core l.slot l.id [l.fid])) ∧
  (∀ (s : State) (l : Load) (e : L1Sector), (s.core s.par.core).loads.find? (·.id == s.par.id) = some l → s.loadHeld s.par.core l = false →
    l.acq = none → l.uni = none → l.leaf.cached = true →
    (s.core (s.l1Slice s.par.core (sectorOf (l.leaf.phys l.va)))).sector? (sectorOf (l.leaf.phys l.va)) = some e →
    (s.core s.par.core).forward l.slot l.fid l.id (sectorOf (l.leaf.phys l.va)) = (0, 0) →
    exec .loadResponse s = .next (((s.modCore s.par.core fun k => { k with loads := k.loads.filter (·.id != l.id) }).known s.par.core l.slot l.fid l.id
      (written l.t1 (intOf l.t1 (BitVec.ofNat 64 (bits e.data.toNat (8 * (l.leaf.phys l.va % 32)) (width l.t1)))))).performed s.par.core l.slot l.id [l.fid])) ∧
  (∀ (s : State) (c slot id fid : Nat) (f : Fibre), s.fibre? c slot fid = some f →
    (f.wait ≠ some (.remote id) → s.performed c slot id [fid] = s) ∧
    (f.wait = some (.remote id) → f.stepping = false → (s.performed c slot id [fid]).mem = s.mem ∧
      ∃ g, (s.performed c slot id [fid]).fibre? c slot fid = some g ∧ g.wait = none ∧ g.pc = f.advance.pc ∧ g.pend = f.pend ∧ g.regs = f.regs)) ∧
  (∀ (s : State) (c slot fid id : Nat) (v : BitVec 64), (s.known c slot fid id v).mem = s.mem ∧
    ∀ f, s.fibre? c slot fid = some f → (s.known c slot fid id v).fibre? c slot fid = some { f with pend := f.pend.map fun w =>
      if w.id = id then { w with val := if w.hi then v.extractLsb' 32 32 else v.extractLsb' 0 32, due := .ready } else w }) ∧
  ∀ (s : State) (c : Nat) (scope : BitVec 3), (s.core c).fused = false → scope.toNat ≤ 2 → s.acquire c scope = s

/-- R188, R211, R327, R332. A store of a page that no L1 keeps writes its own bytes at the home and no other; one that finds its sector in
the L1 writes it there, and memory is as it was. The entry leaves the buffer. Of a UO store some bytes may be performed by themselves, and the
entry stays with the others. -/
def Obligations.StoreDrain : Prop :=
  (∀ (s : State) (e : SBEntry) (o : List (Nat × BitVec 32)) (mask : BitVec 32) (data : BitVec 256),
    s.par.flag = false → (s.core s.par.core).sb.find? (·.id == s.par.id) = some e → e.sent = false → e.toLog = none →
    s.drainHeld s.par.core e = false → s.par.n = 0 ∨ e.leaf.ord ≠ 2 → e.kind = .store o mask data → e.leaf.apt < 4 → e.leaf.cached = false → e.leaf.phys e.va % 32 = 0 → unheld s s.par.core (e.leaf.phys e.va) →
    Memory.wf s.mem = true →
    ∃ t, exec .storeBufferDrain s = .next t ∧ (t.core s.par.core).sb = (s.core s.par.core).sb.filter (·.id != e.id) ∧
      (∀ i, i < 32 → mask.getLsbD i = true → Memory.get t.mem (e.leaf.phys e.va + i) = data.extractLsb' (8 * i) 8) ∧
      ∀ a, ¬ (∃ i, i < 32 ∧ mask.getLsbD i = true ∧ a = e.leaf.phys e.va + i) → Memory.get t.mem a = Memory.get s.mem a) ∧
  (∀ (s : State) (e : SBEntry) (o : List (Nat × BitVec 32)) (mask : BitVec 32) (data : BitVec 256) (x : L1Sector),
    s.par.flag = false → (s.core s.par.core).sb.find? (·.id == s.par.id) = some e → e.sent = false → e.toLog = none →
    s.drainHeld s.par.core e = false → s.par.n = 0 ∨ e.leaf.ord ≠ 2 → e.kind = .store o mask data → e.leaf.cached = true →
    (s.core (s.l1Slice s.par.core (e.leaf.phys e.va))).sector? (e.leaf.phys e.va) = some x →
    ∃ t, exec .storeBufferDrain s = .next t ∧ t.mem = s.mem ∧ (t.core s.par.core).sb = (s.core s.par.core).sb.filter (·.id != e.id) ∧
      ∃ y, (t.core (s.l1Slice s.par.core (e.leaf.phys e.va))).sector? (e.leaf.phys e.va) = some y ∧ y.dirty = x.dirty ||| mask ∧
        ∀ i, i < 32 → y.data.extractLsb' (8 * i) 8 = if mask.getLsbD i then data.extractLsb' (8 * i) 8 else x.data.extractLsb' (8 * i) 8) ∧
  (∀ (s : State) (e : SBEntry) (o : List (Nat × BitVec 32)) (mask : BitVec 32) (data : BitVec 256),
    s.par.flag = false → (s.core s.par.core).sb.find? (·.id == s.par.id) = some e → e.sent = false → e.toLog = none →
    s.drainHeld s.par.core e = false → e.leaf.ord = 2 → e.kind = .store o mask data → e.leaf.apt < 4 → e.leaf.cached = false →
    e.leaf.phys e.va % 32 = 0 → unheld s s.par.core (e.leaf.phys e.va) → Memory.wf s.mem = true →
    let now := mask &&& BitVec.ofNat 32 s.par.n
    now ≠ 0 → now ≠ mask →
    ∃ t, exec .storeBufferDrain s = .next t ∧
      (t.core s.par.core).sb = ((s.core s.par.core).sb.map fun y => if y.id = e.id then
        { e with kind := .store (o.map fun p => (p.1, p.2 &&& ~~~now)) (mask &&& ~~~now) data } else y) ∧
      (∀ i, i < 32 → now.getLsbD i = true → Memory.get t.mem (e.leaf.phys e.va + i) = data.extractLsb' (8 * i) 8) ∧
      ∀ a, ¬ (∃ i, i < 32 ∧ now.getLsbD i = true ∧ a = e.leaf.phys e.va + i) → Memory.get t.mem a = Memory.get s.mem a) ∧
  (∀ (s : State) (e : SBEntry), s.par.flag = false → (s.core s.par.core).sb.find? (·.id == s.par.id) = some e → e.sent = false →
    e.toLog = none → s.drainHeld s.par.core e = true → exec .storeBufferDrain s = .next (s.spawn .storeBufferDrain s.par)) ∧
  ∀ (s : State) (c pa len : Nat) (op : AtomOp) (t1 : BitVec 6) (tar : BitVec 64) (ls : List (BitVec 64 × BitVec 64)) (b : Nat),
    Memory.wf s.mem = true → unheld s c pa → ¬ within pa len b → Memory.get (s.atomAtHome c op t1 tar pa len ls).2.mem b = Memory.get s.mem b

/-- R220, R221, R224. The lanes of one address perform their operations one after another at the home; each fetches what the one before
left, no other byte of memory changes, and the counters fall by one. Fibres that wait for the access then go on. -/
def Obligations.AtomicResponse : Prop :=
  (∀ (s : State) (a : Atomic), (s.core s.par.core).atomics.find? (·.id == s.par.id) = some a → s.atomHeld s.par.core a = false →
    a.op ≠ .fadd → a.len = width a.t1 / 8 → a.acq = none → a.uni = none → unheld s s.par.core (a.leaf.phys a.va) → Memory.wf s.mem = true →
    let pa := a.leaf.phys a.va
    let r := sequence a.op a.t1 (BitVec.ofNat 64 (Memory.read s.mem pa a.len)) (a.lanes.map (·.2))
    ∃ t : State, exec .atomicResponse s = .next (t.performed s.par.core a.slot a.id (a.lanes.map (·.1))) ∧ Memory.read t.mem pa a.len = r.2.toNat ∧ (∀ b, ¬ within pa a.len b → Memory.get t.mem b = Memory.get s.mem b) ∧
      ∀ fid v, (a.lanes.map (·.1)).Nodup → (fid, v) ∈ (a.lanes.map (·.1)).zip r.1 → ∀ f, s.fibre? s.par.core a.slot fid = some f →
        t.fibre? s.par.core a.slot fid = some { f with unack := f.unack - 1, pend := f.pend.map fun w =>
          if w.id = a.id then { w with val := if w.hi then v.extractLsb' 32 32 else v.extractLsb' 0 32, due := .ready } else w }) ∧
  (∀ (s : State) (a : Atomic), (s.core s.par.core).atomics.find? (·.id == s.par.id) = some a → s.atomHeld s.par.core a = true →
    exec .atomicResponse s = .next (s.spawn .atomicResponse s.par)) ∧
  ∀ (tar : BitVec 64) (t1 : BitVec 6) (len m : Nat) (b : BitVec 64 × BitVec 64),
    atomGroup .fadd t1 tar len m [b] =
      ([m], ((Fmt.of tar).encode (((Fmt.of tar).decodeIn m).1.add ((Fmt.of tar).decodeIn (b.1.toNat % 2 ^ (8 * len))).1 0) 0 0).1)

/-- R190, R193, R212. An acknowledgement lowers the counters of its fibres; a write-back puts a sector's dirty bytes home and drops it; a
walk that ends with a leaf enters it, and one that fails is noted with its status. -/
def Obligations.MemorySteps : Prop :=
  (∀ (s : State) (a : Ack), (s.core s.par.core).acks.find? (·.id == s.par.id) = some a →
    exec .storeAck s = .next (a.owners.foldl (fun s o => s.modFibre s.par.core o.1 o.2 fun f => { f with unack := f.unack - 1 })
      (s.modCore s.par.core fun k => { k with acks := k.acks.filter (·.id != a.id) }))) ∧
  (∀ (s : State) (x : L1Sector), (s.core s.par.core).sector? (s.par.addr / 32 * 32) = some x → Memory.wf s.mem = true →
    ∃ t, exec .l1Writeback s = .next t ∧ (t.core s.par.core).sector? (s.par.addr / 32 * 32) = none ∧
      (∀ i, i < 32 → x.dirty.getLsbD i = true → Memory.get t.mem (s.par.addr / 32 * 32 + i) = x.data.extractLsb' (8 * i) 8) ∧
      ∀ a, ¬ (∃ i, i < 32 ∧ x.dirty.getLsbD i = true ∧ a = s.par.addr / 32 * 32 + i) → Memory.get t.mem a = Memory.get s.mem a) ∧
  (∀ (s : State) (l : Leaf), (s.core s.par.core).tlb.any (·.covers s.par.ctx s.par.addr) = false → s.walk s.par.ctx s.par.addr = .leaf l →
    0 < l.size → (s.core s.par.core).tlb.length < 128 → l.pin = false →
    ∃ t, exec .tableWalkEnd s = .next t ∧ t.mem = s.mem ∧
      (t.core s.par.core).tlb = (s.core s.par.core).tlb ++ [⟨s.par.ctx, s.par.addr / l.size * l.size, l, false, []⟩]) ∧
  ∀ (s : State) (code : Nat), (s.core s.par.core).tlb.any (·.covers s.par.ctx s.par.addr) = false →
    (s.walk s.par.ctx s.par.addr = .absent ∧ code = 1 ∨ s.walk s.par.ctx s.par.addr = .malformed ∧ code = 2) →
    ∃ t, exec .tableWalkEnd s = .next t ∧ t.mem = s.mem ∧ (s.par.ctx, s.par.addr / 2 ^ 16, code) ∈ (t.core s.par.core).walkFail ∧
      (t.core s.par.core).tlb = (s.core s.par.core).tlb
namespace Sys2Proof.Spec

open Sys2Proof Sys2Proof.Machine

-- scratchpads (R175, R181-R186, R214, R308-R314)

/-- The address of a scratchpad access (R214). -/
def spadAddress (f : FM) (x : Ctx) (s : State) (fid : Nat) : Nat :=
  (((x.rd s fid false f.a).setWidth 32).setWidth 64 + f.off.signExtend 64).toNat

/-- The lanes of a scratchpad access; byte `off` of core `c` is byte 2^20 c + off of the package's scratchpads. -/
def spadLanes (f : FM) (load : Bool) (byte : Nat → Nat) (x : Ctx) (s : State) : List SpLane :=
  x.act.map fun fid => ⟨fid, byte fid, if load then 0 else x.rd s fid (wide f.t1) f.d, 0, 0, none⟩

/-- The lanes' accesses may issue: no acquire is outstanding, a store has room in the counter, and the banks and the completion counters
have room (R181, R182, R190). -/
def spadRoom (f : FM) (kind : SpKind) (remote : Bool) (byte : Nat → Nat) (x : Ctx) (s : State) : Prop :=
  (∀ fid ∈ x.act, s.acqOpen x.core x.slot fid = false ∧ (kind.isLoad = false → s.countFull x.core x.slot fid = false)) ∧
  s.spadRoom x kind remote (spadLanes f kind.isLoad byte x s) = true

/-- Each active lane's bytes lie in the team's own allotment (R177, R214). -/
def localSpad (f : FM) (kind : SpKind) (x : Ctx) (s : State) : Prop :=
  x.act ≠ [] ∧ (∃ t, x.team s = some t ∧ ∀ fid ∈ x.act,
    let a := spadAddress f x s fid
    a % (width f.t1 / 8) = 0 ∧ a < 0xFF000 ∧ t.spadBase ≤ a ∧ a + width f.t1 / 8 ≤ t.spadBase + t.spadSize ∧
    t.watch? (0xFE * 2 ^ 56 + a) (width f.t1 / 8) kind.isLoad (!kind.isLoad) = none) ∧
  spadRoom f kind false (fun fid => x.core * 2 ^ 20 + spadAddress f x s fid) x s

/-- Each active lane's bytes lie in the allotment of a team of the context on a core of the cluster (R308, R309). -/
def clusterSpad (f : FM) (kind : SpKind) (byte : Nat → Nat) (x : Ctx) (s : State) : Prop :=
  x.act ≠ [] ∧ (∃ t, x.team s = some t ∧ ∀ fid ∈ x.act,
    let a := spadAddress f x s fid
    let core := 256 * (x.core / 256) + bits a 20 8
    byte fid = core * 2 ^ 20 + a % 2 ^ 20 ∧ a % (width f.t1 / 8) = 0 ∧ a / 2 ^ 28 = 8 ∧ a % 2 ^ 20 < 0xFF000 ∧
    ∃ u ∈ (s.core core).teams, u.ctx = t.ctx ∧ u.spadBase ≤ a % 2 ^ 20 ∧ a % 2 ^ 20 + width f.t1 / 8 ≤ u.spadBase + u.spadSize) ∧
  spadRoom f kind true byte x s

/-- The operation of an instruction, with its requests not yet served (R181, R310). -/
def spadOp (kind : SpKind) (remote : Bool) (lanes : List SpLane) (uni : Option Nat) (id : Nat) (x : Ctx) (s : State) : SpOp :=
  let tgts := if remote then (lanes.map fun l => l.off / 2 ^ 20).eraseDups else []
  let o : SpOp := ⟨id, x.core, x.slot, ((x.team s).getD Team.blank).ctx, x.pc, kind, lanes, 0, [], tgts, remote, none, uni⟩
  { o with left := if remote then (tgts.map fun c => (o.requests c).length).sum else (o.requests x.core).length }

/-- The operation is on its way: its requests stand in the bank queues of the own core, or travel to the cores of the cluster. -/
def State.spadOut (s : State) (x : Ctx) (o : SpOp) : State :=
  let r := { s with spOps := s.spOps ++ [o], uid := s.uid + 1 }
  if o.remote then r else r.modCore x.core fun k => { k with bankq := k.bankq ++ o.requests x.core }

def State.each (s : State) (x : Ctx) (g : State → Nat → State) : State := x.act.foldl g s

/-- A load is owed to each lane; the fibres of one to another core wait until it has been judged there (R309). -/
def spadLoadSet (f : FM) (remote : Bool) (byte : Ctx → State → Nat → Nat) (x : Ctx) (s : State) : State :=
  let lanes := spadLanes f true (byte x s) x s
  State.spadOut (State.each s x fun r fid =>
    let r := State.oweTo r x fid (f.d, wide f.t1, 0)
    if remote then State.waiting r x fid (.scratch s.uid) else r) x (spadOp (.load f.t1) remote lanes none s.uid x s)

def spadLoadGathered (f : FM) (remote : Bool) (byte : Ctx → State → Nat → Nat) (x : Ctx) (s : State) : State :=
  let lanes := spadLanes f true (byte x s) x s
  let r := State.gathering s x f.d (wide f.t1)
  State.spadOut (State.each r x fun r fid => State.waiting r x fid (.uniform s.uid)) x (spadOp (.load f.t1) remote lanes (some s.uid) r.uid x s)

/-- A store counts for its fibres; one to another core holds them until it is acknowledged (R190, R310). -/
def spadStore (f : FM) (remote : Bool) (byte : Ctx → State → Nat → Nat) (x : Ctx) (s : State) : State :=
  let lanes := spadLanes f false (byte x s) x s
  State.spadOut (State.each s x fun r fid =>
    if remote then State.waiting (State.counted r x fid) x fid (.scratch s.uid) else State.counted r x fid) x
    (spadOp (.store f.t1) remote lanes none s.uid x s)

def ownByte (f : FM) (x : Ctx) (s : State) (fid : Nat) : Nat := x.core * 2 ^ 20 + spadAddress f x s fid

/-- The byte of a cluster scratchpad address (R308). -/
def clusterByte (f : FM) (x : Ctx) (s : State) (fid : Nat) : Nat :=
  let a := spadAddress f x s fid
  (256 * (x.core / 256) + bits a 20 8) * 2 ^ 20 + a % 2 ^ 20

/-- One lane accesses the barrier page of its own team (R277). -/
def pageLane (f : FM) (kind : SpKind) (fid : Nat) (x : Ctx) (s : State) : Prop :=
  x.act = [fid] ∧ (∃ t g, x.team s = some t ∧ t.fibre? fid = some g ∧ g.wait = none ∧ (∀ k ∈ t.fibres, ∀ w ∈ k.pend, w.id < s.uid) ∧
    let a := spadAddress f x s fid
    a % (width f.t1 / 8) = 0 ∧ 0xFF000 + 256 * t.slot ≤ a ∧ a < 0xFF100 + 256 * t.slot ∧ a < 2 ^ 20 ∧
    t.watch? (0xFE * 2 ^ 56 + a) (width f.t1 / 8) kind.isLoad (!kind.isLoad) = none) ∧
  (∀ o ∈ s.spOps, o.id < s.uid) ∧ spadRoom f kind false (ownByte f x s) x s

end Sys2Proof.Spec

/-- R175, R177, R181, R182, R190, R214. Accesses to the team's own allotment enter the bank queues of the core. -/
def Sys2Proof.Spec.ScratchpadIssue : Prop :=
  (∀ f, Ends (.lds f) f.h (fun x s => Operand.isUniform f.d = false ∧ localSpad f (.load f.t1) x s) (spadLoadSet f false (ownByte f)) on) ∧
  (∀ f, Ends (.lds f) f.h (fun x s => Operand.isUniform f.d = true ∧ localSpad f (.load f.t1) x s) (spadLoadGathered f false (ownByte f)) othersOn) ∧
  ∀ f, Ends (.sts f) f.h (fun x s => localSpad f (.store f.t1) x s) (spadStore f false (ownByte f)) on

/-- R308-R310. Accesses across the cluster set out to the cores that their addresses name; the fibres of a load wait until it has been
judged there, those of a store for its acknowledgement. -/
def Sys2Proof.Spec.ClusterScratchpadIssue : Prop :=
  (∀ f, Ends (.ldx f) f.h (fun x s => Operand.isUniform f.d = false ∧ clusterSpad f (.load f.t1) (clusterByte f x s) x s)
    (spadLoadSet f true (clusterByte f)) othersOn) ∧
  (∀ f, Ends (.ldx f) f.h (fun x s => Operand.isUniform f.d = true ∧ clusterSpad f (.load f.t1) (clusterByte f x s) x s)
    (spadLoadGathered f true (clusterByte f)) othersOn) ∧
  ∀ f, Ends (.stx f) f.h (fun x s => clusterSpad f (.store f.t1) (clusterByte f x s) x s) (spadStore f true (clusterByte f)) othersOn

/-- R175, R177, R181, R182, R190, R214, R308-R310. Scratchpad accesses as they issue. -/
def Obligations.ScratchpadAccess : Prop := ScratchpadIssue ∧ ClusterScratchpadIssue

/-- R181-R184, R190, R221, R311, R312. A bank serves the oldest request that no range entry holds: a load's word is read, a store's bytes
are written and no other byte of the scratchpad, an atomic is performed, and one of two words not before each of its banks has come to it;
where every request is held nothing happens yet. A load of one lane from another core enters the bank queues there, where its access is
admitted, and its result is written when its words have been read. -/
def Obligations.BankServe : Prop :=
  (∀ (s : State) (o : SpOp) (l : SpLane) (t1 : BitVec 6), let tgt := s.par.k
    s.spOps = [o] → o.id = s.par.id → o.lanes = [l] → o.kind = .load t1 → o.core ≠ tgt → o.remote = true → o.toArrive = [tgt] → 0 < o.left →
    l.fault = none → l.off / 2 ^ 20 = tgt → l.off % 2 ^ 20 < 0xFF000 → s.clusterHolds o.ctx tgt o.kind (l.off % 2 ^ 20) = true →
    (s.core tgt).portq = [] → (s.core tgt).bankRoom (o.requests tgt) = true →
    ∃ t, exec .remoteScratchpadArrival s = .next t ∧ t.mem = s.mem ∧
      (t.core tgt).bankq = (s.core tgt).bankq ++ (o.requests tgt).map fun r => { r with arr := s.uid }) ∧
  (∀ (s : State) (o : SpOp) (l : SpLane) (t1 : BitVec 6) (f : Fibre), s.spOps.find? (·.id == s.par.id) = some o → o.remote = true → o.left = 0 →
    o.toArrive = [] → o.kind = .load t1 → o.lanes = [l] → l.fault = none → o.acq = none → o.uni = none → l.off % 2 ^ 20 < 0xFF000 → width t1 = 32 →
    s.fibre? o.core o.slot l.fid = some f → f.wait = none →
    ∃ t, exec .remoteScratchpadResponse s = .next t ∧ t.mem = s.mem ∧ t.spOps = s.spOps.filter (·.id != o.id) ∧
      t.fibre? o.core o.slot l.fid = some { f with pend := f.pend.map fun w =>
        if w.id = o.id then
          { w with val := if w.hi then 0 else assocGet 0 o.words (l.off / 2 ^ 20 * 2 ^ 20 + l.off % 2 ^ 20 / 4 * 4), due := .at (s.now o.core) }
        else w }) ∧
  (∀ (s : State) (r : SpReq) (o : SpOp), let c := s.par.core
    ((s.core c).bankq.find? fun r => r.word / 4 % 32 == s.par.n && !(s.core c).spHeld r.arr r.word) = some r →
    s.spOps.find? (·.id == r.op) = some o → o.kind.isLoad = true →
    exec .scratchpadBankServe s = .next (((s.modCore c fun k => { k with bankq := k.bankq.erase r }).modOp o.id fun p =>
      { p with words := p.words ++ [(c * 2 ^ 20 + r.word, BitVec.ofNat 32 (Memory.read (s.core c).spad r.word 4))] }).spServed o.id 1)) ∧
  (∀ (s : State) (r : SpReq) (o : SpOp) (l : SpLane) (t1 : BitVec 6) (fid : Nat), let c := s.par.core
    ((s.core c).bankq.find? fun r => r.word / 4 % 32 == s.par.n && !(s.core c).spHeld r.arr r.word) = some r →
    s.spOps.find? (·.id == r.op) = some o → o.kind = .store t1 → width t1 < 64 → r.lane = some fid → o.lanes.find? (·.fid == fid) = some l →
    o.id = r.op → 1 < o.left → (s.core c).canonical = true →
    ∃ t, exec .scratchpadBankServe s = .next t ∧ t.mem = s.mem ∧
      (t.core c).spad = Memory.write (s.core c).spad (l.off % 2 ^ 20) (width t1 / 8) l.data.toNat ∧
      (∀ b, ¬ within (l.off % 2 ^ 20) (width t1 / 8) b → Memory.get (t.core c).spad b = Memory.get (s.core c).spad b) ∧
      (t.core c).bankq = (s.core c).bankq.erase r) ∧
  (∀ (s : State) (r : SpReq), let c := s.par.core
    ((s.core c).bankq.find? fun r => r.word / 4 % 32 == s.par.n && !(s.core c).spHeld r.arr r.word) = none →
    r ∈ (s.core c).bankq → r.word / 4 % 32 = s.par.n → exec .scratchpadBankServe s = .next (s.spawn .scratchpadBankServe s.par)) ∧
  (∀ (s : State) (r q : SpReq) (o : SpOp) (op : AtomOp) (t1 : BitVec 6) (tar : BitVec 64) (len : Nat) (ret : Bool), let c := s.par.core
    ((s.core c).bankq.find? fun r => r.word / 4 % 32 == s.par.n && !(s.core c).spHeld r.arr r.word) = some r →
    s.spOps.find? (·.id == r.op) = some o → o.kind = .atom op t1 tar len ret → q ∈ (s.core c).bankq → q.op = r.op → q.lane = r.lane → q ≠ r →
    ((s.core c).bankq.find? fun r => r.word / 4 % 32 == q.word / 4 % 32 && !(s.core c).spHeld r.arr r.word) ≠ some q →
    exec .scratchpadBankServe s = .next (s.spawn .scratchpadBankServe s.par)) ∧
  ∀ (s : State) (c : Nat) (o : SpOp) (g b : Nat) (op : AtomOp) (t1 : BitVec 6) (tar : BitVec 64) (len : Nat) (ret : Bool),
    o.kind = .atom op t1 tar len ret → ¬ within (g % 2 ^ 20) len b → (s.core c).canonical = true →
    Memory.get ((s.atomAtBank c o g).core c).spad b = Memory.get (s.core c).spad b

/-- R182, R308-R310, R312. `ldx` and `stx` of one lane set out to the core that the address names, and with no active fibre have no effect.
The results of a load are written together, in one cycle, when its last word has come: a local one at once, a remote one as its responses
have returned; the fibre of an `stx` goes on when it has been answered. -/
def Obligations.ScratchpadResults : Prop :=
  (∀ (i : Instr) (f : FM), i = .ldx f ∨ i = .stx f → Ends i f.h (fun x _ => x.act = []) same on) ∧
  (∀ (f : FM) (s : State) (fid : Nat), let x := s.issueCtx (.ldx f) f.h
    let r := s.landed (.ldx f) f.h
    wf (.ldx f) = true → s.issues (.ldx f) f.h = true → x.act = [fid] → Operand.isUniform f.d = false →
    clusterSpad f (.load f.t1) (clusterByte f x r) x r →
    ∃ t g, exec (.ldx f) s = .next t ∧ t.mem = s.mem ∧ t.spOps = s.spOps ++
      [spadOp (.load f.t1) true [⟨fid, clusterByte f x r fid, 0, 0, 0, none⟩] none r.uid x r] ∧
      t.fibre? x.core x.slot fid = some g ∧ g.wait = some (.scratch r.uid)) ∧
  (∀ (f : FM) (s : State) (fid : Nat), let x := s.issueCtx (.stx f) f.h
    let r := s.landed (.stx f) f.h
    wf (.stx f) = true → s.issues (.stx f) f.h = true → x.act = [fid] → clusterSpad f (.store f.t1) (clusterByte f x r) x r →
    ∃ t g, exec (.stx f) s = .next t ∧ t.mem = s.mem ∧ t.spOps = s.spOps ++
      [spadOp (.store f.t1) true [⟨fid, clusterByte f x r fid, x.rd r fid (wide f.t1) f.d, 0, 0, none⟩] none r.uid x r] ∧
      t.fibre? x.core x.slot fid = some g ∧ g.wait = some (.scratch r.uid)) ∧
  (∀ (s : State) (o : SpOp) (l : SpLane) (t1 : BitVec 6) (f : Fibre), s.spOps.find? (·.id == s.par.id) = some o → o.remote = true → o.left = 0 →
    o.toArrive = [] → o.kind = .store t1 → o.lanes = [l] → l.fault = none → o.acq = none → s.fibre? o.core o.slot l.fid = some f →
    f.wait = some (.scratch o.id) → f.stepping = false → f.rep = none →
    ∃ t g, exec .remoteScratchpadResponse s = .next t ∧ t.mem = s.mem ∧ t.fibre? o.core o.slot l.fid = some g ∧ g.wait = none ∧
      g.pc = f.pc + 12 ∧ g.unack = f.unack - 1 ∧ g.regs = f.regs) ∧
  (∀ (s : State) (id n : Nat) (o : SpOp), s.spOps.find? (·.id == id) = some o → n < o.left →
    s.spServed id n = s.modOp id fun p => { p with left := p.left - n }) ∧
  (∀ (s : State) (o : SpOp), s.spOps.find? (·.id == s.par.id) = some o → o.remote = true → o.left = 0 → o.toArrive = [] →
    exec .remoteScratchpadResponse s = .next (s.spFinish o)) ∧
  ∀ (s : State) (o : SpOp) (l : SpLane) (t1 : BitVec 6) (f : Fibre), o.lanes = [l] → o.kind = .load t1 → l.fault = none → o.acq = none →
    o.uni = none → l.off % 2 ^ 20 < 0xFF000 → s.fibre? o.core o.slot l.fid = some f → f.wait = none → width t1 = 32 →
    (s.spFinish o).mem = s.mem ∧ (s.spFinish o).fibre? o.core o.slot l.fid = some { f with pend := f.pend.map fun w =>
      if w.id = o.id then
        { w with val := if w.hi then 0 else assocGet 0 o.words (l.off / 2 ^ 20 * 2 ^ 20 + l.off % 2 ^ 20 / 4 * 4), due := .at (s.now o.core) } else w }

/-- R309, R311, R314. The requests of an operation enter a target's bank queues in the order of issue, once there is room; an access of the
barrier network that R309 admits is applied at its target. A lane that R309 refuses at a target traps where its fibre waits. -/
def Obligations.ScratchpadArrival : Prop :=
  (∀ (s : State) (o : SpOp), let tgt := s.par.k
    let rs := (o.requests tgt).map fun r => { r with arr := if o.core = tgt then o.id else s.uid }
    (s.spOps.find? fun o => o.id == s.par.id && o.toArrive.contains tgt) = some o →
    (∀ l ∈ o.lanes, l.off / 2 ^ 20 = tgt → l.off % 2 ^ 20 < 0xFF000 → s.clusterHolds o.ctx tgt o.kind (l.off % 2 ^ 20) = true) →
    (s.spOps.any fun p => p.core == o.core && decide (p.id < o.id) && p.toArrive.contains tgt) = false →
    (s.core tgt).portq = [] → (s.core tgt).bankRoom (o.requests tgt) = true → 1 < o.left → (∀ p ∈ s.spOps, p.id = o.id → p = o) → s.spOps.Nodup →
    ∃ t, exec .remoteScratchpadArrival s = .next t ∧ t.mem = s.mem ∧ (t.core tgt).bankq = (s.core tgt).bankq ++ (o.together rs).flatten ∧
      (t.core tgt).portq = [] ∧ t.spOps.find? (·.id == o.id) = some { o with toArrive := o.toArrive.filter (· != tgt) }) ∧
  (∀ (o : SpOp) (rs : List SpReq) (r : SpReq), (r ∈ (o.together rs).flatten ↔ r ∈ rs) ∧
    ((o.kind.isLoad = true ∨ ∃ t1, o.kind = .store t1) → (o.together rs).flatten = rs)) ∧
  (∀ (s : State) (o : SpOp) (l : SpLane) (f : Fibre) (tr : Trap), l ∈ o.lanes → l.fault = some tr →
    s.fibre? o.core o.slot l.fid = some f → f.wait = some (.scratch o.id) →
    ∃ lm, s.refuseLane o l = s.failWaiting o.core o.slot l.fid { tr with lmask := some lm }) ∧
  (∀ (s : State) (o : SpOp), let tgt := s.par.k
    (s.spOps.find? fun o => o.id == s.par.id && o.toArrive.contains tgt) = some o →
    (s.spOps.any fun p => p.core == o.core && decide (p.id < o.id) && p.toArrive.contains tgt) = true →
    exec .remoteScratchpadArrival s = .next (s.spawn .remoteScratchpadArrival s.par)) ∧
  ∀ (s : State) (a : NetArr) (o : SpOp) (l : Nat × BitVec 32),
    (s.netArr.find? fun a => a.id == s.par.id && a.tgt == s.par.k && a.off == s.par.off) = some a → s.spOps.find? (·.id == a.id) = some o →
    s.clusterHolds o.ctx a.tgt o.kind a.off = true → a.wr = true → a.lanes = [l] →
    exec .barrierNetworkArrival s =
      .next (((({ s with netArr := s.netArr.filter (· != a) } : State).arrive a.tgt ((a.off - 0xFF000) / 256) ((a.off - 0xFF000) % 256 / 16) l.2.toNat
        none).spServed o.id 1).spAdmit o.id)

/-- R277, R314. A lane reads a status word or the byte count of a barrier of its own team at once, and its store to `ARRIVE` is an arrival;
one that comes over the barrier network arrives at its target. -/
def Obligations.BarrierPage : Prop :=
  (∀ f fid, Ends (.lds f) f.h (fun x s => Operand.isUniform f.d = false ∧ f.t1 ∈ [8, 9] ∧ pageLane f (.load f.t1) fid x s)
    (fun x s => s.owed x (.at (s.now x.core)) [(fid, [(f.d, wide f.t1, BitVec.ofNat 64 (s.pageRead x.core (spadAddress f x s fid) (width f.t1 / 8)))])]) on) ∧
  (∀ f fid, Ends (.sts f) f.h (fun x s => f.t1 = 8 ∧ spadAddress f x s fid % 16 = 12 ∧ pageLane f (.store f.t1) fid x s)
    (fun x s => { s with uid := s.uid + 1 }.arrive x.core x.slot (spadAddress f x s fid % 256 / 16)
      ((x.rd s fid false f.d).toNat % 2 ^ 32) none) on) ∧
  (∀ (s : State) (a : NetArr) (o : SpOp) (l : Nat × BitVec 32), s.netArr = [a] → a.id = s.par.id → a.tgt = s.par.k → a.off = s.par.off →
    s.spOps.find? (·.id == a.id) = some o → s.clusterHolds o.ctx a.tgt o.kind a.off = true → a.wr = true → a.lanes = [l] →
    exec .barrierNetworkArrival s =
      .next (((({ s with netArr := [] } : State).arrive a.tgt ((a.off - 0xFF000) / 256) ((a.off - 0xFF000) % 256 / 16) l.2.toNat
        none).spServed o.id 1).spAdmit o.id)) ∧
  ∀ (s : State) (c off : Nat) (t : Team) (b : Barrier), 0xFF000 ≤ off → off % 16 = 0 → s.team? c ((off - 0xFF000) / 256) = some t →
    t.bars[(off - 0xFF000) % 256 / 16]? = some b → b.exp < 2048 → b.cnt < 2048 → b.dec < 2048 → t.slot < 16 →
    s.pageRead c off 8 = b.ph.toNat * 2 ^ 48 + t.slot * 2 ^ 44 + (if b.loss then 2 ^ 43 else 0) + b.exp * 2 ^ 32 + b.cnt * 2 ^ 21 + b.dec * 2 ^ 10 ∧
    s.pageRead c (off + 8) 4 = b.lbyt % 2 ^ 32

namespace Sys2Proof.Spec

open Sys2Proof Sys2Proof.Machine

-- prefetch, flush, fences, the carve-out and translation queries (R174, R178, R213, R215-R218, R225, R226)

/-- The one active lane's page translates, and an L1 may hold it (R211). -/
def cachedPage (f : FM) (leaf : Leaf) (fid : Nat) (x : Ctx) (s : State) : Prop :=
  x.act = [fid] ∧ leaf.cached = true ∧ ∃ t, x.team s = some t ∧ s.lookWalk t.ctx t.world .read (address f x s fid) = .ok leaf

/-- Both sectors of a line are in the L1 (R211). -/
def State.lineFilled (s : State) (c pa : Nat) : State :=
  (s.l1Fill (s.l1Slice c (pa / 64 * 64)) (pa / 64 * 64)).l1Fill (s.l1Slice c (pa / 64 * 64)) (pa / 64 * 64 + 32)

/-- The one active lane's page translates under `l` (R216). -/
def flushes (f : FM) (l : Leaf) (fid : Nat) (x : Ctx) (s : State) : Prop :=
  x.act = [fid] ∧ address f x s fid < 2 ^ 56 ∧ (∃ t, x.team s = some t ∧ s.look x.core t.ctx t.world .flush (address f x s fid) = .ok l) ∧
  ∃ g, s.fibre? x.core x.slot fid = some g ∧ g.unack < 65534

/-- The fields of the word that `tlbq` writes (R226). -/
def queryWord (l : Leaf) (va : Nat) : BitVec 64 :=
  let b (x : Bool) : BitVec 64 := if x then 1 else 0
  let n (x : Nat) : BitVec 64 := BitVec.ofNat 64 x
  (n (l.tgt % 4096) <<< 52) ||| (n (l.phys va / 2 ^ 16 % 2 ^ 36) <<< 16) ||| (n (if l.size = 2 ^ 16 then 0 else if l.size = 2 ^ 21 then 1 else 2) <<< 12) |||
    (n (l.cp % 4) <<< 10) ||| (b l.pin <<< 9) ||| (b l.rap <<< 8) ||| (n (l.apt % 8) <<< 5) ||| (n (l.ord % 4) <<< 3) ||| (b l.ex <<< 2) |||
    (b l.wr <<< 1) ||| b l.wld

/-- What a query answers (R226): a tagged address, a secure page seen from outside its world, or the translation that a lookup uses. -/
def queried (s : State) (c : Nat) (t : Team) (va : Nat) (w : BitVec 64) : Prop :=
  (2 ^ 56 ≤ va ∧ w = 1#64 <<< 14) ∨
  ∃ e, va < 2 ^ 56 ∧ (s.core c).tlb.find? (·.covers t.ctx va) = some e ∧ e.revoking = false ∧
    e.leaf.tgt < 4096 ∧ e.leaf.cp < 4 ∧ e.leaf.apt < 8 ∧ e.leaf.ord < 4 ∧
    w = if e.leaf.wld = true ∧ t.world = false then 3#64 <<< 14 else queryWord e.leaf va

/-- One value in D for every active fibre. -/
def everyone (d : Operand) (w : Bool) (v : Ctx → State → BitVec 64) (x : Ctx) (s : State) : State :=
  s.owed x .ready (x.act.map fun fid => (fid, [(d, w, v x s)]))

def kib (f : FR) (x : Ctx) (s : State) : Nat := ((x.rdU s false f.a).setWidth 32).toNat

end Sys2Proof.Spec

/-- R215, R216. `prf` changes registers of no fibre: it has the line in the L1, where its page allows it. `flush` writes the dirty sectors of the
line back, and `.inv` drops them; a page that no L1 keeps is left alone. -/
def Obligations.PrefetchAndFlush : Prop :=
  (∀ f l fid, Ends (.prfL1 f) f.h (cachedPage f l fid) (fun x s => State.lineFilled s x.core (l.phys (address f x s fid))) on) ∧
  (∀ f, Ends (.prfL1 f) f.h (fun x s => ∃ t, x.team s = some t ∧ ∀ fid ∈ x.act, ∀ l,
    s.lookWalk t.ctx t.world .read (address f x s fid) = .ok l → l.cached = false) same on) ∧
  (∀ f l fid (inv : Bool) i, (i = .flushWb f ∧ inv = false) ∨ (i = .flushInv f ∧ inv = true) →
    Ends i f.h (fun x s => flushes f l fid x s ∧ l.cached = true)
      (fun x s => (s.flushSector x.core x.slot fid (l.phys (address f x s fid) / 64 * 64) inv).flushSector x.core x.slot fid
        (l.phys (address f x s fid) / 64 * 64 + 32) inv) on ∧
    Ends i f.h (fun x s => flushes f l fid x s ∧ l.cached = false) same on) ∧
  ∀ (s : State) (c slot fid sa : Nat) (inv : Bool) (e : L1Sector), (s.core c).fused = false → (s.core c).sector? sa = some e → e.dirty ≠ 0 →
    Memory.wf s.mem = true →
    let t := s.flushSector c slot fid sa inv
    (∀ i, i < 32 → e.dirty.getLsbD i = true → Memory.get t.mem (sa + i) = e.data.extractLsb' (8 * i) 8) ∧
    (∀ a, ¬ (∃ i, i < 32 ∧ e.dirty.getLsbD i = true ∧ a = sa + i) → Memory.get t.mem a = Memory.get s.mem a) ∧
    (t.core c).sector? sa = if inv then none else some { e with dirty := 0, owners := [] }

/-- R190, R213, R217, R218. A release passes once the stores of each active fibre are acknowledged and its loads have landed; an acquire
drops, at a scope wider than the L1's, what the L1 holds. -/
def Obligations.Fences : Prop :=
  (∀ f, Ends (.fenceRel f) f.h (fun x s => ∀ fid ∈ x.act, s.relReady x.core x.slot fid = true) same on) ∧
  (∀ f, Ends (.fenceAcq f) f.h (fun x s => f.rm.toNat ≤ 2 ∧ (s.core x.core).fused = false ∧ ∀ fid ∈ x.act, s.loadsOpen x.core x.slot fid = false) same on) ∧
  (∀ f fid, Ends (.fenceAcq f) f.h (fun x s => x.act = [fid] ∧ s.loadsOpen x.core x.slot fid = false) (fun x s => s.acquire x.core f.rm) on) ∧
  (∀ f fid, Ends (.fenceAr f) f.h (fun x s => x.act = [fid] ∧ s.relReady x.core x.slot fid = true) (fun x s => s.acquire x.core f.rm) on) ∧
  ∀ (s : State) (c : Nat) (scope : BitVec 3), (s.core c).fused = false → 3 ≤ scope.toNat → ((s.acquire c scope).core c).l1 = []

/-- R225: what `carve` answers without a change. With one, the active fibres wait for it. -/
def Sys2Proof.Spec.CarveOut : Prop :=
  (∀ f, Ends (.carve f) f.h (fun x s => x.act ≠ [] ∧ kib f x s ∉ [64, 128, 192, 256]) (everyone f.d false fun _ _ => 0xFFFFFFFF) on) ∧
  (∀ f, Ends (.carve f) f.h (fun x s => x.act ≠ [] ∧ kib f x s ∈ [64, 128, 192, 256] ∧ (s.core x.core).fused = true)
    (everyone f.d false fun _ _ => 0xFFFFFFFD) on) ∧
  (∀ f, Ends (.carve f) f.h (fun x s => x.act ≠ [] ∧ kib f x s ∈ [64, 128, 192, 256] ∧ (s.core x.core).fused = false ∧
      (s.core x.core).l1kib < kib f x s ∧ ∃ t, x.team s = some t ∧ 0 < t.spadSize ∧ (640 - kib f x s) * 1024 < t.spadBase + t.spadSize)
    (everyone f.d false fun _ _ => 0xFFFFFFFE) on) ∧
  (∀ f, Ends (.carve f) f.h (fun x s => x.act ≠ [] ∧ kib f x s ∈ [64, 128, 192, 256] ∧ (s.core x.core).fused = false ∧
      kib f x s = (s.core x.core).l1kib) (everyone f.d false fun x s => BitVec.ofNat 64 (kib f x s)) on) ∧
  (∀ f, Ends (.carve f) f.h (fun x s => x.act ≠ [] ∧ kib f x s ∈ [64, 128, 192, 256] ∧ (s.core x.core).fused = false ∧
      kib f x s ≠ (s.core x.core).l1kib ∧ ∃ t, x.team s = some t ∧ ((s.core x.core).l1kib < kib f x s →
        t.spadSize = 0 ∨ t.spadBase + t.spadSize ≤ (640 - kib f x s) * 1024))
    (fun x s => { (x.act.foldl (fun r fid => State.waiting r x fid (.carve s.uid f.d)) s).modCore x.core fun k =>
      { k with carve := k.carve ++ [(s.uid, x.slot, kib f x s)] } with uid := s.uid + 1 }) othersOn) ∧
  ∀ (s : State) (id slot want : Nat) (rest : List (Nat × Nat × Nat)), let c := s.par.core
    (s.core c).carve = (id, slot, want) :: rest → (s.core c).fused = false →
    (want ≤ (s.core c).l1kib ∨ ∀ t ∈ (s.core c).teams, t.spadSize = 0 ∨ t.spadBase + t.spadSize ≤ (640 - want) * 1024) →
    (∀ t, s.team? c slot = some t → ∀ g ∈ t.fibres, g.stepping = false) → want ≤ 256 → (s.core c).l1kib ≤ 256 →
    (s.core c).canonical = true →
    ∃ t, exec .carveChangeComplete s = .next t ∧ (t.core c).l1kib = want ∧ (t.core c).carve = rest ∧
      ∀ b, Memory.get (t.core c).spad b =
        if min ((640 - (s.core c).l1kib) * 1024) ((640 - want) * 1024) ≤ b ∧ b < max ((640 - (s.core c).l1kib) * 1024) ((640 - want) * 1024) then 0
        else Memory.get (s.core c).spad b

/-- R226: each active fibre is owed the word of its own address. -/
def Sys2Proof.Spec.TranslationQuery : Prop :=
  ∀ (f : FM) (w : Nat → BitVec 64), Ends (.tlbq f) f.h
    (fun x s => (∃ t, x.team s = some t ∧ ∀ fid ∈ x.act, queried s x.core t (address f x s fid) (w fid)) ∧
      (s.core x.core).walkFail = [] ∧ (Operand.isUniform f.d = true → ∀ a ∈ x.act, ∀ b ∈ x.act, w a = w b))
    (fun x s => s.owed x .ready (x.act.map fun fid => (fid, [(f.d, true, w fid)]))) on

/-- R225, R226. The carve-out, and the query of a translation. -/
def Obligations.CarveOutAndTranslation : Prop := CarveOut ∧ TranslationQuery
namespace Sys2Proof.Spec

open Sys2Proof Sys2Proof.Machine

-- the matrix unit and the gather unit (R227-R239)

/-- The command that an engine instruction places, with what it captured (R227). -/
def command (kind : EngKind) (x : Ctx) (s : State) : EngCmd :=
  ⟨s.uid, x.slot, x.act.headD 0, x.pc, kind, 0, none, false, false, false, false, false, [], [], [], []⟩

/-- A queue of 16 entries has a free one; a command whose effects are performed holds none. -/
def room (n : Nat) (q : List EngCmd) : Prop := (q.filter fun e => !e.moved).length < n

/-- The gang has an active fibre, check 9 finds nothing, no `tdset` of the descriptors is under way, and the queues have room. -/
def mayPlace (gather : Bool) (chk : Ctx → State → List (Nat × Trap)) (tds : List Nat) (x : Ctx) (s : State) : Prop :=
  x.act ≠ [] ∧ (∃ t, x.team s = some t) ∧ chk x s = [] ∧ s.tdHeld x.core x.slot tds = false ∧ room 16 (s.core x.core).eqmx ∧
  (gather = true → room 16 (s.core x.core).eqgx)

/-- The command stands in `eq.mx`, and for a gathering one in `eq.gx`. -/
def placed (gather : Bool) (kind : Ctx → State → EngKind) (x : Ctx) (s : State) : State :=
  { s.modCore x.core fun k =>
      { k with eqmx := k.eqmx ++ [command (kind x s) x s], eqgx := if gather then k.eqgx ++ [command (kind x s) x s] else k.eqgx } with
    uid := s.uid + 1 }

def teamOf (x : Ctx) (s : State) : Team := (x.team s).getD Team.blank

/-- A descriptor and the tariff entries it names. -/
def tensor (n : BitVec 8) (x : Ctx) (s : State) : Desc := (teamOf x s).desc n.toNat
def elemTar (n : BitVec 8) (x : Ctx) (s : State) : BitVec 64 := (teamOf x s).tar (tensor n x s).etar
def scaleTar (n : BitVec 8) (x : Ctx) (s : State) : BitVec 64 := (teamOf x s).tar (tensor n x s).star

/-- What `mxloop` captures: k0 in D, m0 and n0 in A, the tensor scales in B with `.ts`, else 1.0 (R232). -/
def loopOf (f : FE) (gather : Bool) (x : Ctx) (s : State) : EngKind :=
  let scale (hi : Bool) : BitVec 32 :=
    if f.ev.getLsbD 0 then (if hi then (x.rdU s true f.b).extractLsb' 32 32 else (x.rdU s true f.b).extractLsb' 0 32) else 0x3F800000
  .mxloop f.acc.toNat (f.t1 == 0) (f.ev.getLsbD 1) (tensor f.tda x s) (tensor f.tdb x s) (elemTar f.tda x s) (elemTar f.tdb x s)
    (scaleTar f.tda x s) (scaleTar f.tdb x s) ((x.rdU s false f.d).setWidth 32) ((x.rdU s false f.a).setWidth 32) f.ks.toNat (scale false) (scale true)
    (if gather then some (nth [] (teamOf x s).rowLists f.acc.toNat) else none)

/-- What a drain captures: m0 and n0 in A, and with `.q` the tensor scale in D and the fibre's `SRSTEP` (R238, R239). -/
def drainOf (f : FE) (q : Bool) (x : Ctx) (s : State) : EngKind :=
  .mxdrain f.acc.toNat (f.t1 == 0) q f.ev.toNat (tensor f.tda x s) (if q then tensor f.tdb x s else Desc.of 0) (elemTar f.tda x s)
    (scaleTar f.tda x s) ((x.rdU s false f.a).setWidth 32) ((x.rdU s false f.d).setWidth 32)
    (((s.fibre? x.core x.slot (x.act.headD 0)).map (·.srstep)).getD 0) (match f.b with | .b n => some n.toNat | _ => none)

/-- The matrix commands that `mxwait` waits for: of the tile, or with `.all` of every tile (R237). -/
def awaited (f : FE) (x : Ctx) (s : State) (e : EngCmd) : Prop :=
  e ∈ (s.core x.core).eqmx ∧ e.slot = x.slot ∧ e.id < s.uid ∧ ∃ n, e.kind.acc? = some n ∧ (f.ev.getLsbD 0 = true ∨ n = f.acc.toNat)

/-- What of a command `mxwait` waits for: that it has completed, or with `.rd` that it has read its operands. -/
def overFor (f : FE) (e : EngCmd) : Prop := e.moved = true ∨ (f.ev.getLsbD 1 = true ∧ e.readAll = true)

/-- A whole number as an exact value. -/
def exactly (n : Int) : Val := .fin (decide (n < 0)) n.natAbs 1

end Sys2Proof.Spec

/-- R227, R232, R234-R239. Matrix instructions capture their operands, descriptors and tariff entries and place one command. -/
def Sys2Proof.Spec.MatrixIssue : Prop :=
  (∀ f, Ends (.mxzero f) f.h (mayPlace false noCheck []) (placed false fun _ _ => .mxzero f.acc.toNat) on) ∧
  (∀ f, Ends (.mxloop f) f.h (mayPlace false (mxloopCheck f) [f.tda.toNat, f.tdb.toNat]) (placed false (loopOf f false)) on) ∧
  (∀ f, Ends (.mxloopG f) f.h (mayPlace true (mxloopCheck f) [f.tda.toNat, f.tdb.toNat]) (placed true (loopOf f true)) on) ∧
  (∀ f, Ends (.mxdrain f) f.h (mayPlace false (drainCheck f false) [f.tda.toNat]) (placed false (drainOf f false)) on) ∧
  (∀ f, Ends (.mxdrainQ f) f.h (mayPlace false (drainCheck f true) [f.tda.toNat, f.tdb.toNat])
    (fun x s => if f.ev = 4 then (placed false (drainOf f true) x s).modFibre x.core x.slot (x.act.headD 0) fun g => { g with srstep := g.srstep + 1 }
      else placed false (drainOf f true) x s) on) ∧
  (∀ f, Ends (.gxrows f) f.h (fun x s => x.act ≠ [] ∧ ∃ t, x.team s = some t)
    (fun x s => s.modTeam x.core x.slot fun t => { t with rowLists := t.rowLists.set f.acc.toNat ((List.range 32).map fun l =>
      ((x.act.find? fun fid => ((teamOf x s).fibre? fid).any fun (g : Fibre) => g.lane == l).map fun fid =>
        (x.rd s fid false f.a).setWidth 32).getD 0xFFFFFFFF) }) on) ∧
  (∀ f, Ends (.mxwait f) f.h (fun x s => ∀ e, awaited f x s e → overFor f e) same on) ∧
  ∀ f, Ends (.mxwait f) f.h (fun x s => ∃ e, awaited f x s e ∧ ¬ overFor f e)
    (fun x s => x.act.foldl (fun r fid => State.waiting r x fid (.matrix s.uid (if f.ev.getLsbD 0 then none else some f.acc.toNat)
      (f.ev.getLsbD 1))) s) othersOn

/-- R232. Each word of the tile takes the sum of 32 exact products: in an INT32 tile it wraps, or with `.sat` it is clamped and counted; in an
FP32 tile it is rounded once, and a NaN there is a first one where no operand is NaN (R249). -/
def Obligations.MatrixStepArithmetic : Prop :=
  (∀ (w : BitVec 32) (nan : Bool) (a b : List Int), a.length = b.length →
    let x := w.toInt + ((a.zip b).map fun p => p.1 * p.2).sum
    (kstepWord false false w nan (a.map exactly) (b.map exactly)).1 = BitVec.ofInt 32 x ∧
    (kstepWord false true w nan (a.map exactly) (b.map exactly)).1 = BitVec.ofInt 32 (max (-2 ^ 31) (min (2 ^ 31 - 1) x)) ∧
    (kstepWord false true w nan (a.map exactly) (b.map exactly)).2.1 = if x < -2 ^ 31 ∨ 2 ^ 31 - 1 < x then ⟨0, 0, 1, 0⟩ else Cnt.zero) ∧
  (∀ (w : BitVec 32) (nan : Bool) (a b : List Int), a.length = b.length → (fmtF32.decode w.toNat).isNan = false →
    (kstepWord true false w nan (a.map exactly) (b.map exactly)).1 =
      BitVec.ofNat 32 (fmtF32.encode ((fmtF32.decode w.toNat).add (((a.zip b).map fun p => (exactly p.1).mul (exactly p.2)).foldl (fun S v => S.add v 0)
        (exactly 0)) 0) 0 0).1) ∧
  (∀ (sat nan : Bool) (w : BitVec 32) (a b : List Val),
    let r := kstepWord true sat w nan a b
    r.2.2 = true ↔ (fmtF32.decode r.1.toNat).isNan = true ∧ (fmtF32.decode w.toNat).isNan = false ∧ nan = false) ∧
  ∀ (s : State) (c : Nat) (e : EngCmd) (t : Team) (n : Nat) (f32 sat : Bool) (da db : Desc) (ta tb sa sb : BitVec 64) (k0 mn : BitVec 32) (ks : Nat)
    (tsa tsb : BitVec 32) (rows : Option (List (BitVec 32))), e.kind = .mxloop n f32 sat da db ta tb sa sb k0 mn ks tsa tsb rows →
    s.team? c e.slot = some t → t.nantrap = false → (s.core c).canonical = true →
    let k := k0.toNat + 32 * e.prog
    let rowA (i : Nat) : List MxElem := match e.latch with
      | some l => (l.drop (32 * i)).take 32
      | none => s.mxRow c da (Fmt.of ta) (mn.toNat % 2 ^ 16 + i) k
    let value (f sc : BitVec 64) (ts : BitVec 32) (r : List MxElem) : List Val :=
      r.map fun x => (elemVal (Fmt.of f) (Fmt.of sc) (fmtF32.decode ts.toNat) x).1
    ∃ u, (s.kstep c e).team? c e.slot = some u ∧ (s.kstep c e).mem = s.mem ∧
      (∀ m i, m ≠ n → i < 1024 → u.tile m i = t.tile m i) ∧
      ∀ i j, i < 32 → j < 32 → ∀ nan, u.tile n (32 * i + j) = (kstepWord f32 sat (t.tile n (32 * i + j)) nan (value ta sa tsa (rowA i))
        (value tb sb tsb (s.mxRow c db (Fmt.of tb) (mn.toNat / 2 ^ 16 + j) k))).1

/-- R233, R235, R236, R239. The steps of the matrix commands: a k-step once its tile is free and its operands are there, the rows that it gathers,
the completion of `mxzero` and `mxloop`, and a drain with its arrival. -/
def Obligations.MatrixSteps : Prop :=
  (∀ (s : State) (e : EngCmd) (n : Nat) (f32 sat : Bool) (da db : Desc) (ta tb sa sb : BitVec 64) (k0 mn : BitVec 32) (ks : Nat)
    (tsa tsb : BitVec 32), let c := s.par.core
    (s.core c).cmd? 0 s.par.id = some e → e.kind = .mxloop n f32 sat da db ta tb sa sb k0 mn ks tsa tsb none →
    e.readAll = false → (s.core c).mxReady e = true → (kstepBytes e).any (fun b => s.engHeld c e.id e.id b.1 b.2) = false →
    e.prog + 1 < ks → (∀ t ∈ (s.core c).teams, ∀ g ∈ t.fibres, g.wait = none) → (∀ g ∈ (s.core c).eqmx ++ (s.core c).eqcp ++ (s.core c).eqgx, g.kind.isFence = false) →
    ∃ t, exec .mxKstep s = .next t ∧ (s.kstep c e).mem = t.mem ∧ (t.core c).teams = ((s.kstep c e).core c).teams ∧
      (t.core c).cmd? 0 e.id = some { e with prog := e.prog + 1, latch := none }) ∧
  (∀ (s : State) (e g : EngCmd) (n : Nat) (f32 sat : Bool) (da db : Desc) (ta tb sa sb : BitVec 64) (k0 mn : BitVec 32) (ks : Nat)
    (tsa tsb : BitVec 32) (rows : List (BitVec 32)), let c := s.par.core
    let k := k0.toNat + 32 * e.prog
    (s.core c).cmd? 2 s.par.id = some g → (s.core c).cmd? 0 s.par.id = some e →
    e.kind = .mxloop n f32 sat da db ta tb sa sb k0 mn ks tsa tsb (some rows) → e.readAll = false → e.latch = none →
    (s.core c).mayBegin 2 g.id = true → (∀ q ∈ (s.core c).eqmx, q.kind.isFence = false) → ((rows.flatMap fun r => rowBytes da (Fmt.of ta) r.toNat k).any fun b => s.engHeld c e.id e.id b.1 b.2) = false →
    exec .gatherRowsFetch s = .next (s.modCmd c e.id fun q => { q with latch := some (rows.flatMap fun r => s.mxRow c da (Fmt.of ta) r.toNat k) })) ∧
  (∀ (s : State) (e : EngCmd) (n : Nat) (t : Team), let c := s.par.core
    (s.core c).cmd? 0 s.par.id = some e → e.kind = .mxzero n → (s.core c).mxReady e = true → s.team? c e.slot = some t →
    (∀ u ∈ (s.core c).teams, ∀ g ∈ u.fibres, g.wait = none) → (s.core c).canonical = true →
    ∃ t', exec .mxCommandComplete s = .next t' ∧ (t'.core c).cmd? 0 e.id = none ∧ t'.mem = s.mem ∧
      ∃ u, t'.team? c e.slot = some u ∧ (∀ i, i < 1024 → u.tile n i = 0) ∧ ∀ m i, m ≠ n → i < 1024 → u.tile m i = t.tile m i) ∧
  (∀ (s : State) (e : EngCmd) (n : Nat) (f32 sat : Bool) (da db : Desc) (ta tb sa sb : BitVec 64) (k0 mn : BitVec 32) (ks : Nat)
    (tsa tsb : BitVec 32) (rows : Option (List (BitVec 32))), let c := s.par.core
    (s.core c).cmd? 0 s.par.id = some e → e.kind = .mxloop n f32 sat da db ta tb sa sb k0 mn ks tsa tsb rows → e.readAll = true →
    exec .mxCommandComplete s = .next (s.finishCmd c e.id)) ∧
  (∀ (s : State) (e : EngCmd) (t : Team) (n : Nat) (f32 : Bool) (mode : Nat) (dd dp : Desc) (td sd : BitVec 64) (mn ts : BitVec 32)
    (sr : BitVec 16) (bar : Option Nat), let c := s.par.core
    (s.core c).cmd? 0 s.par.id = some e → e.kind = .mxdrain n f32 false mode dd dp td sd mn ts sr bar → s.team? c e.slot = some t →
    e.moved = false → (s.core c).mxReady e = true → (drainBytes false dd dp td mn).any (fun b => s.engHeld c e.id e.id b.1 b.2) = false →
    exec .mxDrainRun s = .next ((((((((List.range 1024).filter fun i =>
        decide (mn.toNat / 2 ^ 16 + i % 32 < dd.sz 0) && decide (mn.toNat % 2 ^ 16 + i / 32 < dd.sz 1)).map fun i => (i, (t.tile n i).toNat)).foldl
          (fun r k =>
            let p := dd.elemPos (Fmt.of td).w [mn.toNat / 2 ^ 16 + k.1 % 32, mn.toNat % 2 ^ 16 + k.1 / 32, 0, 0, 0]
            r.putEngBits c p.1 p.2 (Fmt.of td).w k.2) s).modTeam c e.slot (·.count 1 Cnt.zero)).modCmd c e.id
        fun q => { q with moved := true, readAll := true }).spawn .mxCommandComplete s.par).engineWake c)) ∧
  (∀ (s : State) (e : EngCmd) (n : Nat) (f32 q : Bool) (mode : Nat) (dd dp : Desc) (td sd : BitVec 64) (mn ts : BitVec 32)
    (sr : BitVec 16) (b : Nat), let c := s.par.core
    (s.core c).cmd? 0 s.par.id = some e → e.kind = .mxdrain n f32 q mode dd dp td sd mn ts sr (some b) → e.moved = true →
    exec .mxCommandComplete s = .next ((s.finishCmd c e.id).arrive c e.slot b (128 * (Fmt.of td).w) none)) ∧
  ∀ (s : State) (c id q : Nat), c ∈ s.coreNums → (∀ t ∈ (s.core c).teams, ∀ g ∈ t.fibres, g.stepping = false) → ((s.finishCmd c id).core c).cmd? q id = none ∧ (s.finishCmd c id).mem = s.mem

namespace Sys2Proof.Spec

open Sys2Proof Sys2Proof.Machine

-- the streamer, engine fences, descriptors and the tariff (R185, R240-R248)

/-- The role's uniform registers as signed coordinates: `k`A to `k`A+4 (R240). -/
def origin (f : FE) (x : Ctx) (s : State) : List Int :=
  (List.range 5).map fun d => ((teamOf x s).ureg (((s.fibre? x.core x.slot (x.act.headD 0)).map (·.role)).getD .copy)
    ((match f.a with | .k i => i.toNat | _ => 0) + d)).toInt

/-- What a copy captures (R227, R240, R242, R243). -/
def copied (f : FE) (k : CopyKind) (nofill : Bool) (sub : Nat) (x : Ctx) (s : State) : Copy × EngKind :=
  let d := x.rdU s (k == .mc) f.d
  let bar := match f.b with | .b n => if f.ev.toNat % 4 = 1 then some n.toNat else none | _ => none
  let ring := if f.ev.toNat % 4 = 2 then some ((x.rdU s false f.b).toNat % 2 ^ 32) else none
  let p : Copy := ⟨k, nofill, tensor f.tda x s, tensor f.tdb x s, elemTar f.tda x s, (d.setWidth 32).toNat, origin f x s, f.ev.toNat % 4, bar, ring,
    if k = .mc then d.extractLsb' 32 32 else 0⟩
  (p, .copy k nofill p.da p.db p.ta (elemTar f.tdb x s) p.off p.org p.ev bar ring p.mcm sub)

/-- A copy is to write the own core's scratchpad, so that it takes a range entry (R185). -/
def writesHere (p : Copy) (targets : List Nat) (x : Ctx) : Bool :=
  (p.kind == .ld || p.kind == .mc) && targets.any fun g => g / 16 == x.core

/-- Checks 9 and 10 find nothing against the copy, and there is room for it (R185, R199, R240, R242). -/
def mayCopy (f : FE) (k : CopyKind) (chk : Ctx → State → List (Nat × Trap)) (p : Copy) (targets : List Nat) (x : Ctx) (s : State) : Prop :=
  x.act ≠ [] ∧ chk x s = [] ∧ s.tdHeld x.core x.slot (if k = .pf then [f.tda.toNat] else [f.tda.toNat, f.tdb.toNat]) = false ∧
  (∃ t, x.team s = some t ∧ s.copyTrap x.core t p = none ∧ s.copyTargets x.core t p = some targets) ∧ room 32 (s.core x.core).eqcp ∧
  (writesHere p targets x = true → (s.core x.core).ranges.length < 64)

/-- The copy stands in `eq.cp`, its range in the scoreboard, rounded outward to 32 bytes, and it has captured its pinned pages. -/
def copyOut (k : CopyKind) (p : Copy) (kind : EngKind) (targets : List Nat) (x : Ctx) (s : State) : State :=
  let e := { command kind x s with targets := if k = .pf then [] else targets }
  let r : RangeEnt := ⟨s.uid, s.uid, p.range.1 / 32 * 32, (p.range.2 + 31) / 32 * 32⟩
  ({ s.modCore x.core fun c => { c with eqcp := c.eqcp ++ [e], ranges := if writesHere p targets x then c.ranges ++ [r] else c.ranges } with
    uid := s.uid + 1 }).capturePins x.core (teamOf x s) s.uid p.pages

/-- The issue of a copy. -/
def Copies (i : Instr) (f : FE) (k : CopyKind) (nofill : Bool) (sub : Nat) (chk : Ctx → State → List (Nat × Trap)) : Prop :=
  ∀ targets : Ctx → State → List Nat, Ends i f.h (fun x s => mayCopy f k chk (copied f k nofill sub x s).1 (targets x s) x s)
    (fun x s => copyOut k (copied f k nofill sub x s).1 (copied f k nofill sub x s).2 (targets x s) x s) on

/-- A fence's mask and the queues that it names. -/
def mask (f : FR) : BitVec 3 := match f.a with | .imm i => i.setWidth 3 | _ => 0

/-- Every named queue has room for a fence (R199, R246). -/
def fenceRoom (f : FR) (x : Ctx) (s : State) : Prop :=
  ((mask f).getLsbD 0 = true → room 16 (s.core x.core).eqmx) ∧ ((mask f).getLsbD 1 = true → room 32 (s.core x.core).eqcp) ∧
  ((mask f).getLsbD 2 = true → room 16 (s.core x.core).eqgx)

/-- A command of the team that entered a named queue earlier has not completed. -/
def unfinished (f : FR) (x : Ctx) (s : State) (e : EngCmd) : Prop :=
  e.slot = x.slot ∧ e.id < s.uid ∧ e.moved = false ∧ e.kind.isFence = false ∧
  (((mask f).getLsbD 0 = true ∧ e ∈ (s.core x.core).eqmx) ∨ ((mask f).getLsbD 1 = true ∧ e ∈ (s.core x.core).eqcp) ∨
    ((mask f).getLsbD 2 = true ∧ e ∈ (s.core x.core).eqgx))

def fenced (f : FR) (x : Ctx) (s : State) : State :=
  let e := command (.fence (mask f)) x s
  let on (n : Nat) (q : List EngCmd) : List EngCmd := if (mask f).getLsbD n then q ++ [e] else q
  { s.modCore x.core fun k => { k with eqmx := on 0 k.eqmx, eqcp := on 1 k.eqcp, eqgx := on 2 k.eqgx } with uid := s.uid + 1 }

/-- The only active lane's 64 bytes lie in the allotment, and the banks have room (R181, R247). -/
def descLane (f : FE) (kind : SpKind) (fid a : Nat) (x : Ctx) (s : State) : Prop :=
  x.act = [fid] ∧ a = ((x.rd s fid false f.a).setWidth 32).toNat ∧ a % 64 = 0 ∧ s.tdHeld x.core x.slot [f.tda.toNat] = false ∧
  s.acqOpen x.core x.slot fid = false ∧ a < 0xFF000 ∧ (∃ t, x.team s = some t ∧ t.spadBase ≤ a ∧ a + 64 ≤ t.spadBase + t.spadSize) ∧
  (s.core x.core).bankRoom ((List.range 16).map fun i => ⟨s.uid, a + 4 * i, none, s.uid⟩) = true ∧
  (kind.isLoad = true → (s.spOps.filter fun p => p.core == x.core && p.kind.isLoad).length < 128) ∧
  (kind.isLoad = false → ∃ g, s.fibre? x.core x.slot fid = some g ∧ g.unack < 65527)

def descLoad (f : FE) (fid : Nat) (x : Ctx) (s : State) : State :=
  State.spadOut s x (spadOp (.desc f.tda.toNat) false [⟨fid, x.core * 2 ^ 20 + ((x.rd s fid false f.a).setWidth 32).toNat, 0, 0, 0, none⟩] none s.uid x s)

def descStore (f : FE) (fid : Nat) (x : Ctx) (s : State) : State :=
  let v := sparseGet 0 (teamOf x s).tdesc f.tda.toNat
  (List.range 8).foldl (fun r i => State.spadOut (State.counted r x fid) x (spadOp (.store 9) false
    [⟨fid, x.core * 2 ^ 20 + (((x.rd s fid false f.a).setWidth 32).toNat + 8 * i), v.extractLsb' (64 * i) 64, 0, 0, none⟩] none r.uid x s)) s

def immediate (o : Operand) : Nat := match o with | .imm i => i.toNat | _ => 0

end Sys2Proof.Spec

/-- R185, R227, R240-R243. A copy captures its operands, descriptors, origin and event, and stands in `eq.cp`. -/
def Sys2Proof.Spec.CopyIssue : Prop :=
  (∀ f, Copies (.cpyLd f) f .ld false 0 (copyCheck f false false)) ∧ (∀ f, Copies (.cpyLdNf f) f .ld true 1 (copyCheck f false false)) ∧
  (∀ f, Copies (.cpySt f) f .st false 0 (copyCheck f false false)) ∧
  (∀ f op, Copies (.cpyRed op f) f (.red op) false (match op with | .add => 0 | .min => 1 | .max => 2) (copyCheck f true false)) ∧
  (∀ f, Copies (.cpyMc f) f .mc false 0 (copyCheck f false false)) ∧ (∀ f, Copies (.cpyMcNf f) f .mc true 1 (copyCheck f false false)) ∧
  ∀ f, Copies (.cpyPf f) f .pf false 0 (copyCheck f false true)

/-- R246. A fence behind which nothing is open passes; else it takes an entry in each named queue, and with `.w` the active fibres wait. -/
def Sys2Proof.Spec.EngineFences : Prop :=
  (∀ i f, i = .eqfence f ∨ i = .eqfenceW f →
    Ends i f.h (fun x s => x.act ≠ [] ∧ fenceRoom f x s ∧ ∀ e, ¬ unfinished f x s e) (fun _ s => { s with uid := s.uid + 1 }) on) ∧
  (∀ f, Ends (.eqfence f) f.h (fun x s => x.act ≠ [] ∧ fenceRoom f x s ∧ ∃ e, unfinished f x s e) (fenced f) on) ∧
  ∀ f, Ends (.eqfenceW f) f.h (fun x s => x.act ≠ [] ∧ fenceRoom f x s ∧ ∃ e, unfinished f x s e)
    (fun x s => x.act.foldl (fun r fid => State.waiting r x fid (.fence s.uid)) (fenced f x s)) othersOn

/-- R185, R227, R232, R234-R243, R246. The commands of the matrix engine and the streamer as they are placed, and their fences. -/
def Obligations.EngineIssue : Prop := MatrixIssue ∧ CopyIssue ∧ EngineFences

/-- R247, R248. `tset` changes one tariff entry, `tget` answers it or `CPFILL`; `tdset` reads the 64 bytes of a descriptor from the allotment and
`tdget` stores them there. -/
def Obligations.TariffAndDescriptors : Prop :=
  (∀ f, Ends (.tset f) f.h (fun x _ => x.act ≠ [])
    (fun x s => s.modTeam x.core x.slot fun t => { t with tariff := t.tariff.set (immediate f.a - 16) (x.rdU s true f.b) }) on) ∧
  (∀ f, Ends (.tget f) f.h (fun x _ => x.act ≠ []) (everyone f.d true fun x s => (teamOf x s).tar (immediate f.a)) on) ∧
  (∀ f, Ends (.tgetFill f) f.h (fun x _ => x.act ≠ []) (everyone f.d false fun x s => BitVec.ofNat 64 (teamOf x s).cpfill) on) ∧
  (∀ f, Ends (.tgetFillc f) f.h (fun x _ => x.act ≠ [])
    (fun x s => everyone f.d false (fun _ _ => BitVec.ofNat 64 (teamOf x s).cpfill) x (s.modTeam x.core x.slot fun t => { t with cpfill := 0 })) on) ∧
  (∀ f fid a, Ends (.tdset f) f.h (descLane f (.desc f.tda.toNat) fid a) (descLoad f fid) on) ∧
  (∀ f fid a, Ends (.tdget f) f.h (descLane f (.store 9) fid a) (descStore f fid) on) ∧
  ∀ (s : State) (o : SpOp) (l : SpLane) (n : Nat), o.kind = .desc n → o.lanes = [l] → l.refused = false → o.acq = none → o.remote = false →
    (∀ f, s.fibre? o.core o.slot l.fid = some f → f.wait = none) →
    s.spFinish o = (({ s with spOps := s.spOps.filter (·.id != o.id) }.modTeam o.core o.slot fun t =>
      { t with tdesc := sparsePut 0 t.tdesc n (o.desc l) }).modTeam o.core o.slot (·.landTogether o.id (s.now o.core)))

/-- R240, R241, R243. One element of a copy: a load writes the tensor's bits to the scratchpad element, a store the scratchpad's bits to the tensor's
bytes and to no others, and a clipped element of a load takes the fill and counts in `CPFILL`, or with no fill is left alone. -/
def Obligations.CopyElements : Prop :=
  (∀ (s : State) (c : Nat) (t : Team) (e : EngCmd) (p : Copy) (i : Nat) (cs : List Nat) (pa : Nat → Nat),
    p.kind = .ld → p.tensor i = some cs →
    let at_ := p.da.elemPos p.w cs
    let n := (at_.2 + p.w + 7) / 8
    s.elemAt c t e.id .read at_.1 n = .home pa →
    s.copyElem c t e p i = (s.putEngBits c (p.spad i).1 (p.spad i).2 p.w
      (leNat ((List.range n).map fun j => Memory.get s.mem (pa j)) / 2 ^ at_.2 % 2 ^ p.w), .next)) ∧
  (∀ (s : State) (c : Nat) (t : Team) (e : EngCmd) (p : Copy) (i : Nat) (cs : List Nat) (pa : Nat → Nat),
    p.kind = .st → p.tensor i = some cs →
    let at_ := p.da.elemPos p.w cs
    let n := (at_.2 + p.w + 7) / 8
    s.elemAt c t e.id .write at_.1 n = .home pa → (∀ j k, j < n → k < n → pa j = pa k → j = k) →
    Memory.wf s.mem = true →
    ∃ r, s.copyElem c t e p i = (r, .next) ∧ (∀ a, (∀ j, j < n → a ≠ pa j) → Memory.get r.mem a = Memory.get s.mem a) ∧
      leNat ((List.range n).map fun j => Memory.get r.mem (pa j)) / 2 ^ at_.2 % 2 ^ p.w = s.engBits c (p.spad i).1 (p.spad i).2 p.w) ∧
  (∀ (s : State) (c : Nat) (t : Team) (e : EngCmd) (p : Copy) (i : Nat), p.kind = .ld → p.tensor i = none →
    s.copyElem c t e p i = if p.nofill then (s, .next) else
      ((s.putEngBits c (p.spad i).1 (p.spad i).2 p.w p.da.fill).modTeam c e.slot fun t => { t with cpfill := min (t.cpfill + 1) 0xFFFFFFFF }, .next)) ∧
  ∀ (s : State) (c : Nat) (t : Team) (e : EngCmd) (p : Copy) (i : Nat), p.kind = .st ∨ (∃ op, p.kind = .red op) → p.tensor i = none →
    s.copyElem c t e p i = (s, .next)

/-- R187, R242, R245, R319. The steps of a copy: it moves its box and is done, or stops at an element; it performs its completion action; a multicast
is delivered to each target; and it retires, with its range entry. -/
def Obligations.CopySteps : Prop :=
  (∀ (s r : State) (e : EngCmd) (p : Copy) (t : Team) (i : Nat), let c := s.par.core
    (s.core c).cmd? 1 s.par.id = some e → e.kind.copy? = some p → s.team? c e.slot = some t →
    e.moved = false → e.stopped = false → e.asked = false → e.readAll = false → (s.core c).mayBegin 1 e.id = true →
    p.kind ≠ .pf → p.kind ≠ .mc → s.engHeld c e.id e.id p.range.1 p.range.2 = false →
    s.copyRun c t e p (p.count - e.prog) e.prog = (r, i, .next) → (∃ q, (r.core c).cmd? 1 e.id = some q ∧ q.sectors = []) →
    exec .streamerCopyRun s = .next ((((r.modCmd c e.id fun q => { q with prog := i }).modCmd c e.id fun q =>
      { q with readAll := true, moved := true }).spawn .streamerCompletionAction s.par).engineWake c)) ∧
  (∀ (s r : State) (e : EngCmd) (p : Copy) (t : Team) (i va cause : Nat), let c := s.par.core
    (s.core c).cmd? 1 s.par.id = some e → e.kind.copy? = some p → s.team? c e.slot = some t →
    e.moved = false → e.stopped = false → e.asked = false → e.readAll = false → (s.core c).mayBegin 1 e.id = true →
    p.kind ≠ .pf → p.kind ≠ .mc → s.engHeld c e.id e.id p.range.1 p.range.2 = false →
    s.copyRun c t e p (p.count - e.prog) e.prog = (r, i, .stop va cause) → (r.core c).logRoom 4 = true →
    exec .streamerCopyRun s = .next ((((r.modCmd c e.id fun q => { q with prog := i }).modCmd c e.id fun q =>
      { q with stopped := true }).logEnter c t e.fid va e.pc (.copy e.id i) cause none).engineWake c)) ∧
  (∀ (s : State) (e : EngCmd) (p : Copy) (t : Team), let c := s.par.core
    (s.core c).cmd? 1 s.par.id = some e → e.kind.copy? = some p → s.team? c e.slot = some t →
    e.moved = false → e.stopped = false → e.asked = false → e.readAll = false → (s.core c).mayBegin 1 e.id = true →
    p.kind = .pf → exec .streamerCopyRun s = .next (s.finishCmd c e.id)) ∧
  (∀ (s : State) (e : EngCmd) (p : Copy) (n : Nat), let c := s.par.core
    (s.core c).cmd? 1 s.par.id = some e → e.kind.copy? = some p → e.moved = true → e.acted = false → p.kind ≠ .mc → s.pushing c e.id = false →
    p.bar = some n →
    exec .streamerCompletionAction s = .next ((s.arrive c e.slot n ((p.count * p.w + 7) / 8) none).copyTargetDone c e.id c)) ∧
  (∀ (s : State) (e : EngCmd) (p : Copy) (a : Nat), let c := s.par.core
    (s.core c).cmd? 1 s.par.id = some e → e.kind.copy? = some p → e.moved = true → e.acted = false → p.kind ≠ .mc → s.pushing c e.id = false →
    p.bar = none → p.ring = some a → (∃ t, s.team? c e.slot = some t ∧ t.spadBase ≤ a) →
    ∃ t, exec .streamerCompletionAction s = .next t ∧ t.mem = s.mem ∧ t.cores = s.cores ∧ t.qops = s.qops ++
      [⟨s.uid, .engine c e.id e.slot e.fid, .ring c a, .push (BitVec.ofNat 64 p.off) false false, .v 0, .v 0, false, s.uid, 0xFE * 2 ^ 56 + a⟩]) ∧
  (∀ (s : State) (e : EngCmd) (p : Copy), let c := s.par.core
    (s.core c).cmd? 1 s.par.id = some e → e.kind.copy? = some p → e.moved = true → e.acted = false → p.kind ≠ .mc → s.pushing c e.id = false →
    p.bar = none → p.ring = none → exec .streamerCompletionAction s = .next (s.copyTargetDone c e.id c)) ∧
  (∀ (s : State) (e : EngCmd) (p : Copy) (t u : Team) (g : Nat) (r : RangeEnt), let c := s.par.core
    let k := s.par.k
    let shift : Int := (u.spadBase : Int) - t.spadBase
    (s.core c).cmd? 1 s.par.id = some e → e.kind.copy? = some p → e.targets.find? (· / 16 == k) = some g → s.team? c e.slot = some t →
    e.readAll = true → k ∉ e.delivered → s.team? k (g % 16) = some u → (s.core k).ranges.find? (·.cmd == e.id) = some r →
    s.engHeld k r.id e.id ((p.range.1 : Int) + shift).toNat ((p.range.2 : Int) + shift).toNat = false →
    exec .multicastDelivery s = .next ((((s.writeTile k e p shift).modCmd c e.id fun q =>
      { q with delivered := q.delivered ++ [k], moved := decide (popCount p.mcm.toNat 16 ≤ q.delivered.length + 1) }).copyAction c e p k u.slot).engineWake c)) ∧
  ∀ (s : State) (e : EngCmd), let c := s.par.core
    (s.core c).cmd? 1 s.par.id = some e → e.acted = true → c ∈ s.coreNums → (∀ t ∈ (s.core c).teams, ∀ g ∈ t.fibres, g.stepping = false) →
    ∃ t, exec .rangeEntryRetire s = .next t ∧ t.mem = s.mem ∧ (t.core c).cmd? 1 e.id = none ∧
      (t.core c).ranges = (s.core c).ranges.filter (·.cmd != e.id)
namespace Sys2Proof.Spec

open Sys2Proof Sys2Proof.Machine

-- barriers (R106-R111, R270-R277, R315-R317, R369, R438-R440)

def barrierOf (o : Operand) : Nat := match o with | .b n => n.toNat | _ => 0

/-- Lane after lane, each on what the one before left, each a release that may pass (R190, R274). -/
def eachReady (x : Ctx) (op : State → Nat → State) : List Nat → State → Bool
  | [], _ => true
  | fid :: r, s => s.relReady x.core x.slot fid && eachReady x op r (op s fid)

/-- Barrier `n` of the team. -/
def State.barrier (s : State) (x : Ctx) (n : Nat) : Barrier := nth ⟨0, 0, 0, 0, 0, 0, false⟩ (teamOf x s).bars n

/-- The phase bit of a barrier. -/
def State.parity (s : State) (x : Ctx) (n : Nat) : Bool := (State.barrier s x n).ph.getLsbD 0

def putBit (v : BitVec 16) (n : Nat) (b : Bool) : BitVec 16 := if b then v ||| (1#16 <<< n) else v &&& ~~~(1#16 <<< n)

/-- A fibre has seen fewer phases complete than have (R272). -/
def behind (s : State) (x : Ctx) (n fid : Nat) : Bool :=
  (s.fibre? x.core x.slot fid).any fun (g : Fibre) => g.bpar.getLsbD n != State.parity s x n

/-- A wait of one fibre: it takes note of a completed phase, or waits for one. -/
def waitStep (n : Nat) (x : Ctx) (s : State) (fid : Nat) : State :=
  s.modFibre x.core x.slot fid fun g =>
    if behind s x n fid then { g with bpar := putBit g.bpar n (State.parity s x n) } else { g with wait := some (.barrier n) }

/-- `barvw` of one fibre: it arrives once, then waits (R275). -/
def arriveWaitStep (n : Nat) (x : Ctx) (s : State) (fid : Nat) : State :=
  let r := (s.arrive x.core x.slot n 0 (some fid)).modFibre x.core x.slot fid fun g => { g with bwait := true }
  r.modFibre x.core x.slot fid fun g =>
    if behind r x n fid then { g with bwait := false, bpar := putBit g.bpar n (State.parity r x n) } else { g with wait := some (.barrier n) }

/-- The fibres that go on, of those that arrive and wait in turn. -/
def passing (n : Nat) (x : Ctx) : List Nat → State → List Nat
  | [], _ => []
  | fid :: r, s =>
    let a := (s.arrive x.core x.slot n 0 (some fid)).modFibre x.core x.slot fid fun g => { g with bwait := true }
    (if behind a x n fid then [fid] else []) ++ passing n x r (arriveWaitStep n x s fid)

def arriveStep (n : Nat) (x : Ctx) (s : State) (fid : Nat) : State := s.arrive x.core x.slot n 0 (some fid)

/-- A member leaves the barrier. -/
def leaveStep (n : Nat) (x : Ctx) (s : State) (fid : Nat) : State :=
  if (s.fibre? x.core x.slot fid).any fun (g : Fibre) => g.bmem.getLsbD n then
    (s.memberEnds x.core x.slot fid n false).modFibre x.core x.slot fid fun g => { g with bmem := g.bmem &&& ~~~(1#16 <<< n) }
  else s

/-- The active fibres that `p` selects go on, the other active ones wait. -/
def someOn (p : Ctx → State → Nat → Bool) : Ctx → State → Fibre → Fibre := fun x s f => if f.fid ∈ x.act ∧ p x s f.fid = false then f else f.advance

/-- The word of `bars` (R276). -/
def statusWord (slot : Nat) (b : Barrier) : Nat :=
  b.ph.toNat * 2 ^ 48 + slot * 2 ^ 44 + (if b.loss then 2 ^ 43 else 0) + b.exp % 2048 * 2 ^ 32 + b.cnt % 2048 * 2 ^ 21 + b.dec % 2048 * 2 ^ 10

-- cluster, die and package barriers: levels 0, 1 and 2

def barrierNumber (f : FR) (x : Ctx) (s : State) : Nat := ((x.rdU s false f.a).setWidth 32).toNat

/-- The team may use the barrier: its number is in range, it belongs to the context, and to arrive at a cluster or die barrier the team is a
member (R317, R369, R440). -/
def mayUse (level n : Nat) (arrives : Bool) (x : Ctx) (s : State) : Prop :=
  x.act ≠ [] ∧ n ≤ (if level = 0 then 63 else 255) ∧ ∃ t, x.team s = some t ∧ (s.barView level x.core n).own = some t.ctx ∧
    (arrives = true → level < 2 → n ∈ (if level = 0 then (s.teamBarriers x.core t).1 else (s.teamBarriers x.core t).2))

/-- The gang's report is on its way, and its active fibres wait for the answer. -/
def reported (level : Nat) (aw : Bool) (f : FR) (x : Ctx) (s : State) : State :=
  let dom := if level = 0 then x.core / 256 else if level = 1 then x.core / 512 else 0
  let r : State := { s with reports := s.reports ++ [⟨s.uid, level, dom, barrierNumber f x s, x.core, x.slot, x.act, f.d, aw, false⟩], uid := s.uid + 1 }
  x.act.foldl (fun r fid => State.waiting r x fid (.report s.uid)) r

/-- The count that has been released lies 1 to 0x7FFF past the one given. -/
def released (level n : Nat) (b : BitVec 16) (x : Ctx) (s : State) : Prop :=
  1 ≤ ((s.barView level x.core n).vis - b).toNat ∧ ((s.barView level x.core n).vis - b).toNat ≤ 0x7FFF

/-- A completed wait is an acquire at the barrier's scope, and D takes the barrier's count and `LOSS`. -/
def passed (level : Nat) (f : FR) (x : Ctx) (s : State) : State :=
  let n := barrierNumber f x s
  let v := s.barView level x.core n
  everyone f.d false (fun _ _ => BitVec.ofNat 64 (v.ph.toNat + if v.loss then 2 ^ 16 else 0)) x (s.acquire x.core (s.barScope level n))

/-- The three forms of a level. -/
def LevelBarrier (level : Nat) (a w aw : FR → Instr) : Prop :=
  (∀ f, Ends (a f) f.h (fun x s => mayUse level (barrierNumber f x s) true x s ∧ ∀ fid ∈ x.act, s.relReady x.core x.slot fid = true)
    (reported level false f) othersOn) ∧
  (∀ f, Ends (w f) f.h (fun x s => mayUse level (barrierNumber f x s) false x s ∧
      released level (barrierNumber f x s) ((x.rdU s false f.b).setWidth 16) x s) (passed level f) on) ∧
  (∀ f, Ends (aw f) f.h (fun x s => (x.rdU s false f.d).getLsbD 31 = false ∧ mayUse level (barrierNumber f x s) true x s ∧
      ∀ fid ∈ x.act, s.relReady x.core x.slot fid = true) (reported level true f) othersOn) ∧
  ∀ f, Ends (aw f) f.h (fun x s => (x.rdU s false f.d).getLsbD 31 = true ∧ mayUse level (barrierNumber f x s) false x s ∧
      released level (barrierNumber f x s) ((x.rdU s false f.d).setWidth 16) x s) (passed level f) on

/-- No fibre of a report is stepped by a debugger. -/
def unstepped (s : State) (c slot : Nat) (fids : List Nat) : Prop := ∀ fid ∈ fids, ∀ g, s.fibre? c slot fid = some g → g.stepping = false

end Sys2Proof.Spec

/-- R272: an arrival counts, with its bytes; the last one of a phase completes it, which clears the arrivals, takes the departed from the
expectation and lets the waiting fibres go on; a member that ends lowers the expectation of this phase or of the next. -/
def Obligations.BarrierPhases : Prop :=
  (∀ (t : Team) (n bytes fid : Nat) (b : Barrier) (f : Fibre), t.bars[n]? = some b → b.cnt + 1 < 2048 → b.cnt + 1 < b.exp → t.fibre? fid = some f →
    n < 16 → f.bmem.getLsbD n = true →
    (t.arrive n bytes (some fid)).2 = [] ∧
    (t.arrive n bytes (some fid)).1.bars[n]? = some { b with byt := min (b.byt + bytes) 0xFFFFFFFF, cnt := b.cnt + 1 } ∧
    (t.arrive n bytes (some fid)).1.fibre? fid = some { f with barr := putBit f.barr n true }) ∧
  (∀ (t : Team) (n bytes : Nat) (b : Barrier), t.bars[n]? = some b → b.cnt + 1 < 2048 → b.exp ≤ b.cnt + 1 → (∀ f ∈ t.fibres, f.stepping = false) →
    (t.arrive n bytes none).1.bars[n]? = some ⟨b.ph + 1, b.exp - b.dec, 0, 0, 0, min (b.byt + bytes) 0xFFFFFFFF, b.loss⟩ ∧
    (t.arrive n bytes none).2 = (t.fibres.filter fun f => f.wait == some (.barrier n) && f.bpar.getLsbD n != (b.ph + 1).getLsbD 0).map (·.fid) ∧
    (t.arrive n bytes none).1.fibres = t.fibres.map fun f =>
      if f.wait = some (.barrier n) ∧ f.bpar.getLsbD n ≠ (b.ph + 1).getLsbD 0 then
        { ({ f with barr := f.barr &&& ~~~(1#16 <<< n) } : Fibre).advance with
          wait := none, bwait := false, bpar := putBit f.bpar n ((b.ph + 1).getLsbD 0) }
      else { f with barr := f.barr &&& ~~~(1#16 <<< n) }) ∧
  (∀ (t : Team) (n fid : Nat) (b : Barrier) (f : Fibre), t.bars[n]? = some b → t.fibre? fid = some f → f.barr.getLsbD n = true → b.dec + 1 < 2048 →
    t.memberEnds fid n false = ({ t with bars := t.bars.set n { b with dec := b.dec + 1 } }, [])) ∧
  ∀ (t : Team) (n fid : Nat) (b : Barrier) (f : Fibre), t.bars[n]? = some b → t.fibre? fid = some f → f.barr.getLsbD n = false → b.cnt < b.exp - 1 →
    t.memberEnds fid n true = ({ t with bars := t.bars.set n { b with loss := true, exp := b.exp - 1 } }, [])

/-- R190, R271-R276: the barrier instructions of a gang, its active fibres in lane order. -/
def Obligations.TeamBarriers : Prop :=
  (∀ f, Ends (.barv f) f.h
    (fun x s => eachReady x (arriveStep (barrierOf f.a) x) x.act s = true)
    (fun x s => x.act.foldl (arriveStep (barrierOf f.a) x) s) on) ∧
  (∀ f fid, Ends (.barvB f) f.h (fun x s => x.act = [fid] ∧ s.relReady x.core x.slot fid = true)
    (fun x s => s.arrive x.core x.slot (barrierOf f.a) ((x.rd s fid false f.b).toNat % 2 ^ 32) (some fid)) on) ∧
  (∀ f, Ends (.barw f) f.h (fun _ _ => True) (fun x s => x.act.foldl (waitStep (barrierOf f.a) x) s)
    (someOn fun x s fid => behind s x (barrierOf f.a) fid)) ∧
  (∀ f, Ends (.barvw f) f.h
    (fun x s => eachReady x (arriveWaitStep (barrierOf f.a) x) x.act s = true ∧
      ∀ fid ∈ x.act, ∀ g, s.fibre? x.core x.slot fid = some g → g.bwait = false ∧ g.wait = none)
    (fun x s => x.act.foldl (arriveWaitStep (barrierOf f.a) x) s)
    (someOn fun x s fid => (passing (barrierOf f.a) x x.act s).contains fid)) ∧
  (∀ f, Ends (.barx f) f.h (fun x s => eachReady x (arriveStep (barrierOf f.a) x) x.act s = true)
    (fun x s => x.act.foldl (leaveStep (barrierOf f.a) x) (x.act.foldl (arriveStep (barrierOf f.a) x) s)) on) ∧
  (∀ f, Ends (.bars f) f.h (fun x _ => x.act ≠ [])
    (everyone f.d true fun x s => BitVec.ofNat 64 (statusWord (teamOf x s).slot (State.barrier s x (barrierOf f.a)))) on) ∧
  (∀ f, Ends (.barsClr f) f.h (fun x _ => x.act ≠ [])
    (fun x s => everyone f.d true (fun _ _ => BitVec.ofNat 64 (statusWord (teamOf x s).slot (State.barrier s x (barrierOf f.a)))) x
      (s.modTeam x.core x.slot fun t => { t with bars := t.bars.modify (barrierOf f.a) fun b => { b with loss := false } })) on) ∧
  ∀ f, Ends (.barsB f) f.h (fun x _ => x.act ≠ [])
    (everyone f.d true fun x s => BitVec.ofNat 64 ((State.barrier s x (barrierOf f.a)).lbyt * 2 ^ 32 + (State.barrier s x (barrierOf f.a)).byt)) on

/-- R317, R369, R440. -/
def Obligations.WideBarriers : Prop :=
  LevelBarrier 0 .cbarA .cbarW .cbarAw ∧ LevelBarrier 1 .dbarA .dbarW .dbarAw ∧ LevelBarrier 2 .pbarA .pbarW .pbarAw

/-- R316, R369, R438, R439. A report of a member counts once; the last one completes the phase; a release makes the count visible. -/
def Obligations.BarrierReports : Prop :=
  (∀ (s : State) (r : Report), (s.reports.find? fun r => r.id == s.par.id && r.level == 0) = some r → unstepped s r.core r.slot r.fids →
    r.core ∈ (s.clusBar r.dom r.num).msk → r.core ∉ (s.clusBar r.dom r.num).rpt →
    let b := s.clusBar r.dom r.num
    ∃ t, exec .clusterBarrierReport s = .next t ∧ t.mem = s.mem ∧ t.clusBar r.dom r.num =
      if ∀ m ∈ b.msk, m ∈ b.rpt ∨ m = r.core then { b with ph := b.ph + 1, rpt := [] } else { b with rpt := b.rpt ++ [r.core] }) ∧
  (∀ (s : State) (r : Report) (u : Team), (s.reports.find? fun r => r.id == s.par.id && r.level == 1) = some r → unstepped s r.core r.slot r.fids →
    s.team? r.core r.slot = some u → u.member ∈ (s.dieBar r.dom r.num).memb → u.member ∉ (s.dieBar r.dom r.num).rep →
    r.dom < s.dies.length →
    let b := s.dieBar r.dom r.num
    ∃ t, exec .dieBarrierReport s = .next t ∧ t.mem = s.mem ∧ t.dieBar r.dom r.num =
      if b.rep.length + 1 = b.memb.length then { b with ph := b.ph + 1, rep := [] } else { b with rep := b.rep ++ [u.member] }) ∧
  (∀ (s : State) (r : Report), (s.reports.find? fun r => r.id == s.par.id && r.level == 2) = some r → unstepped s r.core r.slot r.fids →
    (s.pkgBar r.num).parent = none → (s.pkgBar r.num).children = [] →
    let b := s.pkgBar r.num
    ∃ t, exec .packageBarrierArrival s = .next t ∧ t.mem = s.mem ∧ t.pkgBar r.num =
      if b.cnt + 1 = b.exp then { b with ph := b.ph + 1, cnt := 0, exp := b.nextExp.getD b.exp, nextExp := none, forwarded := false }
      else { b with cnt := b.cnt + 1 }) ∧
  (∀ (s : State) (r : Report) (fid : Nat) (i : BitVec 8) (g : Fibre) (st : BitVec 64), r.fids = [fid] → r.aw = false → r.dst = .v i →
    s.fibre? r.core r.slot fid = some g → g.wait = some (.report r.id) → g.stepping = false → g.rep = none →
    ∃ h, (s.answerReport r st).fibre? r.core r.slot fid = some h ∧ h.pc = g.pc + 12 ∧ h.wait = none ∧
      h.pend = g.pend ++ [⟨.v i.toNat, false, st.extractLsb' 0 32, .ready, s.uid⟩] ∧ h.regs = g.regs) ∧
  (∀ s : State, exec .clusterBarrierRelease s = .next (s.setClusBar s.par.clus s.par.n
    { s.clusBar s.par.clus s.par.n with vis := (s.clusBar s.par.clus s.par.n).ph })) ∧
  (∀ s : State, exec .dieBarrierRelease s = .next (s.setDieBar s.par.die s.par.n { s.dieBar s.par.die s.par.n with vis := (s.dieBar s.par.die s.par.n).ph })) ∧
  ∀ s : State, exec .packageBarrierRelease s = .next (s.setPkgBar s.par.n { s.pkgBar s.par.n with vis := (s.pkgBar s.par.n).ph })

/-- R106, R108, R111. Two gangs that may merge become one, with its fibres in lane order and the later stall; an entry is given up to a fibre that has
been ready longer than every gang, and that changes nothing of the machine but the gang table. -/
def Obligations.GangTable : Prop :=
  (∀ (s : State) (g h : Gang) (t : Team), let c := s.par.core
    (s.core c).gangs[s.par.n]? = some g → (s.core c).gangs[s.par.k]? = some h → s.par.n < s.par.k → (s.core c).mergeable g h = true →
    (s.core c).team? g.slot = some t →
    ∃ e, exec .gangMerge s = .next e ∧ e.bare c = s.bare c ∧ (e.core c).gangs.length + 1 = (s.core c).gangs.length ∧
      (e.core c).gangs[s.par.n]? = some ⟨g.slot, (sortBy (·.lane) ((g.fids ++ h.fids).filterMap t.fibre?)).map (·.fid), max g.readyAt h.readyAt⟩) ∧
  ∀ (s : State) (g : Gang) (r : List Gang), let c := s.par.core
    (s.core c).gangs = g :: r → 64 ≤ (s.core c).gangs.length →
    (∃ l ∈ (s.core c).loose (s.core c).gangs, ∀ h ∈ (s.core c).gangs, l.readyAt < (s.core c).readySince h) →
    ∃ e, exec .gangEntryFree s = .next e ∧ e.bare c = s.bare c ∧ (e.core c).gangs = ((s.setCore c { s.core c with gangs := r ++ [g] }).core c).regang.gangs


namespace Sys2Proof.Spec

open Sys2Proof Sys2Proof.Machine

-- comparison, block quantisation, counters and the generator (R82, R86, R87, R138, R145-R147)

/-- The conditions of R138 on exact values. -/
def compared (cond : Nat) (a b : Val) : Bool :=
  match a.cmp b with
  | none => cond ∈ [1, 7]
  | some .lt => cond ∈ [1, 2, 3, 6]
  | some .eq => cond ∈ [0, 3, 5, 6]
  | some .gt => cond ∈ [1, 4, 5, 6]

/-- `Crng` of R82. -/
def generated (key : BitVec 64) (ctr : BitVec 32) (rounds : Nat) : BitVec 32 :=
  (List.range rounds).foldl (fun x i =>
    let y := (x ^^^ (if i % 2 = 0 then key.extractLsb' 0 32 else key.extractLsb' 32 32)) * 0x9E3779B1#32
    y ^^^ (y >>> 15)) ctr

def rounds (f : FR) : Nat := if f.rm = 0 then 2 else if f.rm = 1 then 4 else 8

def index (o : Operand) : Nat := match o with | .v i => i.toNat | _ => 0

/-- Elements of a block of an entry (R84). -/
def blockLength (e : Fmt) : Nat := if e.bsk = 3 then 16 else 32

/-- `sclq`: a block of the fibre's registers, quantised, the elements as one string in registers from D on, the scale code in B. -/
def quantising (f : FR) : FCalc :=
  ⟨f, 6, fun a b => isFloat a && isFloat b && b.bsk != 0, fun l =>
    let n := blockLength l.t2
    let ins := (List.range n).map fun i => l.t1.decodeIn ((l.reg (index f.a + i)).toNat % 2 ^ l.t1.w)
    let q := quantBlock l.t2 (l.t2.bsk == 2) (ins.map (·.1)) (fmtF32.decode ((l.rd f.c false).toNat % 2 ^ 32)) f.rm.toNat []
    let str := ((List.range n).map fun e => nth 0 q.2.1 e * 2 ^ (l.t2.w * e)).sum
    ((List.range (n * l.t2.w / 32)).map (fun r =>
        ((.v (BitVec.ofNat 8 (index f.d + r)), false, BitVec.ofNat 64 (str / 2 ^ (32 * r) % 2 ^ 32)) : Result)) ++
      [(f.b, false, BitVec.ofNat 64 q.1)], ins.foldl (fun c i => c.add i.2) q.2.2)⟩

/-- The runs of both lie in the window of every active fibre. -/
def runsFit (f : FR) (n w : Nat) (x : Ctx) (s : State) : Prop :=
  ∀ fid ∈ x.act, ∃ g, s.fibre? x.core x.slot fid = some g ∧ index f.a + n ≤ g.wsize ∧ index f.d + n * w / 32 ≤ g.wsize

def selector (f : FR) : Nat := match f.a with | .imm n => n.toNat | _ => 0

/-- The counter or sticky word of R146. -/
def counterOf (t : Team) (n : Nat) : Nat :=
  let q := nth ⟨0, 0, 0, 0, 0⟩ t.qsets (if n < 16 then n / 4 else n - 16)
  if n < 16 then (match n % 4 with | 0 => q.ufl | 1 => q.fls | 2 => q.ovr | _ => q.nls) else q.sticky.toNat

def cleared (n : Nat) (t : Team) : Team :=
  { t with qsets := t.qsets.modify (if n < 16 then n / 4 else n - 16) fun q =>
      if 16 ≤ n then { q with sticky := 0 }
      else match n % 4 with
        | 0 => { q with ufl := 0 }
        | 1 => { q with fls := 0 }
        | 2 => { q with ovr := 0 }
        | _ => { q with nls := 0 } }

end Sys2Proof.Spec

/-- R82, R138, R145-R147: a comparison, a block quantised in registers, a counter read for the gang and, with `.clr`, cleared, and the
generator. -/
def Obligations.ComparisonQuantisationAndCounters : Prop :=
  (∀ f, Ends (.fcmp f) f.h (fun x s => (x.fmt s f.t1).legal = true ∧ isFloat (x.fmt s f.t1) = true)
    (fun x s => s.owed x (.at (x.now + 4)) (x.act.map fun fid =>
      let v (o : Operand) : Val := ((x.fmt s f.t1).decodeIn ((x.rd s fid false o).toNat % 2 ^ (x.fmt s f.t1).w)).1
      (fid, [(f.d, false, bit (compared (f.xf.toNat % 8) (v f.a) (v f.b)))]))) on) ∧
  (∀ (f : FR) (s : State), let k := quantising f
    wf (.sclq f) = true → s.issues (.sclq f) f.h = true →
    (entry s (.sclq f) f.h f.t1).legal = true → (entry s (.sclq f) f.h f.t2).legal = true →
    k.ok (entry s (.sclq f) f.h f.t1) (entry s (.sclq f) f.h f.t2) = true →
    runsFit f (blockLength (entry s (.sclq f) f.h f.t2)) (entry s (.sclq f) f.h f.t2).w (s.issueCtx (.sclq f) f.h) (s.landed (.sclq f) f.h) →
    (s.issueTeam (.sclq f) f.h).trapsNan = false → outsAgree (fouts k s (.sclq f)) = true →
    State.becomes (exec (.sclq f) s) s.cur.core ((floatEffect k s (.sclq f)).advanced (s.issueCtx (.sclq f) f.h) f.h)) ∧
  (∀ f, Ends (.sclget f) f.h (fun _ _ => True)
    (fun x s => s.owed x (.at (x.now + 6)) (x.act.map fun fid => (fid, [(f.d, false, BitVec.ofNat 64 (counterOf (teamOf x s) (selector f)))]))) on) ∧
  (∀ f, Ends (.sclgetClr f) f.h (fun x _ => x.act ≠ [])
    (fun x s => (s.modTeam x.core x.slot (cleared (selector f))).owed x (.at (x.now + 6))
      (x.act.map fun fid => (fid, [(f.d, false, BitVec.ofNat 64 (counterOf (teamOf x s) (selector f)))]))) on) ∧
  ∀ f, Ends (.crng f) f.h (fun x s => outsAgree (x.act.map fun fid =>
      (fid, [(f.d, false, (generated (x.rd s fid true f.a) ((x.rd s fid false f.b).setWidth 32) (rounds f)).setWidth 64)])) = true)
    (fun x s => s.owed x (.at (x.now + if f.rm = 2 then 14 else 10)) (x.act.map fun fid =>
      (fid, [(f.d, false, (generated (x.rd s fid true f.a) ((x.rd s fid false f.b).setWidth 32) (rounds f)).setWidth 64)]))) on

namespace Sys2Proof.Spec

open Sys2Proof Sys2Proof.Machine

-- queue objects (R250-R268, R282)

/-- The queue instructions (R257, R258, R261, R264): the guard and hints, the address, whether the gang performs one operation, whether it
waits as a release does, whether it may park, and what it asks of the keeper. -/
structure Asks where
  h : Hints
  f : FM
  gang : Bool
  rel : Bool
  parks : Bool
  kind : Ctx → State → Nat → QKind
  dst : Operand
  status : Operand

/-- The element of a push: 4 bytes, or 8 (R260). -/
def pushed (f : FM) (x : Ctx) (s : State) (fid : Nat) : BitVec 64 :=
  if f.t1 = 9 then x.rd s fid true f.d else ((x.rd s fid false f.d).setWidth 32).setWidth 64

def asks : Instr → Option Asks
  | .qinit f => some ⟨f.h, f, true, false, false, fun x s _ => .init (x.rdU s true f.d) ((x.rdU s false f.b).setWidth 32), .imm 0, .imm 0⟩
  | .qpush f => some ⟨f.h, f, Operand.isUniform f.d, true, true, fun x s n => .push (pushed f x s n) (f.t1 == 9) false, .imm 0, f.b⟩
  | .qpop f => some ⟨f.h, f, Operand.isUniform f.d, false, true, fun _ _ _ => .pop (f.t1 == 9) false, f.d, f.b⟩
  | .qtpush f => some ⟨f.h, f, Operand.isUniform f.d, true, false, fun x s n => .push (pushed f x s n) (f.t1 == 9) true, .imm 0, f.b⟩
  | .qtpop f => some ⟨f.h, f, Operand.isUniform f.d, false, false, fun _ _ _ => .pop (f.t1 == 9) true, f.d, f.b⟩
  | .qpeek f => some ⟨f.h, f, Operand.isUniform f.d, false, false, fun _ _ _ => .peek (f.t1 == 9), f.d, f.b⟩
  | .qstat f => some ⟨f.h, f, true, false, false, fun _ _ _ => .stat, f.d, .imm 0⟩
  | .qclose f => some ⟨f.h, f, true, true, false, fun _ _ _ => .close, .imm 0, .imm 0⟩
  | .qdrain f => some ⟨f.h, f, true, false, true, fun _ _ _ => .drain, .imm 0, .imm 0⟩
  | _ => none

/-- Whose operations an instruction sends: the gang's one, or one for each lane (R258). -/
def Asks.groups (q : Asks) (x : Ctx) : List (List Nat) := if q.gang then [x.act] else x.act.map fun fid => [fid]

/-- One operation is sent, and its fibres wait for the keeper's answer (R257); `grp` is the number that the operations of one
instruction share. -/
def Asks.send (q : Asks) (grp : Nat) (x : Ctx) (tgt : Nat → QTgt) (s : State) (fids : List Nat) : State :=
  let o : QOp :=
    ⟨s.uid, .fibres x.core x.slot fids, tgt (fids.headD 0), q.kind x s (fids.headD 0), q.dst, q.status, false, grp, address q.f x s (fids.headD 0)⟩
  { fids.foldl (fun s fid => s.modFibre x.core x.slot fid fun g =>
      { g with wait := some (if q.parks then .queue o.id else .keeper o.id), sending := none }) s with
    qops := s.qops ++ [o], uid := s.uid + 1 }

/-- One operation meets no cause of check 10, its waits have ended, and no queue instruction that issued before it is ready to send (R255). -/
def Asks.mayGo (q : Asks) (x : Ctx) (tgt : Nat → QTgt) (s : State) (fids : List Nat) : Prop :=
  let fid := fids.headD 0
  let a := (address q.f x s fid)
  fids ≠ [] ∧ s.judgeQueue x.core (teamOf x s) a = .ok (tgt fid) ∧ (teamOf x s).watch? a 64 true true = none ∧
  (match q.kind x s fid with
    | .init base cfg => s.initOk x.core (teamOf x s) (tgt fid) base cfg = true
    | _ => True) ∧
  (∀ k ∈ fids, s.acqOpen x.core x.slot k = false ∧ (q.rel = true → s.relReady x.core x.slot k = true)) ∧
  s.sendsBefore x.core x.slot x.pc fid = false

/-- Every operation of the instruction goes, in lane order. -/
def Asks.allGo (q : Asks) (grp : Nat) (x : Ctx) (tgt : Nat → QTgt) : List (List Nat) → State → Prop
  | [], _ => True
  | fids :: r, s => q.mayGo x tgt s fids ∧ q.allGo grp x tgt r (q.send grp x tgt s fids)

-- the keeper

/-- The storage in which a block and its slots lie: memory or a scratchpad (R250, R251). -/
def store (s : State) : QTgt → List Host.Cell
  | .global .. => s.mem
  | .ring c _ => (s.core c).spad

def stored (s : State) (t : QTgt) (m : List Host.Cell) : State :=
  match t with
  | .global .. => { s with mem := m }
  | .ring c _ => s.modCore c fun k => { k with spad := m }

/-- Where a block lies, and its slot `i` (R251): the slots of a global queue lie where `BASE` does from the block. -/
def blockAt : QTgt → Nat
  | .global pa _ _ => pa
  | .ring _ off => off

def elementSize (b : List Byte) : Nat := if Block.esz b = 1 then 8 else 4

def slotAt (t : QTgt) (b : List Byte) (i : Nat) : Nat :=
  match t with
  | .global pa va _ => pa + field b 0 8 + i * elementSize b - va
  | .ring .. => field b 0 8 % 2 ^ 32 + i * elementSize b

/-- The block of a queue as its keeper finds it. -/
def block (s : State) (t : QTgt) : List Byte := Memory.bytes (store s t) (blockAt t) 64

/-- An operation that its keeper receives now: the only one of its number, and of its instruction at this queue, the next of its core, its
ring free of older accesses (R184, R255); and no fibre waits for another lane of its instruction (R257). -/
def received (s : State) (o : QOp) : Prop :=
  o ∈ s.qops ∧ o.id = s.par.id ∧ o.parked = false ∧ (∀ p ∈ s.qops, p.id = o.id → p = o) ∧ s.queueNext o = true ∧ s.ringHeld o = false ∧
  (s.qops.filter fun p => !p.parked && p.grp == o.grp && p.tgt.same o.tgt) = [o] ∧
  ∀ c n t, s.team? c n = some t → ∀ f ∈ t.fibres, ∀ g tr, f.wait ≠ some (.answered g tr)

/-- An operation of fibres of a team on a global queue, or on a ring of their own core. -/
def ofFibres (o : QOp) (c slot : Nat) (fids : List Nat) : Prop :=
  o.who = .fibres c slot fids ∧ ∀ k off, o.tgt = .ring k off → k = c

/-- The block is consistent and not poisoned, its elements have the operation's size, and nothing is parked on it. -/
def usable (s : State) (o : QOp) (wide : Bool) : Prop :=
  let b := block s o.tgt
  Block.inconsistent (QTgt.ring? o.tgt) b = false ∧ Block.state b ≠ 3 ∧ (wide = true ↔ Block.esz b = 1) ∧ s.parkedOn o.tgt = []

/-- The 64 bytes of a block with its counts after a push or pop: the phase of the slot of a ring, and the check code (R252, R260). -/
def afterPush (ring : Bool) (b : List Byte) : List Byte :=
  let n := 2 ^ Block.log2 b
  let p := Block.phase b
  let i := Block.tail b % n
  let b := if ring then putField b 0x20 8 (p - p / 2 ^ i % 2 * 2 ^ i + Block.tail b / n % 2 * 2 ^ i) else b
  putField (putField b 0x0C 4 (Block.tail b + 1)) 0x10 4 (Block.free b - 1)

def afterPop (b : List Byte) : List Byte := putField (putField b 0x08 4 (Block.head b + 1)) 0x10 4 (Block.free b + 1)

/-- The phase that R267 asks of the slot that an operation touches, on a ring. -/
def phaseIs (t : QTgt) (b : List Byte) (count want : Nat) : Prop :=
  QTgt.ring? t = true → Block.phase b / 2 ^ (count % 2 ^ Block.log2 b) % 2 = (count / 2 ^ Block.log2 b + want) % 2

end Sys2Proof.Spec

/-- R255, R257, R258, R261, R265, R268, R282. Each operation of a queue instruction is sent to its keeper, and its fibres wait there for
the answer. The keeper performs a `qclose`, an engine's push onto an open ring with room, and the push of a notice onto an open mailbox
with room. -/
def Obligations.QueueIssue : Prop :=
  (∀ (s : State) (o : QOp) (c slot : Nat) (fids : List Nat), received s o → ofFibres o c slot fids → o.kind = .close → s.parkedOn o.tgt = [] →
    unstepped s c slot fids →
    let b := block s o.tgt
    Block.inconsistent (QTgt.ring? o.tgt) b = false → Block.state b ≠ 3 →
    ∃ t, exec .queueOpAtKeeper s = .next t ∧ o ∉ t.qops ∧
      store t o.tgt = Memory.putBytes (store s o.tgt) (blockAt o.tgt) (Block.sealed (putField b 0x17 1 1))) ∧
  (∀ (s : State) (o : QOp) (c cmd slot fid k off : Nat) (x : BitVec 64) (wide : Bool),
    received s o → o.who = .engine c cmd slot fid → o.tgt = .ring k off → o.kind = .push x wide false → s.parkedOn o.tgt = [] →
    let b := block s o.tgt
    Block.inconsistent true b = false → Block.state b = 0 → Block.free b ≠ 0 → phaseIs o.tgt b (Block.tail b) 1 →
    ∃ t, exec .enginePush s = .next t ∧ o ∉ t.qops ∧
      (t.core k).spad = Memory.putBytes
        (Memory.write (s.core k).spad (slotAt o.tgt b (Block.tail b % 2 ^ Block.log2 b)) (elementSize b) x.toNat) off
        (Block.sealed (afterPush true b))) ∧
  (∀ (s : State) (o : QOp) (pa va ctx : Nat) (w : BitVec 64), let c := s.par.core
    received s o → o.who = .notice c → o.tgt = .global pa va ctx → o.kind = .push w true false → (s.core c).notices = [(ctx, va, w)] →
    s.parkedOn o.tgt = [] →
    let b := block s o.tgt
    Block.inconsistent false b = false → Block.state b = 0 → Block.free b ≠ 0 →
    ∃ t, exec .noticePush s = .next t ∧ (t.core c).notices = [] ∧ o ∉ t.qops ∧
      t.mem = Memory.putBytes (Memory.write s.mem (slotAt o.tgt b (Block.tail b % 2 ^ Block.log2 b)) (elementSize b) w.toNat) pa
        (Block.sealed (afterPush false b))) ∧
  ∀ (i : Instr) (q : Asks) (tgt : Nat → QTgt), asks i = some q → ∀ s : State, wf i = true → s.issues i q.h = true →
    let r : State := { s.landed i q.h with uid := (s.landed i q.h).uid + 1 }
    let grp := (s.landed i q.h).uid
    q.allGo grp (s.issueCtx i q.h) tgt (q.groups (s.issueCtx i q.h)) r →
    State.becomes (exec i s) s.cur.core
      (((q.groups (s.issueCtx i q.h)).foldl (q.send grp (s.issueCtx i q.h) tgt) r).proceed (s.issueCtx i q.h) q.h
        (othersOn (s.issueCtx i q.h) (s.landed i q.h)))

/-- R252, R256, R259-R261, R265, R268, R282. What the keeper does with an operation on a block on which nothing is parked: a push writes
its slot, a pop reads the oldest, one that must wait is parked, `qinit` writes a fresh block, an engine's push on a closed ring is
dropped and counted, a notice is sent and pushed, and the fibres of an instruction wait until each of its lanes has its answer
(R257). -/
def Obligations.QueueKeeper : Prop :=
  (∀ (s : State) (o : QOp) (c slot : Nat) (fids : List Nat) (x : BitVec 64) (wide tried : Bool),
    received s o → ofFibres o c slot fids → o.kind = .push x wide tried → usable s o wide → unstepped s c slot fids →
    let b := block s o.tgt
    Block.state b = 0 → Block.free b ≠ 0 → phaseIs o.tgt b (Block.tail b) 1 → Memory.wf (store s o.tgt) = true →
    ∃ t, exec .queueOpAtKeeper s = .next t ∧
      store t o.tgt = Memory.putBytes (Memory.write (store s o.tgt) (slotAt o.tgt b (Block.tail b % 2 ^ Block.log2 b)) (elementSize b) x.toNat)
        (blockAt o.tgt) (Block.sealed (afterPush (QTgt.ring? o.tgt) b)) ∧
      ∀ a, ¬ within (slotAt o.tgt b (Block.tail b % 2 ^ Block.log2 b)) (elementSize b) a → ¬ within (blockAt o.tgt) 64 a →
        Memory.get (store t o.tgt) a = Memory.get (store s o.tgt) a) ∧
  (∀ (s : State) (o : QOp) (c slot : Nat) (fids : List Nat) (wide tried : Bool),
    received s o → ofFibres o c slot fids → o.kind = .pop wide tried → usable s o wide → unstepped s c slot fids →
    let b := block s o.tgt
    Block.occ b ≠ 0 → phaseIs o.tgt b (Block.head b) 0 →
    ∃ t, exec .queueOpAtKeeper s = .next t ∧
      store t o.tgt = store (State.acquire (stored s o.tgt (Memory.putBytes (store s o.tgt) (blockAt o.tgt) (Block.sealed (afterPop b)))) c
        (BitVec.ofNat 3 (Block.scope b))) o.tgt) ∧
  (∀ (s : State) (o : QOp) (c slot fid : Nat) (wide tried : Bool) (i : BitVec 8) (n : BitVec 4) (g : Fibre),
    received s o → (∀ p ∈ s.qops, p.grp = o.grp → p = o) → ofFibres o c slot [fid] → o.kind = .pop wide tried → usable s o wide →
    o.dst = .v i → o.status = .p n → s.fibre? c slot fid = some g → g.wait = some (.queue o.id) ∨ g.wait = some (.keeper o.id) →
    g.stepping = false → g.rep = none →
    let b := block s o.tgt
    Block.occ b ≠ 0 → phaseIs o.tgt b (Block.head b) 0 →
    ∃ t h u w, exec .queueOpAtKeeper s = .next t ∧ t.fibre? c slot fid = some h ∧ h.pc = g.pc + 12 ∧ h.wait = none ∧ h.regs = g.regs ∧
      h.pend = g.pend ++
        owedTo .ready u (.v i, wide,
          BitVec.ofNat 64 (Memory.read (store s o.tgt) (slotAt o.tgt b (Block.head b % 2 ^ Block.log2 b)) (elementSize b))) ++
        owedTo .ready w (.p n, false, 1)) ∧
  (∀ (s : State) (o : QOp) (c slot : Nat) (fids : List Nat) (x : BitVec 64) (wide : Bool),
    received s o → ofFibres o c slot fids → o.kind = .push x wide false → usable s o wide →
    let b := block s o.tgt
    Block.state b ≠ 1 → Block.free b = 0 ∨ Block.state b = 2 →
    (s.qops.filter fun p => p.parked && p.tgt.keeper == o.tgt.keeper).length < o.tgt.room → Memory.wf (store s o.tgt) = true →
    ∃ t, exec .queueOpAtKeeper s = .next t ∧ { o with parked := true } ∈ t.qops ∧ o ∉ t.qops ∧ t.fibre? c slot = s.fibre? c slot ∧
      ∀ a, ¬ within (blockAt o.tgt) 64 a → Memory.get (store t o.tgt) a = Memory.get (store s o.tgt) a) ∧
  (∀ (s : State) (o : QOp) (c slot : Nat) (fids : List Nat) (base : BitVec 64) (cfg : BitVec 32),
    received s o → ofFibres o c slot fids → o.kind = .init base cfg → s.parkedOn o.tgt = [] → unstepped s c slot fids →
    cfg.toNat % 32 ≤ (if QTgt.ring? o.tgt then 6 else 24) → cfg.toNat < 2 ^ 9 → Memory.wf (store s o.tgt) = true →
    ∃ t, exec .queueOpAtKeeper s = .next t ∧
      let b := block t o.tgt
      let n := 2 ^ (cfg.toNat % 32)
      Block.base b = base.toNat ∧ Block.head b = 0 ∧ Block.tail b = 0 ∧ Block.free b = n ∧ Block.log2 b = cfg.toNat % 32 ∧
      Block.esz b = cfg.toNat / 32 % 2 ∧ Block.scope b = cfg.toNat / 64 % 8 ∧ Block.state b = 0 ∧
      Block.wsum b % 2 ^ 48 = Block.wsum (block s o.tgt) % 2 ^ 48 ∧ Block.phase b = (if QTgt.ring? o.tgt then 2 ^ n - 1 else 0) ∧
      Block.drops b = 0 ∧ Block.chk b = Block.check b ∧
      ∀ a, ¬ within (blockAt o.tgt) 64 a → Memory.get (store t o.tgt) a = Memory.get (store s o.tgt) a) ∧
  (∀ (s : State) (o : QOp) (c cmd slot fid k off : Nat) (x : BitVec 64) (wide : Bool),
    received s o → o.who = .engine c cmd slot fid → o.tgt = .ring k off → o.kind = .push x wide false → s.parkedOn o.tgt = [] →
    let b := block s o.tgt
    Block.inconsistent true b = false → Block.state b = 1 →
    ∃ t, exec .enginePush s = .next t ∧
      (t.core k).spad = Memory.putBytes (s.core k).spad off (Block.sealed (putField b 0x2C 2 (min (Block.drops b + 1) 0xFFFF)))) ∧
  (∀ (s : State) (ctx va : Nat) (w : BitVec 64) (r : List (Nat × Nat × BitVec 64)) (l : Leaf), let c := s.par.core
    (s.core c).notices = (ctx, va, w) :: r → (∀ o ∈ s.qops, ∀ k, o.who ≠ .notice k) → s.lookWalk ctx (s.context ctx).world .atomic va = .ok l →
    l.apt < 2 → va % 64 = 0 →
    ∃ t, exec .noticePush s = .next t ∧ t.mem = s.mem ∧ t.cores = s.cores ∧
      t.qops = s.qops ++ [⟨s.uid, .notice c, .global (l.phys va) va ctx, .push w true false, .imm 0, .imm 0, false, s.uid, va⟩]) ∧
  (∀ (s : State) (o : QOp) (pa va ctx : Nat) (w : BitVec 64), let c := s.par.core
    received s o → o.who = .notice c → o.tgt = .global pa va ctx → o.kind = .push w true false →
    (s.core c).notices = [(ctx, va, w)] → s.parkedOn o.tgt = [] → Memory.wf s.mem = true →
    let b := block s o.tgt
    Block.inconsistent false b = false → Block.state b = 0 → Block.free b ≠ 0 → Block.esz b = 1 →
    ∃ t, exec .noticePush s = .next t ∧ (t.core c).notices = [] ∧ t.qops = s.qops.filter (·.id != o.id) ∧
      t.mem = Memory.putBytes (Memory.write s.mem (slotAt o.tgt b (Block.tail b % 2 ^ Block.log2 b)) 8 w.toNat) pa
        (Block.sealed (afterPush false b))) ∧
  (∀ (s : State) (c slot grp : Nat) (fids : List Nat) (fault : Option Trap), (∃ p ∈ s.qops, p.grp = grp) →
    s.laneAnswered c slot grp fids fault = s.modTeam c slot (·.modGang fids fun f => { f with wait := some (.answered grp fault) })) ∧
  ∀ (s : State) (o : QOp) (c slot fid : Nat) (ok wide : Bool) (v : Nat) (i : BitVec 8) (n : BitVec 4) (g : Fibre),
    o.who = .fibres c slot [fid] → o.dst = .v i → o.status = .p n → s.fibre? c slot fid = some g → g.wait = some (.queue o.id) ∨ g.wait = some (.keeper o.id) →
    g.stepping = false → g.rep = none → (∀ p ∈ s.qops, p.grp ≠ o.grp) →
    (∀ t, s.team? c slot = some t → ∀ f ∈ t.fibres, ∀ tr, f.wait ≠ some (.answered o.grp tr)) →
    ∃ h, (s.queueReply o ok wide (some v) none).fibre? c slot fid = some h ∧ h.pc = g.pc + 12 ∧ h.wait = none ∧ h.regs = g.regs ∧
      h.pend = g.pend ++ owedTo .ready s.uid (.v i, wide, BitVec.ofNat 64 v) ++ owedTo .ready (s.uid + 1) (.p n, false, if ok then 1 else 0)

namespace Sys2Proof.Spec

open Sys2Proof Sys2Proof.Machine

-- launches, spawns and join counters (R349-R370)

/-- An operation that each active lane performs in lane order on what the one before left, with a value for D. -/
structure LaneOp where
  ok : Ctx → State → Nat → Prop
  op : Ctx → State → Nat → State
  val : Ctx → State → Nat → BitVec 64

def LaneOp.step (p : LaneOp) (d : Operand) (x : Ctx) (s : State) (fid : Nat) : State :=
  if Operand.isUniform d then p.op x s fid else State.owe1 (p.op x s fid) x fid d false (p.val x s fid)

/-- Every lane may go; into a uniform D all write `v` (R103). -/
def LaneOp.goes (p : LaneOp) (d : Operand) (v : BitVec 64) (x : Ctx) : List Nat → State → Prop
  | [], _ => True
  | fid :: r, s => p.ok x s fid ∧ (Operand.isUniform d = true → p.val x s fid = v) ∧ p.goes d v x r (p.step d x s fid)

def LaneOp.result (p : LaneOp) (d : Operand) (v : BitVec 64) (x : Ctx) (s : State) : State :=
  if Operand.isUniform d then everyone d false (fun _ _ => v) x (x.act.foldl (p.step d x) s) else x.act.foldl (p.step d x) s

-- spawn and spawnr (R357, R361, R362)

def spawnWord (f : FM) (x : Ctx) (s : State) (fid : Nat) : Nat := (x.rd s fid false f.b).toNat % 2 ^ 32

/-- Where a record's range block lies (R357). -/
def rangeBlock (q : ContRec) : Nat := q.frame % 2 ^ 56 + 64 * (q.roff - 1)

/-- The record of a spawn as the fibre reads it, and its ranges, none for a malformed block (R361 step 2). -/
def spawned (f : FM) (ranged : Bool) (x : Ctx) (s : State) (fid : Nat) : Option (ContRec × Option (List (Bool × Nat × Nat))) :=
  let t := teamOf x s
  match s.fibreRead x.core t fid (address f x s fid) 32 with
  | .bytes bs =>
    let q := ContRec.parse bs t.ctx t.launch (spawnWord f x s fid % 4) 0
    if ranged && q.roff != 0 then
      match s.fibreRead x.core t fid (rangeBlock q) 16 with
      | .bytes h =>
        match s.fibreRead x.core t fid (rangeBlock q + 16) (rangeBytes h - 16) with
        | .bytes b => some (q, parseRanges (h ++ b))
        | _ => none
      | _ => none
    else some (q, some [])
  | _ => none

/-- The die whose queue takes the record: `DSEL` selects the target die, else the own (R361). -/
def spawnDie (f : FM) (x : Ctx) (s : State) (fid : Nat) : Nat :=
  let b := spawnWord f x s fid
  if b / 32 % 2 = 1 then b / 4 % 8 else dieOf x.core

/-- D of R361 steps 3 to 5. -/
def spawnCode (f : FM) (ranged : Bool) (x : Ctx) (s : State) (fid : Nat) : BitVec 64 :=
  match spawned f ranged x s fid with
  | some (q, rs) =>
    let l1 := match s.launchOf? (teamOf x s).launch with
      | some l => l.record.l1
      | none => 64
    if 64 ≤ spawnWord f x s fid ∨ q.malformed l1 = true ∨ (q.roff != 0) ≠ ranged ∨ rs = none then 0xFFFFFFFF
    else if (s.die (spawnDie f x s fid)).capacity = none then 0xFFFFFFFE
    else 0
  | none => 0

/-- A record at the tail of its queue, with the cycle at which it entered. -/
def State.queued (s : State) (d : Nat) (q : ContRec) : State :=
  s.modDie d fun y => { y with queues := y.queues.modify q.prio (· ++ [{ q with cycle := y.cycle }]) }

def spawning (f : FM) (ranged : Bool) : LaneOp where
  ok x s fid :=
    let a := address f x s fid
    s.launchesWait (teamOf x s).world = false ∧ s.relReady x.core x.slot fid = true ∧ a % 32 = 0 ∧ a < 2 ^ 56 ∧
    s.logged x.core x.slot fid a = false ∧ x.team s ≠ none ∧
    ∃ q rs, spawned f ranged x s fid = some (q, rs) ∧ (ranged = true → q.roff ≠ 0 → rangeBlock q % 16 = 0 ∧ rangeBlock q < 2 ^ 56) ∧
      (spawnCode f ranged x s fid = 0 → (s.die (spawnDie f x s fid)).queueFull q.prio = false)
  op x s fid :=
    let r := s.forgetReads x.core x.slot fid
    match spawned f ranged x s fid with
    | some (q, rs) => if spawnCode f ranged x s fid = 0 then State.queued r (spawnDie f x s fid) { q with ranges := rs.getD [] } else r
    | none => r
  val x s fid := spawnCode f ranged x s fid

-- join counters (R365-R367)

/-- `JoinDec` of R366 on the counter at physical address `pa`; a counter that fires enqueues the record at `NEXT`. -/
def State.decremented (s : State) (t : Team) (die pa n : Nat) : State :=
  let old := Memory.read s.mem pa 4
  let jfl := Memory.read s.mem (pa + 5) 1
  let fires : Bool := decide (0 < old) && decide (old ≤ n) && decide (jfl % 2 = 0)
  let jfl' := (if old < n then jfl ||| 2 else jfl) ||| (if fires then 1 else 0)
  let r := (s.homeWrite pa 4 (old - n)).homeWrite (pa + 5) 1 jfl'
  let next := Memory.read r.mem (pa + 8) 8
  if fires = true ∧ next ≠ 0 then
    match s.launchOf? t.launch with
    | some l => State.fire { r with uid := r.uid + 1 } ⟨r.uid, t.ctx, l.num, die, Memory.read r.mem (pa + 4) 1, next, []⟩
    | none => r.report
  else r

/-- The state in which no L1 holds the counter's sector any more. -/
def counterHome (f : FM) (l : Leaf) (x : Ctx) (s : State) (fid : Nat) : State :=
  let pa := l.phys (address f x s fid)
  s.evict (s.l1Slice x.core pa) (sectorOf pa)

def joining (f : FM) (leaf : State → Nat → Leaf) : LaneOp where
  ok x s fid :=
    let a := address f x s fid
    a % 32 = 0 ∧ a < 2 ^ 56 ∧ x.team s ≠ none ∧ s.look x.core (teamOf x s).ctx (teamOf x s).world .atomic a = .ok (leaf s fid) ∧
    (leaf s fid).apt < 2 ∧ s.relReady x.core x.slot fid = true ∧
    joinMalformed (counterHome f (leaf s fid) x s fid) ((leaf s fid).phys a) = false
  op x s fid :=
    State.decremented (counterHome f (leaf s fid) x s fid) (teamOf x s) (dieOf x.core) ((leaf s fid).phys (address f x s fid))
      ((x.rd s fid false f.b).toNat % 2 ^ 32)
  val x s fid := BitVec.ofNat 64 (Memory.read (counterHome f (leaf s fid) x s fid).mem ((leaf s fid).phys (address f x s fid)) 4)

-- launch (R351)

def readable (r : Machine.Rd) : Prop := ∃ b, r = .bytes b

/-- The record that a launch reads, its priority, and the images, all of which are there to read. -/
def launching (f : FM) (bs tar ppt : List Byte) (x : Ctx) (s : State) : Prop :=
  ∃ t lead r, x.team s = some t ∧ x.act = lead :: r ∧ s.launchesWait t.world = false ∧ (∀ k ∈ x.act, s.relReady x.core x.slot k = true) ∧
    address f x s lead % 64 = 0 ∧ address f x s lead < 2 ^ 56 ∧ s.fibreRead x.core t lead (address f x s lead) 288 = .bytes bs ∧
    (s.launches.filter fun l => l.die == dieOf x.core && l.share.isNone && !l.done).length < 64 ∧
    ((LaunchRec.parse bs).wellFormed = true → (x.rdU s false f.b).toNat % 2 ^ 32 < 4 →
      ∃ tds, launchReads (s.schedRead t.ctx t.world ((s.core x.core).received x.slot lead)) (LaunchRec.parse bs) = (tds, .bytes tar, .bytes ppt) ∧
        ∀ d ∈ tds, readable d)

/-- The legality of the parts of a record, in the order of R351. -/
def tariffLegal (tar : List Byte) : Prop :=
  ∀ i < 48, BitVec.ofNat 64 (field tar (8 * i) 8) = 0 ∨ (Fmt.of (BitVec.ofNat 64 (field tar (8 * i) 8))).legal = true

def poolOk (r : LaunchRec) (x : Ctx) (s : State) : Prop :=
  s.pinnedRange (teamOf x s).ctx (teamOf x s).world (r.pinpool + 0x210000 * r.pincnt) (33 * r.pincnt + 1) r.pinpool = true ∧
  s.mailboxOk (teamOf x s).ctx (teamOf x s).world r.fmbox.toNat = true

/-- The number of the next launch of the issuing die (R351). -/
def launchNumber (x : Ctx) (s : State) : Nat := dieOf x.core * 2 ^ 16 + (s.die (dieOf x.core)).serial.toNat

/-- A refused launch writes its code and changes nothing else. -/
def refused (f : FM) (code : BitVec 64) (x : Ctx) (s : State) : State :=
  everyone f.d false (fun _ _ => code) x (s.forgetReads x.core x.slot (x.act.headD 0))

/-- An accepted launch enters its table under the next number, its share is sent to the other packages of its domain, and its barriers are
reserved. -/
def accepted (f : FM) (bs : List Byte) (bases : Nat × Nat) (x : Ctx) (s : State) : State :=
  let t := teamOf x s
  let d := dieOf x.core
  let num := launchNumber x s
  let images := (s.core x.core).received x.slot (x.act.headD 0)
  let r := (s.forgetReads x.core x.slot (x.act.headD 0)).modDie d fun y => { y with serial := y.serial + 1 }
  let others := (s.domPkgs (s.rootDom (LaunchRec.parse bs) d)).filter (· != s.forum.pkg.toNat)
  let r := others.foldl (fun s p => s.modForum fun g => { g with sent := g.sent ++ [(p, .launchShare num t.ctx bs)] }) r
  everyone f.d false (fun _ _ => BitVec.ofNat 64 num) x
    (r.acceptLaunch num d t.ctx ((x.rdU s false f.b).toNat % 2 ^ 32) t.world (LaunchRec.parse bs) (address f x s (x.act.headD 0)) images none others bases)

-- lquery (R370)

def item (f : FR) : Nat := match f.b with | .imm n => n.toNat | _ => 0

def launchAsked (f : FR) (x : Ctx) (s : State) : Nat :=
  let a := (x.rdU s false f.a).toNat % 2 ^ 32
  if a = 0xFFFFFFFF then (teamOf x s).launch else a

/-- The doubleword of an item of a launch on the queried die. -/
def launchItem (l : Launch) (n d : Nat) (s : State) : BitVec 64 :=
  match n with
  | 0 => BitVec.ofNat 64 (min (nth 0 l.ended d) 0xFFFFFFFF * 2 ^ 32 + if l.done then 3 else if l.generatedAll d then 2 else 1)
  | 1 => BitVec.ofNat 64 (min (s.residentOf l.num d) 0xFFFFFFFF * 2 ^ 32 + min (nth 0 l.generated d) 0xFFFFFFFF)
  | 2 => BitVec.ofNat 64 (l.record.dbn * 2 ^ 24 + l.dbase * 2 ^ 16 + l.record.cbn * 2 ^ 8 + l.cbase)
  | _ => BitVec.ofNat 64 l.record.join

-- the scheduler

/-- What stands ready on a core for a team: it has the launch's L1 size and fused state, a run of scratchpad, windows, a frame and a slot
(R176, R350, R355). -/
def ready (s : State) (c : Nat) (l : Launch) (h : Shape) (places : List (Nat × Nat)) (base frame slot : Nat) : Prop :=
  (s.core c).fused = l.record.flags.getLsbD 0 ∧ (∀ y, y = c ∨ (s.core c).fused = true ∧ y / 256 = c / 256 → (s.core y).l1kib = l.record.l1) ∧
  h.place (s.core c).windows = some places ∧ (s.core c).spadRun h.spad (spadBytes l.record.l1) = some base ∧
  s.freeFrame l = some frame ∧ ((List.range 16).find? fun n => !((s.core c).teams.any (·.slot == n))) = some slot

/-- The team of a launch as R353 sets it up: numbers, scratchpad, images, registers of the record, and fibres at their roles' entries with all
registers zero. -/
def setUpAs (u : Team) (l : Launch) (h : Shape) (places : List (Nat × Nat)) (base frame : Nat) : Prop :=
  u.ctx = l.ctx ∧ u.world = l.world ∧ u.launch = l.num ∧ u.frame = frame ∧ u.spadBase = base ∧ u.spadSize = h.spad ∧
  u.srseed = l.record.srseed ∧ u.fmbox = l.record.fmbox ∧ u.sbchk = l.record.flags.getLsbD 1 ∧ u.nantrap = l.record.flags.getLsbD 2 ∧
  u.nextFid = h.fibres ∧
  ∀ (i : Nat) (f : Fibre), u.fibres[i]? = some f → f.fid = i ∧ places[i]? = some (f.lane, f.wbase) ∧ f.wsize = h.win ∧ (∀ r ∈ f.regs, r = 0) ∧
    f.regs.length = h.win ∧ f.rc = 0 ∧ f.wait = none ∧ ∃ r ∈ h.roles, f.role = r.1 ∧ f.pc = r.2.2

end Sys2Proof.Spec

/-- R357, R359, R361, R365-R367. -/
def Obligations.SpawnAndJoin : Prop :=
  (∀ f v, Ends (.spawn f) f.h (fun x s => x.act ≠ [] ∧ (spawning f false).goes f.d v x x.act s) ((spawning f false).result f.d v) on) ∧
  (∀ f v, Ends (.spawnr f) f.h (fun x s => x.act ≠ [] ∧ (spawning f true).goes f.d v x x.act s) ((spawning f true).result f.d v) on) ∧
  ∀ f v leaf, Ends (.jdec f) f.h (fun x s => x.act ≠ [] ∧ (joining f leaf).goes f.d v x x.act s) ((joining f leaf).result f.d v) on

/-- R351, R370, R466. A launch is refused by the first cause that its record meets, or accepted; a share of another package's launch is
accepted where its context is known and its barriers are there, and the end of a share is taken off its launch; `lquery` tells of a launch,
and acquires where it is done; the items of an unknown launch other than 0 are a free value (notes/assumptions/12.md). -/
def Obligations.LaunchAndQuery : Prop :=
  (∀ (s : State) (ctx : Context) (bs : List Byte) (bases : Nat × Nat), let p := s.par
    let num := p.n % 2 ^ 32 + 2 ^ 32 * (p.src + 1)
    p.flag = false → p.bytes = some bs → ctx ∈ s.contexts → ctx.num = p.ctx → (ctx.world = true ↔ p.k = 1) →
    (LaunchRec.parse bs).wellFormed = true → p.die < 8 → (∀ l ∈ s.launches, l.num ≠ num) →
    s.barrierBases (LaunchRec.parse bs) p.die = some bases →
    exec .launchShare s = .next (s.acceptLaunch num p.die p.ctx p.prio ctx.world (LaunchRec.parse bs) 0 [] (some p.src) [] bases)) ∧
  (∀ (s : State) (l : Launch), let p := s.par
    p.flag = true → s.launches = [l] → l.num = p.n →
    ∃ t, exec .launchShare s = .next t ∧ t.mem = s.mem ∧ t.launches = [{ l with shares := l.shares.filter (· != p.src) }]) ∧
  (∀ f bs tar ppt, Ends (.launch f) f.h
    (fun x s => launching f bs tar ppt x s ∧ ((LaunchRec.parse bs).wellFormed = false ∨ 4 ≤ (x.rdU s false f.b).toNat % 2 ^ 32))
    (refused f 0xFFFFFF01) on) ∧
  (∀ f bs tar ppt, Ends (.launch f) f.h
    (fun x s => launching f bs tar ppt x s ∧ (LaunchRec.parse bs).wellFormed = true ∧ (x.rdU s false f.b).toNat % 2 ^ 32 < 4 ∧ ¬ tariffLegal tar)
    (refused f 0xFFFFFF02) on) ∧
  (∀ f bs tar ppt bases, Ends (.launch f) f.h
    (fun x s =>
      let r := LaunchRec.parse bs
      launching f bs tar ppt x s ∧ r.wellFormed = true ∧ (x.rdU s false f.b).toNat % 2 ^ 32 < 4 ∧ tariffLegal tar ∧ poolOk r x s ∧
      sideTableOk r.win ppt r.pptn none = true ∧ r.shape.place [] ≠ none ∧ r.spad ≤ spadBytes r.l1 ∧
      s.barrierBases r (dieOf x.core) = some bases)
    (accepted f bs bases) on) ∧
  (∀ f l, Ends (.lquery f) f.h (fun x s => x.act ≠ [] ∧ s.launchOf? (launchAsked f x s) = some l)
    (fun x s => everyone f.d true (fun _ _ => launchItem l (item f) (launchAsked f x s / 2 ^ 16 % 8) s) x
      (if item f = 0 ∧ l.done = true then s.acquire x.core 5 else s)) on) ∧
  (∀ f, Ends (.lquery f) f.h (fun x s => x.act ≠ [] ∧ s.launchOf? (launchAsked f x s) = none ∧ item f = 0) (everyone f.d true fun _ _ => 0) on) ∧
  ∀ f, Ends (.lquery f) f.h (fun x s => x.act ≠ [] ∧ s.launchOf? (launchAsked f x s) = none ∧ item f ≠ 0)
    (fun x s => everyone f.d true (fun _ _ => Config.freeValue s.freeCount) x { s with freeCount := s.freeCount + 1 }) on

/-- R116, R322, R352-R355, R358, R360. The scheduler's steps: a team is set up, a record is taken and grows old, a team is freed, a launch
ends, a core is retired. -/
def Obligations.SchedulerSteps : Prop :=
  (∀ (s : State) (l : Launch) (now : LaunchRec) (j k c slot base frame : Nat) (skipped : List Nat) (places : List (Nat × Nat))
      (img : List (BitVec 64) × List (Nat × BitVec 512) × List (BitVec 32)),
    s.nextItem s.par.die = some (.team s.par.n (j, k, c, skipped)) → s.launchOf? s.par.n = some l → ready s c l l.record.shape places base frame slot →
    s.recordNow l = .ok now → s.images { l with record := now } = .ok img →
    ∃ t u, exec .teamPlace s = .next t ∧ t.team? c slot = some u ∧ setUpAs u { l with record := now } l.record.shape places base frame ∧
      u.teamNo = j * l.record.teams + k ∧ u.cont = false ∧ u.tariff = img.1 ∧ u.tdesc = img.2.1 ∧ u.uregs = img.2.2) ∧
  (∀ (s : State) (l : Launch) (now : LaunchRec) (q : ContRec) (p i c slot base frame : Nat) (places : List (Nat × Nat))
      (img : List (BitVec 64) × List (Nat × BitVec 512) × List (BitVec 32)),
    s.nextItem s.par.die = some (.record p i c) → (nth [] (s.die s.par.die).queues p)[i]? = some q → s.launchOf? q.launch = some l →
    (∀ r ∈ (s.die s.par.die).firing, r.prio ≠ p) → ready s c l q.form places base frame slot →
    s.recordNow l = .ok now → s.images { l with record := now } = .ok img →
    ∃ t u, exec .continuationTake s = .next t ∧ t.team? c slot = some u ∧ setUpAs u { l with record := now } q.form places base frame ∧
      u.cont = true ∧ u.join = q.join ∧ u.ranges = q.ranges ∧ (t.die s.par.die).queues = (s.die s.par.die).queues.modify p (·.eraseIdx i)) ∧
  (∀ s : State, s.nextItem s.par.die = none → exec .continuationTake s = .next s) ∧
  (∀ (s : State) (q : ContRec), let d := s.die s.par.die
    s.par.die < s.dies.length → (nth [] d.queues s.par.n)[s.par.k]? = some q → q.cycle + 65536 ≤ d.cycle →
    ∃ t, exec .recordAging s = .next t ∧ (nth [] (t.die s.par.die).queues s.par.n)[s.par.k]? = some { q with aged := true }) ∧
  (∀ (s : State) (u : Team) (l : Launch), let c := s.par.core
    s.team? c s.par.slot = some u → u.fibres = [] → s.teamSettled c s.par.slot = true → u.cont = false → s.launchOf? u.launch = some l →
    ∃ t, exec .teamFree s = .next t ∧ t.team? c s.par.slot = none ∧ t.mem = s.mem ∧
      t.launchOf? u.launch = some { l with ended := l.ended.modify (dieOf c) (· + 1) }) ∧
  (∀ (s : State) (l : Launch), s.launchOf? s.par.n = some l → s.launchOver l = true → l.share = none → l.record.join = 0 →
    ∃ t, exec .launchEnd s = .next t ∧ t.launchOf? s.par.n = some { l with done := true } ∧
      ∀ c ∈ (s.rootParts l.record l.die).1, ∀ i < l.record.cbn, (t.clusBar c (l.cbase + i)).own = none) ∧
  (∀ s : State, s.par.flag = false → exec .markForRetirement s = .next (s.setCore s.par.core { s.core s.par.core with marked := true })) ∧
  (∀ s : State, s.par.flag = true →
    ∃ t, exec .markForRetirement s = .next t ∧ s.par.n ∈ (t.core s.par.core).banksMarked ∧ (t.core s.par.core).marked = (s.core s.par.core).marked) ∧
  (∀ s : State, s.forum.boundary = false →
    ∃ t, exec .spareCoreRemap s = .next t ∧ (t.core s.par.core).marked = (s.core s.par.core).marked ∧ t.forum.remap = s.forum.remap) ∧
  ∀ s : State, let c := s.par.core
    (s.core c).marked = true → (s.core c).teams = [] → s.forum.boundary = true → assocGet 0 s.forum.sparesUsed (c / 256) < 8 →
    ∃ t, exec .spareCoreRemap s = .next t ∧ (t.core c).marked = false ∧ (t.core c).spad = [] ∧ (t.core c).l1 = [] ∧
      assocGet 0 t.forum.remap c = 256 + assocGet 0 s.forum.sparesUsed (c / 256) ∧
      assocGet 0 t.forum.sparesUsed (c / 256) = assocGet 0 s.forum.sparesUsed (c / 256) + 1

namespace Sys2Proof.Spec

open Sys2Proof Sys2Proof.Machine

-- expert routing (R371-R383)

/-- Group `a` goes before group `b` (R373): the better best score, then the lower number. -/
def before (r : Route) (row : List (BitVec 32)) (a b : Nat) : Bool :=
  let best (g : Nat) : Nat := ((r.groupScores row g).map rankOf).foldl max 0
  decide (best b < best a) || (best a == best b && decide (a < b))

/-- The lead's read of a route descriptor answers `r`, and leaves `e`. -/
def routeRead (va : Nat) (r : Route) (e : State) (x : Ctx) (s : State) : Prop :=
  ∃ t, x.team s = some t ∧ s.readRoute x t (x.act.headD 0) va = (e, .ok r)

def scoreRow (f : FR) (x : Ctx) (s : State) (fid : Nat) : Nat := (x.rd s fid false f.a).toNat % 2 ^ 32

def choices (f : FR) (r : Route) (e : State) (x : Ctx) (s : State) : List (Nat × List Result) :=
  x.act.map fun fid => (fid, [(f.d, true, r.choose (e.scoreRow x.core (scoreRow f x s fid) (r.ngrp * r.epg)))])

/-- Register `k`A + `n` of an engine instruction, of the issuing role. -/
def uniformAt (f : FE) (n : Nat) (x : Ctx) (s : State) : BitVec 32 :=
  let t := teamOf x s
  t.ureg (((t.fibre? (x.act.headD 0)).map (·.role)).getD .general) ((match f.a with | .k i => i.toNat | _ => 0) + n)

/-- The command of an `xdisp` (R374), on the descriptor as read. -/
def dispatched (f : FE) (desc : List Byte) (x : Ctx) (s : State) : DispCmd :=
  let t := teamOf x s
  let d := t.desc f.tda.toNat
  ⟨s.uid, x.core, x.slot, t.ctx, d, t.desc f.tdb.toNat, (Fmt.of (t.tar d.etar)).w, (x.rdU s false f.d).toNat % 2 ^ 32, desc,
    (uniformAt f 2 x s).toNat, (uniformAt f 3 x s).toNat % 2 ^ 16, (match f.b with | .b n => some n.toNat | _ => none), false, 0,
    List.replicate 8 0, none, List.replicate 8 [], [], false⟩

/-- The scratchpad address of a cursor instruction (R379): 64 bytes of the allotment, no dispatch command of the team left. -/
def cursorAt (f : FR) (x : Ctx) (s : State) : Nat := (x.rdU s false f.a).toNat % 2 ^ 32

def cursorOk (f : FR) (x : Ctx) (s : State) : Prop :=
  let a := cursorAt f x s
  x.act ≠ [] ∧ (∃ t, x.team s = some t ∧ t.spadBase ≤ a ∧ a + 64 ≤ t.spadBase + t.spadSize) ∧ a % 64 = 0 ∧
  (∀ q ∈ (s.die (dieOf x.core)).dispq, ¬ (q.core = x.core ∧ q.slot = x.slot)) ∧ s.acqOpen x.core x.slot (x.act.headD 0) = false

/-- The 64 bytes of a cursor (R378). -/
def cursorImage (c : Cursor) : List Byte :=
  leBytes c.tok 4 ++ leBytes c.round 2 ++ leBytes ((if c.act then 1 else 0) + if c.abt then 2 else 0) 1 ++ leBytes c.cause 1 ++
  leBytes c.refn 4 ++ leBytes c.ref0 4 ++ c.bytes.flatMap (leBytes · 4) ++ leBytes c.aaddr 8 ++ leBytes 0 8

/-- The eight stores of `xcur.rd`, of 8 bytes each. -/
def cursorStores (f : FR) (x : Ctx) (s : State) : State :=
  let v := leNat (cursorImage (teamOf x s).cursor)
  let lead := x.act.headD 0
  let a := cursorAt f x s
  (List.range 8).foldl (fun r i =>
    let l : SpLane := ⟨lead, x.core * 2 ^ 20 + (a + 8 * i), BitVec.ofNat 64 (v / 2 ^ (64 * i)), 0, 0, none⟩
    State.spadOut (State.counted r x lead) x (spadOp (.store 9) false [l] none r.uid x r)) (s.acquire x.core 5)

/-- One step of `xhist` at the block's home (R381): a saturating sum with its sticky bit. -/
def histAdd (ctx blk area : Nat) (s : State) (i : Nat) : State :=
  let at' (va : Nat) : Nat := s.physOf ctx va
  let h := Memory.read s.mem (at' (blk + 8 + 4 * i)) 4 + Memory.read s.mem (at' (area + 2 * i)) 2
  let r := if 2 ^ 32 ≤ h then s.homeWrite (at' blk) 1 (Memory.read s.mem (at' blk) 1 / 2 * 2 + 1) else s
  r.homeWrite (at' (blk + 8 + 4 * i)) 4 (min h 0xFFFFFFFF)

def histOk (f : FM) (x : Ctx) (s : State) : Prop :=
  let blk := address f x s (x.act.headD 0)
  let area := (x.rdU s true f.d).toNat
  let n := (x.rdU s false f.b).toNat % 2 ^ 32
  x.act ≠ [] ∧ blk % 8 = 0 ∧ area % 2 ^ 16 = 0 ∧ 1 ≤ n ∧ n ≤ 2048 ∧
  (∃ t, x.team s = some t ∧ s.histCause x.core t .atomic blk (8 + 4 * n) = none ∧ s.histCause x.core t .read area (2 * n) = none) ∧
  ∀ fid ∈ x.act, s.acqOpen x.core x.slot fid = false ∧ s.countFull x.core x.slot fid = false

def histogram (f : FM) (x : Ctx) (s : State) : State :=
  let r := x.act.foldl (fun r fid => State.counted r x fid) s
  ((List.range ((x.rdU s false f.b).toNat % 2 ^ 32)).foldl
    (histAdd (teamOf x s).ctx (address f x s (x.act.headD 0)) (x.rdU s true f.d).toNat) r).ackOwners
      (x.act.map fun fid => (16 * x.core + x.slot, fid))

/-- The rank of a participant: how many come before it in the order of (key, `FID`) with its key (R382). -/
def rankIn (fs : List Fibre) (f : Fibre) : Nat :=
  (fs.filter fun g => (g.regrp?.map (·.1)) == (f.regrp?.map (·.1)) && decide (g.fid < f.fid)).length

end Sys2Proof.Spec

/-- R371, R373-R375, R378-R382. The routing instructions; and the steps that they lead to: the lead command of a die begins, an
acknowledgement is taken, an arrival that its die had already is acknowledged again and writes nothing, and a regroup completes. -/
def Obligations.RoutingInstructions : Prop :=
  (∀ (s : State) (q : DispCmd) (r : List DispCmd) (t : Team), let d := s.par.die
    (s.die d).dispq = q :: r → s.team? q.core q.slot = some t → q.started = false → t.preempt = none →
    ∃ e u, exec .dispatchRun s = .next e ∧ e.mem = s.mem ∧ e.team? q.core q.slot = some u ∧ u.cursor.act = true ∧ u.cursor.round = q.round) ∧
  (∀ (s : State) (a : TokAck) (q : DispCmd) (t : Team), let d := s.par.die
    (s.die d).tokAcks.find? (·.id == s.par.id) = some a → (s.die d).dispq = [q] → q.id = a.cmd → a.abort = none → q.next < q.n → q.abort = none →
    d < s.dies.length → s.team? q.core q.slot = some t →
    ∃ e u, exec .dispatchAck s = .next e ∧ e.mem = s.mem ∧ e.team? q.core q.slot = some u ∧
      u.cursor.refn = min (t.cursor.refn + a.refused) 0xFFFFFFFF) ∧
  (∀ (s : State) (m : Token), let d := s.par.die
    (s.die d).tokens = [m] → m.id = s.par.id → d < s.dies.length →
    (∃ k ∈ (s.die d).marks, k.1 = m.src ∧ k.2.1 = m.ctx ∧ k.2.2.1 = m.round ∧ m.t ≤ k.2.2.2) →
    ∃ e, exec .ingressArrival s = .next e ∧ e.mem = s.mem ∧ (e.die d).marks = (s.die d).marks ∧ (e.die d).tokens = []) ∧
  (∀ (s : State) (t : Team) (f : Fibre) (i : BitVec 8) (k : BitVec 32), let c := s.par.core
    let slot := s.par.slot
    s.team? c slot = some t → t.fibres = [f] → f.role = s.par.role → f.wait = some (.regrp k (.v i)) → f.stepping = false → f.rep = none →
    t.regroupSet s.par.role = some [f] →
    ∃ e g, exec .regroupComplete s = .next e ∧ e.mem = s.mem ∧ e.fibre? c slot f.fid = some g ∧ g.pc = f.pc + 12 ∧ g.wait = none ∧
      g.regs = f.regs) ∧
  (∀ (f : FR) (r : Route) (e : State), ∀ s : State, wf (.xsel f) = true → s.issues (.xsel f) f.h = true →
    let x := s.issueCtx (.xsel f) f.h
    let s' := s.landed (.xsel f) f.h
    x.act ≠ [] → routeRead (x.rdU s' true f.b).toNat r e x s' → (∀ fid ∈ x.act, s'.acqOpen x.core x.slot fid = false) →
    (∀ t, x.team s' = some t → ∀ fid ∈ x.act, scoreRow f x s' fid % 4 = 0 ∧ t.allots (scoreRow f x s' fid) (4 * (r.ngrp * r.epg)) = true ∧
      e.engHeld x.core e.uid e.uid (scoreRow f x s' fid) (scoreRow f x s' fid + 4 * (r.ngrp * r.epg)) = false) →
    outsAgree (choices f r e x s') = true →
    State.becomes (exec (.xsel f) s) s.cur.core ((e.owed x .ready (choices f r e x s')).proceed x f.h (on x s'))) ∧
  (∀ (r : Route) (row : List (BitVec 32)) (n : Nat), r.wellFormed = true → n < 8 →
    let b := ((r.choose row).extractLsb' (8 * n) 8).toNat
    (n < r.topg → b < r.ngrp ∧ ((List.range r.ngrp).filter fun g => before r row g b).length = n) ∧ (r.topg ≤ n → b = 0xFF)) ∧
  (∀ (f : FE) (r : Route) (e : State), ∀ s : State, wf (.xdisp f) = true → s.issues (.xdisp f) f.h = true →
    let x := s.issueCtx (.xdisp f) f.h
    let s' := s.landed (.xdisp f) f.h
    let t := teamOf x s'
    let va := (uniformAt f 1 x s' ++ uniformAt f 0 x s').toNat
    let d := e.readThrough x.core t (x.act.headD 0) va 2
    let q := dispatched f d.2 x d.1
    x.act ≠ [] → xdispCheck f x s' = [] → s'.tdHeld x.core x.slot [f.tda.toNat, f.tdb.toNat] = false → routeRead va r e x s' →
    d.1.xdispTrap x.core t f q = none → (∀ fid ∈ x.act, d.1.relReady x.core x.slot fid = true) →
    (d.1.die (dieOf x.core)).dispq.length < 64 →
    State.becomes (exec (.xdisp f) s) s.cur.core
      ((State.capturePins ({ d.1 with uid := d.1.uid + 1 }.modDie (dieOf x.core) fun y => { y with dispq := y.dispq ++ [q] }) x.core t q.id
        q.pages).proceed x f.h (on x s'))) ∧
  (∀ f, Ends (.xcurRd f) f.h
    (fun x s => cursorOk f x s ∧ cursorAt f x s + 64 ≤ 0xFF000 ∧ (∀ g, s.fibre? x.core x.slot (x.act.headD 0) = some g → g.unack < 65527) ∧
      (s.core x.core).bankRoom ((List.range 16).map fun i => ⟨s.uid, cursorAt f x s + 4 * i, none, s.uid⟩) = true)
    (cursorStores f) on) ∧
  (∀ f, Ends (.xcurWr f) f.h
    (fun x s =>
      let b := Memory.bytes (s.core x.core).spad (cursorAt f x s) 64
      cursorOk f x s ∧ s.engHeld x.core s.uid s.uid (cursorAt f x s) (cursorAt f x s + 64) = false ∧
      field b 6 1 % 2 = 0 ∧ field b 6 1 < 4 ∧ field b 0x38 8 = 0)
    (fun x s =>
      let b := Memory.bytes (s.core x.core).spad (cursorAt f x s) 64
      s.modTeam x.core x.slot fun t => { t with cursor :=
        ⟨field b 0 4, field b 4 2, false, (field b 6 1).testBit 1, field b 7 1, field b 8 4, field b 0x0C 4,
          (List.range 8).map fun i => field b (0x10 + 4 * i) 4, field b 0x30 8⟩ }) on) ∧
  (∀ f, Ends (.xhist f) f.h (histOk f) (histogram f) on) ∧
  ∀ f, Ends (.regrp f) f.h (fun x _ => x.act ≠ [])
    (fun x s => x.act.foldl (fun r fid => State.waiting r x fid (.regrp ((x.rd s fid false f.a).setWidth 32) f.d)) s) othersOn

/-- R375, R376, R380, R382. A dispatch command starts on its team's cursor, sends a token, takes an acknowledgement; a die takes an
arrival once: it offers the token to the chosen experts of its group, each of which takes it into its next slot or refuses it; and a
regroup gives every fibre its rank and lets it go on. -/
def Obligations.RoutingSteps : Prop :=
  (∀ (s : State) (q : DispCmd) (r : List DispCmd) (t : Team), let d := s.par.die
    (s.die d).dispq = q :: r → s.team? q.core q.slot = some t → q.started = false → t.preempt = none →
    ∃ e u, exec .dispatchRun s = .next e ∧ e.mem = s.mem ∧ e.team? q.core q.slot = some u ∧
      u.cursor = { (if t.cursor.round = q.round then t.cursor else ⟨0, q.round, false, false, 0, 0, 0xFFFFFFFF, List.replicate 8 0, 0⟩) with
        act := true, abt := false, cause := 0 } ∧
      (e.die d).dispq.head? = some { q with started := true, next := 0, bytes := List.replicate 8 0, got := [] }) ∧
  (∀ (s : State) (q : DispCmd) (r : List DispCmd) (t : Team) (g : Nat) (row : List Byte), let d := s.par.die
    let k := Route.parse q.desc
    let p := k.dieOf g
    (s.die d).dispq = q :: r → (∀ c ∈ r, c.id ≠ q.id) → d < s.dies.length → p < s.dies.length → p < q.due.length → p < q.bytes.length →
    s.team? q.core q.slot = some t → q.started = true → q.abort = none → q.asked = false → q.next < q.n →
    t.preempt = none → s.choiceOf q q.next = [g] → g < k.ngrp → g ≠ 0xFF → (∀ l ∈ q.due, l.length < 64) →
    s.engHeld q.core q.id q.id (q.choice + 8 * q.next) (q.choice + 8 * q.next + 8) = false →
    s.engHeld q.core q.id q.id (q.scoreAddr q.next) (q.scoreAddr q.next + 4 * k.ngrp * k.epg) = false →
    t.cursor.tok ≤ q.next → nth 0 t.cursor.bytes p < nth 0 q.bytes p + 64 * k.tokb → s.tokenRow t q = .row row →
    ∃ e m, exec .dispatchRun s = .next e ∧ e.mem = s.mem ∧ (e.die p).tokens = (s.die p).tokens ++ [m] ∧
      m.src = d ∧ m.cmd = q.id ∧ m.ctx = q.ctx ∧ m.round = q.round ∧ m.t = q.next ∧ m.g = g ∧ m.payload = row ∧
      m.scores = k.groupScores (s.scoreRow q.core (q.scoreAddr q.next) (k.ngrp * k.epg)) g ∧
      (e.die d).dispq.head? = some
        { q with next := q.next + 1, bytes := q.bytes.set p (nth 0 q.bytes p + 64 * k.tokb), due := q.due.modify p (· ++ [q.next]), got := [] } ∧
      ∃ u, e.team? q.core q.slot = some u ∧
        u.cursor = { t.cursor with tok := max t.cursor.tok ((q.due.modify p (· ++ [q.next])).flatten.foldl min (q.next + 1)) }) ∧
  (∀ (s : State) (q : DispCmd) (r : List DispCmd) (t : Team), let d := s.par.die
    (s.die d).dispq = q :: r → (∀ c ∈ r, c.id ≠ q.id) → d < s.dies.length → s.team? q.core q.slot = some t → q.started = true → q.abort = none →
    q.asked = false → q.next < q.n → t.preempt = none → (∀ g ∈ s.choiceOf q q.next, g = 0xFF) → (∀ l ∈ q.due, l.length ≤ 64) →
    s.engHeld q.core q.id q.id (q.choice + 8 * q.next) (q.choice + 8 * q.next + 8) = false →
    s.engHeld q.core q.id q.id (q.scoreAddr q.next) (q.scoreAddr q.next + 4 * (Route.parse q.desc).ngrp * (Route.parse q.desc).epg) = false →
    ∃ e u, exec .dispatchRun s = .next e ∧ e.mem = s.mem ∧ e.team? q.core q.slot = some u ∧
      u.cursor = { t.cursor with tok := max t.cursor.tok (q.due.flatten.foldl min (q.next + 1)) } ∧
      (e.die d).dispq.head? = some { q with next := q.next + 1, got := [] }) ∧
  (∀ (s : State) (a : TokAck) (q : DispCmd) (t : Team), let d := s.par.die
    (s.die d).tokAcks.find? (·.id == s.par.id) = some a → (s.die d).dispq = [q] → q.id = a.cmd → a.abort = none → q.next < q.n → q.abort = none →
    d < s.dies.length → s.team? q.core q.slot = some t →
    ∃ e u, exec .dispatchAck s = .next e ∧ e.mem = s.mem ∧ e.team? q.core q.slot = some u ∧
      u.cursor.bytes = t.cursor.bytes.modify a.die (fun b => min (b + 64 * (Route.parse q.desc).tokb) 0xFFFFFFFF) ∧
      u.cursor.refn = min (t.cursor.refn + a.refused) 0xFFFFFFFF ∧
      u.cursor.ref0 = (if a.refused = 0 then t.cursor.ref0 else min t.cursor.ref0 a.t) ∧
      u.cursor.tok = max t.cursor.tok ((q.due.modify a.die (·.erase a.t)).flatten.foldl min q.next)) ∧
  (∀ (s : State) (m : Token) (r : List Token), let d := s.par.die
    (s.die d).tokens = m :: r → m.id = s.par.id → d < s.dies.length →
    ((s.die d).marks.any fun k => k.1 == m.src && k.2.1 == m.ctx && k.2.2.1 == m.round && decide (m.t ≤ k.2.2.2)) = true →
    ∃ e, exec .ingressArrival s = .next e ∧ e.mem = s.mem ∧ (e.die d).marks = (s.die d).marks ∧
      (m.src < s.dies.length → ∃ a, (e.die m.src).tokAcks = (s.die m.src).tokAcks ++ [a] ∧ a.cmd = m.cmd ∧ a.t = m.t ∧ a.die = d ∧ a.refused = 0 ∧
        a.abort = none)) ∧
  (∀ (s : State) (m : Token), let d := s.par.die
    let k := Route.parse m.desc
    let area := k.sbase + d * k.sstr
    let es := (byRank (m.scores.map rankOf)).take k.tope
    let s1 := s.modDie d fun y => { y with tokens := [] }
    let q := s1.offer m k area ((List.range es.length).zip es)
    (s.die d).tokens = [m] → m.id = s.par.id → d < s.dies.length →
    (∀ k ∈ (s.die d).marks, ¬ (k.1 = m.src ∧ k.2.1 = m.ctx ∧ k.2.2.1 = m.round ∧ m.t ≤ k.2.2.2)) →
    (∀ v ∈ s1.ingressRanges m k area es, s1.ingressCause d m.ctx v.1 v.2 = none) →
    (∀ v ∈ (area + 0x1000, 4) :: es.map (fun e => (area + 2 * (m.g * k.epg + e), 2)), s1.poisoned (s1.physOf m.ctx v.1) v.2 = false) →
    ∃ e, exec .ingressArrival s = .next e ∧ e.mem = q.1.mem ∧ (e.die d).tokens = [] ∧
      (e.die d).marks = (s.die d).marks.filter (·.1 != m.src) ++ [(m.src, m.ctx, m.round, m.t)] ∧
      (m.src < s.dies.length → ∃ a, (e.die m.src).tokAcks = (s.die m.src).tokAcks ++ [a] ∧ a.cmd = m.cmd ∧ a.t = m.t ∧ a.die = d ∧
        a.refused = q.2 ∧ a.abort = none)) ∧
  (∀ (s : State) (m : Token) (k : Route) (area rank x : Nat) (e : Nat), x = m.g * k.epg + e →
    let cnt := s.physOf m.ctx (area + 2 * x)
    let old := Memory.read s.mem cnt 2
    old < k.cap →
    s.offer m k area [(rank, e)] =
      ((s.homeWrite cnt 2 (min (old + 1) 0xFFFF)).writeHomes m.ctx 3 (area + 0x2000 + (x * k.cap + old) * (64 * (k.tokb + 1)))
        (leBytes m.t 4 ++ leBytes m.src 1 ++ leBytes rank 1 ++ leBytes m.round 2 ++ leBytes (nth 0 m.scores e).toNat 4 ++ leBytes 0 52 ++
          m.payload), 0)) ∧
  (∀ (s : State) (m : Token) (k : Route) (area rank x : Nat) (e : Nat), x = m.g * k.epg + e →
    let cnt := s.physOf m.ctx (area + 2 * x)
    let old := Memory.read s.mem cnt 2
    k.cap ≤ old →
    let refc := s.physOf m.ctx (area + 0x1000)
    let s1 := s.homeWrite cnt 2 (min (old + 1) 0xFFFF)
    s1.physOf m.ctx (area + 0x1000) = refc →
    s.offer m k area [(rank, e)] = (s1.homeWrite refc 4 (min (Memory.read s1.mem refc 4 + 1) 0xFFFFFFFF), 1)) ∧
  (∀ (s : State) (t : Team) (fs : List Fibre) (i : BitVec 8) (f : Fibre), let c := s.par.core
    let slot := s.par.slot
    s.team? c slot = some t → t.regroupSet s.par.role = some fs → (t.fibres.map (·.fid)).Nodup →
    (∀ g ∈ fs, g.stepping = false ∧ g.rep = none ∧ (g.regrp?.map (·.2)) = some (.v i)) → f ∈ fs →
    ∃ e g w, exec .regroupComplete s = .next e ∧ e.mem = s.mem ∧ e.fibre? c slot f.fid = some g ∧ g.pc = f.pc + 12 ∧ g.wait = none ∧
      g.regs = f.regs ∧ g.pend = f.pend ++ [w] ∧ w.loc = .v i.toNat ∧ w.hi = false ∧ w.due = .ready ∧ w.val = BitVec.ofNat 32 (rankIn fs f)) ∧
  ∀ (s : State) (t : Team), s.team? s.par.core s.par.slot = some t → t.regroupSet s.par.role = none → exec .regroupComplete s = .next s

namespace Sys2Proof.Spec

open Sys2Proof Sys2Proof.Machine

-- the crier table (R391-R393)

/-- The waiters of an address in a context, in the order in which they parked: the key has address bits [55:3] (R391). -/
def State.waitersAt (s : State) (ctx va : Nat) : List (Nat × Nat × Crier) :=
  s.forum.crier.filter fun e => e.1 == ctx && e.2.1 == va / 8 % 2 ^ 53

/-- Another key finds no room (R391). -/
def tableFull (s : State) (ctx va : Nat) : Prop :=
  State.waitersAt s ctx va = [] ∧ 65536 ≤ ((s.forum.crier.map fun e => (e.1, e.2.1)).eraseDups).length

/-- A lane comes to the table with `n` bytes at its address (R392). -/
def atTable (n : Nat) (f : FM) (leaf : State → Nat → Leaf) (x : Ctx) (s : State) (fid : Nat) : Prop :=
  let va := address f x s fid
  ∃ t, x.team s = some t ∧ goes x s t .read fid va n (leaf s fid) ∧ (leaf s fid).apt < 2 ∧ s.poisoned ((leaf s fid).phys va) n = false ∧
    s.relReady x.core x.slot fid = true

/-- The word at the address differs from the expected value. -/
def differs (f : FM) (leaf : State → Nat → Leaf) (x : Ctx) (s : State) (fid : Nat) : Bool :=
  Memory.read s.mem ((leaf s fid).phys (address f x s fid)) (width f.t1 / 8) != (x.rd s fid (wide f.t1) f.b).toNat % 2 ^ width f.t1

/-- `wwait` in a lane that does not park: 1 with an acquire, or 2 where the table is full. -/
def declining (f : FM) (leaf : State → Nat → Leaf) : LaneOp where
  ok x s fid := atTable (width f.t1 / 8) f leaf x s fid ∧ (differs f leaf x s fid = true ∨ tableFull s (teamOf x s).ctx (address f x s fid))
  op x s fid := if differs f leaf x s fid then s.acquire x.core 5 else s
  val x s fid := if differs f leaf x s fid then 1 else 2

/-- The waiters that a wake of up to `n` takes. -/
def woken (s : State) (ctx va n : Nat) : List (Nat × Nat × Crier) :=
  if n = 0xFFFFFFFF then State.waitersAt s ctx va else (State.waitersAt s ctx va).take n

def State.wake (s : State) (ctx va n : Nat) : State :=
  let r := { s with forum := { s.forum with crier := s.forum.crier.filter (!(woken s ctx va n).contains ·), wakeSerial := s.forum.wakeSerial + 1 } }
  (woken s ctx va n).foldl (fun r w => r.wakeOne w.2.2) r

def waking (f : FM) (leaf : State → Nat → Leaf) : LaneOp where
  ok x s fid := atTable 4 f leaf x s fid
  op x s fid := State.wake s (teamOf x s).ctx (address f x s fid) ((x.rd s fid false f.b).toNat % 2 ^ 32)
  val x s fid := BitVec.ofNat 64 (woken s (teamOf x s).ctx (address f x s fid) ((x.rd s fid false f.b).toNat % 2 ^ 32)).length

-- remote regions of a fibre (R461-R464)

/-- A step that each active lane takes in lane order, on what the one before left. -/
def eachGoes (ok : Ctx → State → Nat → Prop) (op : Ctx → State → Nat → State) (x : Ctx) : List Nat → State → Prop
  | [], _ => True
  | fid :: r, s => ok x s fid ∧ eachGoes ok op x r (op x s fid)

def mayOpen (x : Ctx) (s : State) (fid : Nat) : Prop :=
  (s.freeRegion x.core).isSome = true ∧ ∃ g, s.fibre? x.core x.slot fid = some g ∧ g.region = none ∧ ∀ w ∈ g.pend, w.due ≠ .out

/-- The checkpoint holds `PRED`, `SRSTEP` and the registers below `v32`; `p`D is 1 and `v`S is 0 (R461). -/
def opened (f : FR) (x : Ctx) (s : State) (fid : Nat) : State :=
  let pd := match f.d with | .p i => i | _ => 0
  s.modFibre x.core x.slot fid fun h =>
    let g := h.land fun _ => true
    { (g.setPred pd.toNat true).setReg (index f.a) 0 with
      region := some ⟨g.pred, g.srstep, g.regs.take 32, x.pc + 12, pd, BitVec.ofNat 8 (index f.a), (s.freeRegion x.core).getD 0, [], 0, false, [], false, []⟩ }

def regionOf (s : State) (x : Ctx) (fid : Nat) : Option Region := (s.fibre? x.core x.slot fid).bind (·.region)

/-- The packages at which a region has staged writes. -/
def targets (r : Region) : List Nat := (r.staged.map (·.1)).eraseDups

-- system registers (R278-R280, R299)

def selected (xf : BitVec 16) : Nat := (xf.extractLsb' 0 8).toNat

/-- The team slot that a selector reaches (R280). -/
def reached (xf : BitVec 16) (x : Ctx) : Nat := if xf.getLsbD 11 then (xf.extractLsb' 12 4).toNat else x.slot

/-- Team-context registers as they read (R278, R279, R299). -/
def teamRegister (s : State) (t : Team) (n : Nat) : BitVec 64 :=
  let b (v : Bool) (i : Nat) : Nat := if v then 2 ^ i else 0
  let c := s.context t.ctx
  if n = 0x00 then
    BitVec.ofNat 64 (b t.sbchk 0 + b t.nantrap 1 + b t.nanseen 2 + b t.stopped 3 + b c.supervisor 4 + b t.world 6 + b (t.dbg.ctl.getLsbD 0) 7)
  else if n = 0x01 then t.tvec else if n = 0x02 then t.tmask else if n = 0x03 then t.srseed
  else if n = 0x04 then BitVec.ofNat 64 (t.frame + 0x4000) else if n = 0x05 then t.fmbox else if n = 0x06 then c.ptroot
  else if n = 0x07 then BitVec.ofNat 64 (t.ctx + b t.world 16)
  else if 0x10 ≤ n ∧ n < 0x14 then t.dbg.bpa.getD (n - 0x10) 0
  else if 0x14 ≤ n ∧ n < 0x18 then t.dbg.wpa.getD (n - 0x14) 0
  else if 0x18 ≤ n ∧ n < 0x1C then t.dbg.wpc.getD (n - 0x18) 0
  else if n = 0x1C then t.dbg.ctl
  else if n = 0x1E then
    BitVec.ofNat 64 (b t.dbg.err 16 + (t.fibres.filter fun f => match f.run with | .halted | .held _ => true | _ => false).length % 2 ^ 16)
  else 0

/-- A write of a team-context register that only keeps a value, at a privilege (R278, R279, R299). -/
def kept (sup : Bool) (n : Nat) (v : BitVec 64) (t : Team) : Team :=
  if n = 0x00 then { t with sbchk := v.getLsbD 0, nantrap := v.getLsbD 1, nanseen := t.nanseen && !v.getLsbD 2 }
  else if n = 0x01 then { t with tvec := v &&& 0x00FFFFFFFFFFFFFC }
  else if n = 0x02 then { t with tmask := v &&& 0x0000000000FAFFFE }
  else if n = 0x03 then { t with srseed := v }
  else if sup = false then t
  else if n = 0x05 then { t with fmbox := v }
  else if 0x10 ≤ n ∧ n < 0x14 then { t with dbg := { t.dbg with bpa := t.dbg.bpa.set (n - 0x10) (v &&& 0x00FFFFFFFFFFFFFD) } }
  else if 0x14 ≤ n ∧ n < 0x18 then { t with dbg := { t.dbg with wpa := t.dbg.wpa.set (n - 0x14) v } }
  else if 0x18 ≤ n ∧ n < 0x1C then { t with dbg := { t.dbg with wpc := t.dbg.wpc.set (n - 0x18) (v &&& 0x3F) } }
  else if n = 0x1C then { t with dbg := { t.dbg with ctl := v &&& 3 } }
  else t

/-- The registers of the die walker, the continuation queues and the mailbox rings. -/
def ofDie (n : Nat) : Prop := 0x20 ≤ n ∧ n ≤ 0x22 ∨ 0x30 ≤ n ∧ n ≤ 0x32 ∨ 0x40 ≤ n ∧ n ≤ 0x4F

/-- What they read (R342, R359, R390). -/
def dieRegister (s : State) (d n : Nat) : BitVec 64 :=
  let y := s.die d
  if n = 0x22 then y.invDone ++ y.invIssued
  else if n = 0x30 then y.cqbase else if n = 0x31 then y.cqlog
  else if n = 0x32 then BitVec.ofNat 64 (((List.range 4).map fun i => min (y.queues.getD i []).length 0xFFFF * 2 ^ (16 * i)).sum)
  else if 0x40 ≤ n ∧ n ≤ 0x4F then (if n % 2 = 0 then y.kdown else y.kup).getD ((n - 0x40) / 2) 0
  else 0

/-- The supervisor privilege of the team that issues. -/
def privilege (x : Ctx) (s : State) : Bool := (s.context (teamOf x s).ctx).supervisor

-- debugging and saved contexts (R287, R296, R303)

/-- The item of a fibre that `dbgrd` reads, none for one not listed (R303). -/
def debugValue (s : State) (c : Nat) (t : Team) (f : Fibre) (n : Nat) : Option Nat :=
  let b (v : Bool) (i : Nat) : Nat := if v then 2 ^ i else 0
  let bar (i : Nat) : Barrier := t.bars.getD i ⟨0, 0, 0, 0, 0, 0, false⟩
  if n < 0x100 then (if n < f.wsize then some (f.reg n).toNat else none)
  else if n = 0x100 then some f.pc.toNat
  else if n = 0x101 then some (f.rc.toNat + 2 ^ 32 * f.pred.toNat)
  else if n = 0x102 then
    some (f.wsize % 2 ^ 9 + 2 ^ 9 * f.wbase + 2 ^ 20 * f.lane + 2 ^ 25 * roleNum f.role + b f.inh 27 + b f.msp 28 + b f.bwait 29 + 2 ^ 32 * f.srstep.toNat)
  else if n = 0x103 then some (f.bmem.toNat + 2 ^ 16 * f.barr.toNat + 2 ^ 32 * f.bpar.toNat)
  else if n = 0x104 then
    some (f.unack % 2 ^ 16 + 2 ^ 16 * (((s.core c).sidelog.filter fun e => e.slot == t.slot && e.fid == f.fid).length % 2 ^ 16))
  else if n = 0x105 then some (s.parkedBlock c t.slot f.fid)
  else if n = 0x106 then some f.mspm.toNat
  else if 0x140 ≤ n ∧ n ≤ 0x17F then some (t.ureg f.role (n - 0x140)).toNat
  else if 0x180 ≤ n ∧ n ≤ 0x18F then some (statusWord t.slot (bar (n - 0x180)))
  else if 0x190 ≤ n ∧ n ≤ 0x19F then some ((bar (n - 0x190)).byt + 2 ^ 32 * (bar (n - 0x190)).lbyt)
  else none

/-- The fibre that A of a `dbgrd` names, where it is halted, held or stopped. -/
def named (a : Nat) (x : Ctx) (s : State) : Option (Team × Fibre) :=
  match s.team? x.core (a / 2 ^ 16 % 16), s.fibre? x.core (a / 2 ^ 16 % 16) (a % 2 ^ 15) with
  | some t, some g => if a < 2 ^ 20 ∧ g.readable = true then some (t, g) else none
  | _, _ => none

/-- The entries that a `fcancel` selects on a core (R287). -/
def cancelled (s : State) (c ctx gran : Nat) (sel : BitVec 32) : List SLEntry :=
  (s.core c).sidelog.filter fun e =>
    (match e.kind with | .push .. => false | _ => true) && s.slotCtx c e.slot == ctx && e.va / 2 ^ 16 == gran &&
    (sel.getLsbD 16 || e.fid == (sel.extractLsb' 0 16).toNat)

def cancelling (gran ctx : Nat) (sel : BitVec 32) (s : State) : State :=
  let sets := s.coreNums.map fun c => (c, cancelled s c ctx gran sel)
  let r := sets.foldl (fun r p => (firstOwners p.2 []).foldl (fun r e => r.cancelOwner p.1 e) r) s
  r.coreNums.foldl (fun r c => r.retryLog c fun e => r.slotCtx c e.slot == ctx && e.va / 2 ^ 16 == gran) r

def slotNamed (f : FM) (x : Ctx) (s : State) : Nat := (x.rdU s false f.b).toNat % 16

/-- The bytes of a team's image that must be pinned and writable (R296). -/
def imageRoom (t : Team) : Nat := 0x1000 + t.spadSize + 0x8000 + 0x440 * t.fibres.length + 0x8000

end Sys2Proof.Spec

/-- R278-R280, R287, R296, R299, R303, R391-R393, R461-R464. -/
def Obligations.SystemInstructions : Prop :=
  (∀ f v leaf, Ends (.wwait f) f.h (fun x s => x.act ≠ [] ∧ (declining f leaf).goes f.d v x x.act s) ((declining f leaf).result f.d v) on) ∧
  (∀ f fid leaf, Ends (.wwait f) f.h
    (fun x s => x.act = [fid] ∧ atTable (width f.t1 / 8) f leaf x s fid ∧ differs f leaf x s fid = false ∧ ¬ tableFull s (teamOf x s).ctx (address f x s fid))
    (fun x s => State.waiting { s with forum := { s.forum with crier :=
      s.forum.crier ++ [((teamOf x s).ctx, address f x s fid / 8 % 2 ^ 53, .fibre x.core x.slot fid)] } } x fid (.crier f.d)) othersOn) ∧
  (∀ f v leaf, Ends (.wwake f) f.h (fun x s => x.act ≠ [] ∧ (waking f leaf).goes f.d v x x.act s) ((waking f leaf).result f.d v) on) ∧
  (∀ f, Ends (.rmtOpen f) f.h (fun x s => eachGoes mayOpen (opened f) x x.act s) (fun x s => x.act.foldl (opened f x) s) on) ∧
  (∀ f, Ends (.rmtCommit f) f.h
    (fun x s => ∀ fid ∈ x.act, s.relReady x.core x.slot fid = true ∧ ∃ r, regionOf s x fid = some r ∧ r.staged = [])
    (fun x s => x.act.foldl (fun s fid => s.modFibre x.core x.slot fid fun h => { h with region := none }) s) on) ∧
  (∀ f fid r, Ends (.rmtCommit f) f.h
    (fun x s => x.act = [fid] ∧ s.relReady x.core x.slot fid = true ∧ regionOf s x fid = some r ∧ r.staged ≠ [])
    (fun x s => (targets r).foldl (fun s p => s.regionAsk p (.prepare x.core x.slot fid))
      ({ s with uid := s.uid + 1 }.modFibre x.core x.slot fid fun h => { h with region := some { r with preparing := true }, wait := some (.remote s.uid) }))
    othersOn) ∧
  (∀ f, Ends (.rmtAbort f) f.h (fun x s => ∀ fid ∈ x.act, (regionOf s x fid).isSome = true)
    (fun x s => x.act.foldl (fun s fid => s.rollback x.core x.slot fid 6) s)
    (jumping fun x s fid => ((regionOf s x fid).map (·.resume)).getD 0)) ∧
  (∀ f, Ends (.sysrd f) f.h (fun x _ => x.act ≠ [] ∧ ofDie (selected f.xf))
    (fun x s => everyone f.d true (fun _ _ => dieRegister s (dieOf x.core) (selected f.xf)) x
      (if selected f.xf = 0x22 then s.acquire x.core 5 else s)) on) ∧
  (∀ f t, Ends (.sysrd f) f.h (fun x s => x.act ≠ [] ∧ ¬ ofDie (selected f.xf) ∧ s.team? x.core (reached f.xf x) = some t)
    (fun x s => everyone f.d true (fun _ _ => teamRegister s t (selected f.xf)) x
      (if selected f.xf = 0x1E then s.modTeam x.core (reached f.xf x) fun t => { t with dbg := { t.dbg with err := false } } else s)) on) ∧
  (∀ f, Ends (.sysrd f) f.h (fun x s => x.act ≠ [] ∧ ¬ ofDie (selected f.xf) ∧ s.team? x.core (reached f.xf x) = none) (everyone f.d true fun _ _ => 0) on) ∧
  (∀ f, Ends (.syswr f) f.h (fun x _ => x.act ≠ [] ∧ selected f.xf ≤ 0x1E ∧ (selected f.xf ≤ 0x05 ∨ 0x10 ≤ selected f.xf) ∧ selected f.xf ≠ 0x1D)
    (fun x s => s.modTeam x.core (reached f.xf x) (kept (privilege x s) (selected f.xf) (x.rdU s true f.a))) on) ∧
  (∀ f t, Ends (.syswr f) f.h (fun x s => x.act ≠ [] ∧ selected f.xf = 0x06 ∧ s.team? x.core (reached f.xf x) = some t)
    (fun x s => if privilege x s then
      { s with contexts := s.contexts.filter (·.num != t.ctx) ++ [{ s.context t.ctx with ptroot := x.rdU s true f.a &&& 0x000FFFFFFFFE0000 }] } else s) on) ∧
  (∀ f, Ends (.syswr f) f.h (fun x s => x.act ≠ [] ∧ (selected f.xf = 0x08 ∨ selected f.xf = 0x1D) ∧ s.team? x.core (reached f.xf x) ≠ none)
    (fun x s => if privilege x s = false then s
      else if selected f.xf = 0x1D then s.debugCommand x.core (reached f.xf x) (x.rdU s true f.a)
      else if x.rdU s true f.a = 1 then s.terminateByCommand x.core (reached f.xf x) else s) on) ∧
  (∀ f, Ends (.syswr f) f.h (fun x s => x.act ≠ [] ∧ ofDie (selected f.xf) ∧ x.team s ≠ none)
    (fun x s => s.writeDieReg (dieOf x.core) (selected f.xf) (x.rdU s true f.a)) on) ∧
  (∀ f g, Ends (.syswr f) f.h
    (fun x s => x.act ≠ [] ∧ selected f.xf = 0x74 ∧ (∀ fid ∈ x.act, s.relReady x.core x.slot fid = true) ∧
      s.forum.graphs.find? (·.slot == (x.rdU s true f.a).toNat % 64) = some g ∧ x.team s ≠ none)
    (fun x s => if g.ctx = (teamOf x s).ctx then
      s.advance g.slot ((x.rdU s true f.a).toNat / 64 % 8) ((x.rdU s true f.a).toNat / 2 ^ 32) else s) on) ∧
  (∀ f d, Ends (.fcancel f) f.h
    (fun x s => x.act ≠ [] ∧ ((x.rdU s false f.b).setWidth 32).toNat < 2 ^ 17 ∧
      d = cancelling ((x.rdU s true f.a).toNat / 2 ^ 16) ((x.rdU s false f.c).toNat % 2 ^ 16) ((x.rdU s false f.b).setWidth 32) s ∧
      ∀ fid ∈ x.gang, s.fibre? x.core x.slot fid = d.fibre? x.core x.slot fid)
    (fun x s => everyone f.d false (fun _ _ => BitVec.ofNat 64 (min ((s.coreNums.map fun c =>
      (cancelled s c ((x.rdU s false f.c).toNat % 2 ^ 16) ((x.rdU s true f.a).toNat / 2 ^ 16) ((x.rdU s false f.b).setWidth 32)).length).sum)
      0xFFFFFFFF)) x d) on) ∧
  (∀ f, Ends (.ctxsave f) f.h (fun x s => x.act ≠ [] ∧ x.team s ≠ none ∧ address f x s (x.act.headD 0) % 64 = 0 ∧
      (s.team? x.core (slotNamed f x s) = none ∨ slotNamed f x s = x.slot)) (everyone f.d false fun _ _ => 0xFFFFFFFF) on) ∧
  (∀ f t me, Ends (.ctxsave f) f.h
    (fun x s => x.act ≠ [] ∧ x.team s = some me ∧ address f x s (x.act.headD 0) % 64 = 0 ∧ slotNamed f x s ≠ x.slot ∧
      s.team? x.core (slotNamed f x s) = some t ∧
      s.pinnedFor me.ctx me.world .write (address f x s (x.act.headD 0)) (imageRoom t) = false) (everyone f.d false fun _ _ => 0xFFFFFFFE) on) ∧
  (∀ f t me c, Ends (.ctxsave f) f.h
    (fun x s => x.act ≠ [] ∧ x.team s = some me ∧ address f x s (x.act.headD 0) % 64 = 0 ∧ slotNamed f x s ≠ x.slot ∧
      s.team? x.core (slotNamed f x s) = some t ∧ s.pinnedFor me.ctx me.world .write (address f x s (x.act.headD 0)) (imageRoom t) = true ∧
      t.preempt = some (c, true) ∧ s.saveReady x.core t = true)
    (fun x s =>
      let p := s.saveTeam x.core t true
      let n := p.1.image.length
      let r := p.2.writeVirtLong x.core me.ctx me.world (n / 2 ^ 16 + 2) (address f x s (x.act.headD 0)) p.1.image
      everyone f.d false (fun _ _ => BitVec.ofNat 64 n) x
        { r with saved := r.saved.map fun y => if y.id = p.1.id then { y with image := [] } else y }) on) ∧
  (∀ f me, Ends (.ctxload f) f.h
    (fun x s => x.act ≠ [] ∧ x.team s = some me ∧ address f x s (x.act.headD 0) % 64 = 0 ∧
      s.pinnedFor me.ctx me.world .read (address f x s (x.act.headD 0)) 0xC40 = false) (everyone f.d false fun _ _ => 0xFFFFFFFE) on) ∧
  (∀ f me h b y, Ends (.ctxload f) f.h
    (fun x s =>
      let a := address f x s (x.act.headD 0)
      let n := field h 0x040 8 + 64 * field h 0x014 4
      x.act ≠ [] ∧ x.team s = some me ∧ a % 64 = 0 ∧
      s.pinnedFor me.ctx me.world .read a 0xC40 = true ∧ s.readVirtLong me.ctx me.world (0xC40 / 2 ^ 16 + 2) a 0xC40 = some h ∧
      headerOk h = true ∧ (me.world = true ∨ (field h 8 4).testBit 16 = false) ∧ n ≤ 2 ^ 24 ∧
      s.pinnedFor me.ctx me.world .read a n = true ∧ s.readVirtLong me.ctx me.world (n / 2 ^ 16 + 2) a n = some b ∧ imageOk b = true ∧
      s.saved.find? (fun z => z.inMemory && z.team.ctxid == field h 8 4 && z.team.frbase == field b 0x0A0 8) = some y)
    (fun x s => if s.restoreFits x.core y b then everyone f.d false (fun _ _ => BitVec.ofNat 64 (s.restore x.core y b).1) x (s.restore x.core y b).2
      else everyone f.d false (fun _ _ => 0xFFFFFFFF) x s) on) ∧
  ∀ f, Ends (.dbgrd f) f.h (fun x _ => x.act ≠ [])
    (everyone f.d true fun x s => BitVec.ofNat 64
      (((named ((x.rdU s false f.a).toNat % 2 ^ 32) x s).bind fun p => debugValue s x.core p.1 p.2 ((x.rdU s false f.b).toNat % 2 ^ 32)).getD (2 ^ 64 - 1))) on

namespace Sys2Proof.Spec

open Sys2Proof Sys2Proof.Machine

-- the instructions of a porter's handlers (R411-R430)

/-- The handler that runs, not yet at its 65th instruction, and where the instruction may be performed. -/
def Turn (s : State) (h : Handler) : Prop := (s.porter s.curPorter.1).handlers[s.curPorter.2]? = some h ∧ h.count < 64

/-- The handler goes on: `eff` gives it and the state anew, and one more instruction is counted (R424). -/
def Runs (i : Instr) (pre : Nat → Handler → State → Prop) (eff : Nat → Handler → State → Handler × State) : Prop :=
  ∀ (s : State) (h : Handler), let p := s.curPorter.1
    Turn s h → pre p h s →
    exec i s = .next ((eff p h s).2.modPorter p fun q =>
      { q with handlers := q.handlers.set s.curPorter.2 { (eff p h s).1 with count := h.count + 1 } })

/-- A porter fault (R424): the porter stops with `HLT`, `ERR` and `FPC`, its packet held, and the fault is reported. -/
def faulted (s : State) (p idx : Nat) (h : Handler) (err : Nat) : State :=
  let r := s.modPorter p fun q => { q with
    running := false, hlt := true, err := if q.hlt then q.err else err, fpc := if q.hlt then q.fpc else h.bpc,
    held := q.held ++ [h.pkt], handlers := q.handlers.eraseIdx idx }
  { r with forum := { r.forum with reports := r.forum.reports + 1 } }

def Faults (i : Instr) (err : Nat) (pre : Nat → Handler → State → Prop) : Prop :=
  ∀ (s : State) (h : Handler), Turn s h → pre s.curPorter.1 h s → exec i s = .next (faulted s s.curPorter.1 s.curPorter.2 h err)

/-- The handler ends, and waiting packets may take its context. -/
def Finishes (i : Instr) (pre : Nat → Handler → State → Prop) (eff : Nat → Handler → State → State) : Prop :=
  ∀ (s : State) (h : Handler), let p := s.curPorter.1
    Turn s h → pre p h s →
    exec i s = .next (((eff p h s).modPorter p fun q => { q with handlers := q.handlers.eraseIdx s.curPorter.2 }).startHandlers p)

/-- The handler waits at its instruction, behind the others of its porter. -/
def Yields (i : Instr) (pre : Nat → Handler → State → Prop) : Prop :=
  ∀ (s : State) (h : Handler), Turn s h → pre s.curPorter.1 h s →
    exec i s = .next (s.modPorter s.curPorter.1 fun q => { q with handlers := q.handlers.eraseIdx s.curPorter.2 ++ [h] })

/-- `g`n: `g0` reads zero (R412). -/
def gpr (h : Handler) (n : BitVec 4) : BitVec 64 := if n = 0 then 0 else h.g.getD n.toNat 0

/-- The next instruction, with `g`D written; a write of `g0` is discarded. -/
def wrote (h : Handler) (d : BitVec 4) (v : BitVec 64) : Handler :=
  { h with bpc := (h.bpc + 1) % 1024, g := if d = 0 then h.g else h.g.set d.toNat v }

def stepped (h : Handler) : Handler := { h with bpc := (h.bpc + 1) % 1024 }

def always : Nat → Handler → State → Prop := fun _ _ _ => True

/-- The instructions that only write a register (R421). -/
def computes : Instr → Option (BitVec 4 × (Handler → BitVec 64))
  | .bli d i => some (d, fun _ => BitVec.ofInt 64 i.toInt)
  | .badd d a b => some (d, fun h => gpr h a + gpr h b)
  | .baddi d a i => some (d, fun h => gpr h a + BitVec.ofInt 64 i.toInt)
  | .band d a b => some (d, fun h => gpr h a &&& gpr h b)
  | .bshr d a n => some (d, fun h => BitVec.ofNat 64 ((gpr h a).toNat / 2 ^ n.toNat))
  | _ => none

/-- A branch: when it is taken, and how far. -/
def branches : Instr → Option ((Handler → Prop) × Int)
  | .bbeq a b i => some (fun h => gpr h a = gpr h b, i.toInt)
  | .bbne a b i => some (fun h => gpr h a ≠ gpr h b, i.toInt)
  | _ => none

/-- Instructions of the Boster set. -/
def isBoster (i : Instr) : Prop :=
  (computes i).isSome = true ∨ (branches i).isSome = true ∨ (∃ d, i = .bfold d) ∨ (∃ d, i = .bcmpl d) ∨ (∃ w, i = .bosterReservedWord w) ∨
  i ∈ [Instr.bnop, .bmatch, .bfwdRes, .bfwdUp, .bfwdRaw, .bmcast, .bgath, .bfree, .bend]

def key (h : Handler) : Nat × Nat × Nat := (h.pkt.grp, h.pkt.ver, h.pkt.off)

/-- The slot of a key at a porter. -/
def slotAtPorter (s : State) (p : Nat) (k : Nat × Nat × Nat) : Option Slot := (s.porter p).slots.find? fun x => (x.grp, x.ver, x.off) == k

/-- A slot newly allocated (R422). -/
def newSlot (h : Handler) : Slot :=
  let n := if h.group.bf16 then 16 else 8
  ⟨h.pkt.grp, h.pkt.ver, h.pkt.off, 0, [], List.replicate n none, List.replicate n false, []⟩

def withSlot (h : Handler) : Handler := { stepped h with sl := true }
def withoutSlot (h : Handler) : Handler := { stepped h with sl := false }

/-- The handler holds a slot, which is done (R425). -/
def holdsDone (x : Slot) (p : Nat) (h : Handler) (s : State) : Prop :=
  h.sl = true ∧ slotAtPorter s p (key h) = some x ∧ x.nxt = h.group.nmem

def notDone (p : Nat) (h : Handler) (s : State) : Prop :=
  h.sl = false ∨ slotAtPorter s p (key h) = none ∨ ∃ x, slotAtPorter s p (key h) = some x ∧ x.nxt ≠ h.group.nmem

def freed (s : State) (p : Nat) (h : Handler) : State :=
  s.modPorter p fun q => { q with slots := q.slots.filter fun x => (x.grp, x.ver, x.off) != key h }

/-- The contribution of a packet in the buffer, its bit set. -/
def buffered (x : Slot) (h : Handler) : Slot := { x with bmp := x.bmp ++ [h.pkt.member], raw := x.raw ++ [packetRaw h.group h.pkt] }

def flag (b : Bool) : BitVec 64 := if b then 1 else 0

/-- A poisoned element of a new contribution counts (R428). -/
def poisonCounted (s : State) (h : Handler) : State :=
  if (packetRaw h.group h.pkt).poison.any id then s.countUncorrectable else s

/-- `bcmpl` (R425, R437): one more for the group and version; the last performs the update, or leaves it to the acknowledgements. -/
def countedSector (s : State) (p : Nat) (h : Handler) : State :=
  let c := s.count h.pkt.grp h.pkt.ver
  let c' := { c with n := c.n + 1 }
  if c.n + 1 ≠ h.group.nsec then s.setCount c'
  else if c.sent = c.accepted + c.refused then s.completeGroup p h.group c' else s.setCount { c' with due := some h.group }

/-- A context that takes a packet (R412): `g1` to `g6` are copies of its fields. -/
def taken (g : Group) (k : Packet) : Handler :=
  ⟨g.prog % 1024, [0, BitVec.ofNat 64 k.grp, BitVec.ofNat 64 k.member, BitVec.ofNat 64 k.off, BitVec.ofNat 64 (k.srcPkg * 64 + k.srcPort),
    BitVec.ofNat 64 k.kind, BitVec.ofNat 64 k.ver] ++ List.replicate 9 0, false, k, g, 0, false⟩

/-- The bits of a word that its `OPC` leaves unused (R421). -/
def unusedOf (opc : Nat) : BitVec 32 :=
  [0x03FFFFFF, 0, 0x3FFF, 0x3C000, 0x3FFF, 0x3FFC0, 0x03C00000, 0x03C00000, 0x03FFFFFF, 0x3FFFFF, 0x03FFFFFC, 0x03FFFFFF, 0x03FFFFFF, 0x3FFFFF,
    0x03FFFFFF, 0x03FFFFFF].getD opc 0

end Sys2Proof.Spec

/-- R412, R420-R426, R428, R437. How a context takes a packet, what every Boster instruction does to its handler, its porter and the Forum, and where it is
a porter fault. -/
def Obligations.BosterInstructions : Prop :=
  Runs .bnop always (fun _ h s => (stepped h, s)) ∧
  (∀ i d v, computes i = some (d, v) → Runs i always fun _ h s => (wrote h d (v h), s)) ∧
  (∀ i c n, branches i = some (c, n) →
    Runs i (fun _ h _ => ¬ c h) (fun _ h s => (stepped h, s)) ∧
    Runs i (fun _ h _ => c h ∧ 0 ≤ (h.bpc : Int) + n ∧ (h.bpc : Int) + n < 1024) (fun _ h s => ({ h with bpc := ((h.bpc : Int) + n).toNat }, s)) ∧
    Faults i 2 (fun _ h _ => c h ∧ ((h.bpc : Int) + n < 0 ∨ 1024 ≤ (h.bpc : Int) + n))) ∧
  (∀ i (s : State) (h : Handler), isBoster i → (s.porter s.curPorter.1).handlers[s.curPorter.2]? = some h → 64 ≤ h.count →
    exec i s = .next (faulted s s.curPorter.1 s.curPorter.2 h 4)) ∧
  -- bmatch
  Faults .bmatch 5 (fun _ h _ => 2 ≤ h.pkt.kind ∨ h.group.kind ≠ 2) ∧
  Faults .bmatch 3 (fun _ h _ => h.pkt.kind < 2 ∧ h.group.kind = 2 ∧ h.sl = true) ∧
  Finishes .bmatch (fun p h s => h.pkt.kind < 2 ∧ h.group.kind = 2 ∧ h.sl = false ∧ key h ∈ (s.porter p).marks) (fun _ h s => s.toEndpoint h.pkt) ∧
  Runs .bmatch
    (fun p h s => h.pkt.kind < 2 ∧ h.group.kind = 2 ∧ h.sl = false ∧ key h ∉ (s.porter p).marks ∧ (slotAtPorter s p (key h)).isSome = true)
    (fun _ h s => (withSlot h, s)) ∧
  Runs .bmatch
    (fun p h s => h.pkt.kind < 2 ∧ h.group.kind = 2 ∧ h.sl = false ∧ key h ∉ (s.porter p).marks ∧ slotAtPorter s p (key h) = none ∧
      (s.porter p).slots.length < porterSlots p)
    (fun p h s => (withSlot h, s.modPorter p fun q => { q with slots := q.slots ++ [newSlot h] })) ∧
  (∀ x r, Runs .bmatch
    (fun p h s => h.pkt.kind < 2 ∧ h.group.kind = 2 ∧ h.sl = false ∧ key h ∉ (s.porter p).marks ∧ slotAtPorter s p (key h) = none ∧
      porterSlots p ≤ (s.porter p).slots.length ∧ (s.porter p).slots = x :: r ∧ s.slotHeld p (x.grp, x.ver, x.off) = false ∧
      s.forum.spills.length < 1024)
    (fun p h s => (withSlot h, (s.spill p x).modPorter p fun q => { q with slots := q.slots ++ [newSlot h] }))) ∧
  (∀ x r, Yields .bmatch
    (fun p h s => h.pkt.kind < 2 ∧ h.group.kind = 2 ∧ h.sl = false ∧ key h ∉ (s.porter p).marks ∧ slotAtPorter s p (key h) = none ∧
      porterSlots p ≤ (s.porter p).slots.length ∧ (s.porter p).slots = x :: r ∧
      (s.slotHeld p (x.grp, x.ver, x.off) = true ∨ 1024 ≤ s.forum.spills.length))) ∧
  -- bfold
  (∀ d, Faults (.bfold d) 5 (fun _ h _ => 2 ≤ h.pkt.kind) ∧
    Faults (.bfold d) 3 (fun p h s => h.pkt.kind < 2 ∧ (h.sl = false ∨ slotAtPorter s p (key h) = none)) ∧
    (∀ x, Runs (.bfold d)
      (fun p h s => h.pkt.kind < 2 ∧ h.sl = true ∧ slotAtPorter s p (key h) = some x ∧ h.pkt.member ∈ x.bmp)
      (fun p h s => (wrote h d (flag (x.nxt == h.group.nmem)), s.modPorter p fun q => { q with dup := min (q.dup + 1) 0xFFFF }))) ∧
    (∀ x, Runs (.bfold d)
      (fun p h s => h.pkt.kind < 2 ∧ h.sl = true ∧ slotAtPorter s p (key h) = some x ∧ h.pkt.member ∉ x.bmp ∧ x.raw.length < 16)
      (fun p h s =>
        let y := (buffered x h).run h.group 513
        (wrote h d (flag (y.nxt == h.group.nmem)), (poisonCounted s h).modPorter p fun q =>
          { q with slots := q.slots.map fun z => if (z.grp, z.ver, z.off) == key h then y else z }))) ∧
    (∀ x, Runs (.bfold d)
      (fun p h s => h.pkt.kind < 2 ∧ h.sl = true ∧ slotAtPorter s p (key h) = some x ∧ h.pkt.member ∉ x.bmp ∧ 16 ≤ x.raw.length ∧
        s.forum.spills.length < 1024)
      (fun p h s => ({ wrote h d 0 with sl := false }, (poisonCounted s h).spill p (buffered x h))))) ∧
  (∀ (g : Group) (x : Slot) (r : Raw) (n : Nat), x.nxt < g.nmem →
    (mAbs (g.members.getD x.nxt 0) = true → x.run g (n + 1) = Slot.run g n { x with nxt := x.nxt + 1 }) ∧
    (mAbs (g.members.getD x.nxt 0) = false → x.raw.find? (·.m == x.nxt) = some r →
      x.run g (n + 1) = Slot.run g n { x.fold g r with nxt := x.nxt + 1 } ∧
      ∀ e < min x.acc.length r.vals.length, (x.fold g r).acc[e]? = some (match x.acc.getD e none, r.vals.getD e none with
        | none, v => v
        | some a, none => some a
        | some a, some b => some (g.op a b)))) ∧
  -- results
  (∀ x, Runs .bfwdRes (holdsDone x) (fun p h s => (withoutSlot h, freed (s.writeResult p h.group x) p h))) ∧
  Faults .bfwdRes 3 notDone ∧
  (∀ x, Runs .bfwdUp (fun p h s => holdsDone x p h s ∧ h.group.pv = true) (fun p h s => (withoutSlot h, freed (s.sendPartial p h.group x) p h))) ∧
  Faults .bfwdUp 3 notDone ∧
  (∀ x, Faults .bfwdUp 5 (fun p h s => holdsDone x p h s ∧ h.group.pv = false)) ∧
  Runs .bfwdRaw (fun _ h _ => h.pkt.kind = 0 ∨ h.pkt.kind = 2)
    (fun p h s => (stepped h, s.porterWrite p (h.group.rbase + h.pkt.off) h.pkt.mask (packetBytes h.pkt) (h.pkt.poison &&& h.pkt.mask != 0))) ∧
  Faults .bfwdRaw 5 (fun _ h _ => h.pkt.kind ≠ 0 ∧ h.pkt.kind ≠ 2) ∧
  Runs .bmcast (fun _ h _ => h.pkt.kind = 0 ∧ h.group.kind = 1)
    (fun p h s =>
      let dests := h.group.members.filter fun m => !mAbs m
      let c := s.count h.pkt.grp h.pkt.ver
      let q := { h.pkt with kind := 2, srcPkg := s.forum.pkg.toNat, srcPort := p }
      (stepped h, dests.foldl (fun s m => s.sendPacket (mPkg m) q) (s.setCount { c with sent := c.sent + dests.length }))) ∧
  Faults .bmcast 5 (fun _ h _ => h.pkt.kind ≠ 0 ∨ h.group.kind ≠ 1) ∧
  Runs .bgath (fun _ h _ => h.pkt.kind = 0 ∧ h.group.kind = 3)
    (fun p h s => (stepped h, s.porterWrite p (h.group.rbase + h.pkt.member * h.group.gstr + h.pkt.off) h.pkt.mask (packetBytes h.pkt)
      (h.pkt.poison &&& h.pkt.mask != 0))) ∧
  Faults .bgath 5 (fun _ h _ => h.pkt.kind ≠ 0 ∨ h.group.kind ≠ 3) ∧
  (∀ d, Runs (.bcmpl d) always (fun p h s =>
    (wrote h d (BitVec.ofNat 64 h.group.nsec - BitVec.ofNat 64 ((s.count h.pkt.grp h.pkt.ver).n + 1)), countedSector s p h))) ∧
  Runs .bfree (fun _ h _ => h.sl = true) (fun p h s => (withoutSlot h, freed s p h)) ∧
  Faults .bfree 3 (fun _ h _ => h.sl = false) ∧
  Finishes .bend always (fun _ _ s => s) ∧
  (∀ w, Faults (.bosterReservedWord w) 1 always) ∧
  (∀ w : BitVec 32, let opc := (w.extractLsb' 26 6).toNat
    16 ≤ opc ∨ w &&& unusedOf opc ≠ 0 ∨ opc = 0xA ∧ w.extractLsb' 0 2 = 3 → decodeBoster w = .bosterReservedWord w) ∧
  -- taking a packet
  (∀ (s : State) (p : Nat), (s.porter p).running = false → s.startHandlers p = s) ∧
  ∀ (s : State) (p : Nat) (k : Packet), (s.porter p).running = true → (s.porter p).input = [k] →
    (s.porter p).handlers.length < porterContexts p →
    (∀ h ∈ (s.porter p).handlers, key h ≠ (k.grp, k.ver, k.off)) →
    s.startHandlers p = (s.porterGroup p k.grp).2.modPorter p fun q =>
      { q with input := [], handlers := q.handlers ++ [taken (s.porterGroup p k.grp).1 k] }

namespace Sys2Proof.Spec

open Sys2Proof Sys2Proof.Machine

-- hosts (R391-R400)

def regsOf (s : State) (m : BitVec 2) : MasterRegs := s.forum.masters.getD m.toNat MasterRegs.reset

/-- The event is of an attached external master. -/
def fromHost (s : State) (m : BitVec 2) : Prop := s.par.m = .ext m ∧ (regsOf s m).attached = true

def owns (s : State) (m : BitVec 2) : Prop := s.forum.ownState ≠ 0 ∧ s.forum.owner = m

/-- The Forum's ownership registers after a change (R396). -/
def owned (s : State) (m : BitVec 2) (st : Nat) (tgt : BitVec 2) (changes : Bool) : State :=
  { s with forum := { s.forum with
      owner := m, ownState := st, ownTgt := tgt, epoch := if changes then s.forum.epoch + 1 else s.forum.epoch } }

/-- A master's registers changed. -/
def withRegs (s : State) (m : BitVec 2) (f : MasterRegs → MasterRegs) : State :=
  { s with forum := { s.forum with masters := s.forum.masters.modify m.toNat f } }

/-- The link of a master is down: its parked waits are withdrawn, and no notify word is written (R399). -/
def unlinked (s : State) (m : BitVec 2) : State :=
  let r := withRegs s m fun q => { q with attached := false }
  { r with forum := { r.forum with crier := r.forum.crier.filter fun e => match e.2.2 with | .host k _ => k != m | .fibre .. => true } }

/-- The bytes of a CXL.mem access lie in regions of device memory that the non-secure world may reach (R395, R403). -/
def open_ (s : State) (pa n : Nat) : Prop :=
  (Machine.regionOf pa).isSome = true ∧ (Machine.regionOf (pa + (n - 1))).isSome = true ∧ s.worldRefuses false pa = false ∧
  s.worldRefuses false (pa + (n - 1)) = false

def answered (s : State) (m : BitVec 2) (a : Option (List Byte)) : State := withRegs s m fun q => { q with answer := a }

-- crier commands of a master (R396, R399)

/-- `CRSTS`: the number woken by the last wake, and the status. -/
def crsts (s : State) (m : BitVec 2) (woke : Option Nat) (st : Nat) : State :=
  withRegs s m fun q => { q with crsts := BitVec.ofNat 64 ((woke.getD (q.crsts.toNat / 2 ^ 32)) * 2 ^ 32 + st) }

/-- The fields of a command: context, count, operation. -/
def cmdCtx (s : State) : Nat := (s.par.v.extractLsb' 48 16).toNat
def cmdOp (s : State) : Nat := (s.par.v.extractLsb' 0 2).toNat
def wordAt (s : State) (m : BitVec 2) : Nat := (regsOf s m).crva.toNat

/-- A command that the table takes: the package is in service, the reserved bits are 0, and the key's context is not secure. -/
def served (s : State) : Prop :=
  4 ≤ s.forum.pkgstate ∧ s.par.v.extractLsb' 3 13 = 0 ∧ (s.context (cmdCtx s)).world = false

def waitBytes (s : State) : Nat := if s.par.v.getLsbD 2 then 8 else 4

/-- The parked waits of a master. -/
def waitsOf (s : State) (m : BitVec 2) : Nat := (s.forum.crier.filter fun e => match e.2.2 with | .host k _ => k == m | .fibre .. => false).length

/-- A wait on a word that translates to plain memory under the leaf `l`. -/
def mayWait (s : State) (m : BitVec 2) (l : Leaf) : Prop :=
  let va := wordAt s m
  fromHost s m ∧ cmdOp s = 1 ∧ served s ∧ s.lookWalk (cmdCtx s) false .read va = .ok l ∧ va % waitBytes s = 0 ∧ l.apt < 2 ∧
  s.poisoned (l.phys va) (waitBytes s) = false

def wordIs (s : State) (m : BitVec 2) (l : Leaf) : Prop :=
  Memory.read s.mem (l.phys (wordAt s m)) (waitBytes s) = (regsOf s m).crval.toNat % 2 ^ (8 * waitBytes s)

/-- The wait that a master parks. -/
def parked (s : State) (m : BitVec 2) : Nat × Nat × Crier := (cmdCtx s, wordAt s m / 8 % 2 ^ 53, .host m (regsOf s m).crnote)

-- the system window (R400)

/-- What the other end of a host-attach link may ask for (R394). -/
def hosted : HostOption → Prop
  | .pcie rate width => (rate = 128 ∨ rate = 64 ∨ rate = 32) ∧ (width = 16 ∨ width = 8)
  | .cxl major minor device => major = 3 ∧ minor = 2 ∧ device = 2
  | .cxlIo | .cxlCache | .cxlMem => True
  | .logicalDevices n => n = 2
  | .hdm ranges bi => ranges = 2 ∧ bi = true
  | .ide skid => skid = false
  | .bifurcation | .other => False

/-- `OWNSTS` (R396). -/
def ownWord (g : Forum) : Nat := 2 ^ 16 * g.epoch.toNat + 2 ^ 10 * g.ownTgt.toNat + 2 ^ 8 * g.owner.toNat + g.ownState

/-- How a register of a master's block other than `SWDATA` reads (R6, R395, R396, R400): one that may only be written reads 0, and a core of
the host complex has the registers of the window only. -/
def blockRegister (s : State) (m : Master) : MasterReg → BitVec 64
  | .swsel => (s.master m).swsel
  | .swsts => if (s.master m).swerr then 1 else 0
  | .swdata => (s.master m).swdata
  | r => match m, r with
    | .ext e, .portid => BitVec.ofNat 64 e.toNat
    | .ext _, .ownsts => BitVec.ofNat 64 (ownWord s.forum)
    | .ext _, .pkgstate => BitVec.ofNat 64 s.forum.pkgstate
    | .ext _, .crsts => (s.master m).crsts
    | _, _ => 0

def refusedAt (s : State) (m : Master) : State := s.modMaster m fun r => { r with swerr := true }

/-- The window's selector names a team register of a core. -/
def teamSel (x : Sel) (n : Nat) : Prop := x.forum = false ∧ x.item = false ∧ x.num = n ∧ ¬ ofDie n ∧ (n ≤ 0x08 ∨ 0x10 ≤ n ∧ n ≤ 0x1E)

end Sys2Proof.Spec

/-- R391-R400, R403, R405. Ownership, the links of the hosts, their accesses to device memory and to the crier table, and the system windows. -/
def Obligations.HostEvents : Prop :=
  -- ownership (R397)
  (∀ s m, fromHost s m → 3 ≤ s.forum.pkgstate →
    exec .ownClaim s = .next (if s.forum.ownState = 0 then owned s m 1 0 true else s) ∧
    (owns s m → s.par.tgt = m → exec .ownHandOver s = .next (owned s m 1 0 false)) ∧
    (owns s m → s.par.tgt ≠ m → (regsOf s s.par.tgt).attached = true → exec .ownHandOver s = .next (owned s m 2 s.par.tgt false)) ∧
    (owns s m → s.par.tgt ≠ m → (regsOf s s.par.tgt).attached = false → exec .ownHandOver s = .next s) ∧
    (¬ owns s m → exec .ownHandOver s = .next s) ∧
    (s.forum.ownState = 2 → s.forum.ownTgt = m → exec .ownAccept s = .next (owned s m 1 0 true)) ∧
    (¬ (s.forum.ownState = 2 ∧ s.forum.ownTgt = m) → exec .ownAccept s = .next s) ∧
    (owns s m → exec .ownRelease s = .next (owned s m 0 0 true)) ∧ (¬ owns s m → exec .ownRelease s = .next s)) ∧
  (∀ s i, i ∈ [Instr.ownClaim, .ownHandOver, .ownAccept, .ownRelease] → ((∀ m, ¬ fromHost s m) ∨ s.forum.pkgstate < 3) → exec i s = .next s) ∧
  (∀ s : State, s.forum.ownState ≠ 0 → exec .ownerLinkDown s = .next (owned (unlinked s s.forum.owner) s.forum.owner 0 0 true)) ∧
  (∀ s m, fromHost s m → ¬ owns s m → exec .masterLinkDown s = .next (unlinked s m)) ∧
  (∀ s m, s.par.m = .ext m →
    (3 ≤ s.forum.pkgstate → (∀ o ∈ s.par.asked, hosted o) → exec .masterLinkUp s = .next (withRegs s m fun q => { q with attached := true })) ∧
    (s.forum.pkgstate < 3 ∨ (∃ o ∈ s.par.asked, ¬ hosted o) → exec .masterLinkUp s = .next s)) ∧
  -- CXL.mem (R395, R398, R403, R405)
  (∀ s m, fromHost s m → s.par.bytes = none →
    (open_ s s.par.addr s.par.len → s.poisoned s.par.addr s.par.len = false →
      exec .cxlMemAccess s = .next (answered s m (some (Memory.bytes s.mem s.par.addr s.par.len)))) ∧
    (¬ open_ s s.par.addr s.par.len ∨ s.poisoned s.par.addr s.par.len = true → exec .cxlMemAccess s = .next (answered s m none))) ∧
  (∀ s m b, fromHost s m → s.par.bytes = some b →
    (owns s m → open_ s s.par.addr b.length → exec .cxlMemAccess s = .next (answered (s.homeWrite s.par.addr b.length (leNat b)) m (some []))) ∧
    (owns s m → ¬ open_ s s.par.addr b.length → exec .cxlMemAccess s = .next (answered s m none)) ∧
    (¬ owns s m → ∃ t, exec .cxlMemAccess s = .next t ∧ t.mem = s.mem ∧ (regsOf t m).answer = none ∧
      t.forum.refusedHost.toNat = min (s.forum.refusedHost.toNat + 1) 0xFFFFFFFF)) ∧
  -- crier commands (R399)
  (∀ s m l, mayWait s m l → ¬ wordIs s m l → exec .crierWait s = .next (crsts s m none 1)) ∧
  (∀ s m l, mayWait s m l → wordIs s m l → (tableFull s (cmdCtx s) (wordAt s m) ∨ 1024 ≤ waitsOf s m) → exec .crierWait s = .next (crsts s m none 2)) ∧
  (∀ s m l, mayWait s m l → wordIs s m l → ¬ tableFull s (cmdCtx s) (wordAt s m) → waitsOf s m < 1024 →
    exec .crierWait s = .next (crsts { s with forum := { s.forum with crier := s.forum.crier ++ [parked s m] } } m none 0)) ∧
  (∀ s m, fromHost s m → cmdOp s = 2 → served s → owns s m →
    let n := (s.par.v.extractLsb' 16 32).toNat
    exec .crierWake s = .next (crsts (State.wake s (cmdCtx s) (wordAt s m) n) m (some (woken s (cmdCtx s) (wordAt s m) n).length) 0)) ∧
  (∀ s m, fromHost s m → cmdOp s = 2 → served s → ¬ owns s m → exec .crierWake s = .next (crsts s m none 3)) ∧
  (∀ s m, fromHost s m → cmdOp s = 3 → served s →
    (parked s m ∈ s.forum.crier → exec .crierWithdraw s =
      .next (crsts ({ s with forum := { s.forum with crier := s.forum.crier.erase (parked s m) } }.notify m (regsOf s m).crnote 3) m none 0)) ∧
    (parked s m ∉ s.forum.crier → exec .crierWithdraw s = .next (crsts s m none 0))) ∧
  (∀ s m i n, (i, n) ∈ [(Instr.crierWait, 1), (.crierWake, 2), (.crierWithdraw, 3)] → fromHost s m → (cmdOp s = n ∨ cmdOp s = 0) →
    (¬ served s ∨ cmdOp s = 0) → exec i s = .next (crsts s m none 3)) ∧
  -- the system window (R400)
  (∀ s, s.windowOpen s.par.m = true →
    exec .registerWrite s = .next (match s.par.reg, s.par.m with
      | .swsel, m => s.modMaster m fun r => { r with swsel := s.par.v &&& 0x0001FFFFFFFFFF80 }
      | .crva, .ext m => withRegs s m fun r => { r with crva := s.par.v }
      | .crval, .ext m => withRegs s m fun r => { r with crval := s.par.v }
      | .crnote, .ext m => withRegs s m fun r => { r with crnote := s.par.v }
      | _, _ => s)) ∧
  (∀ s, s.windowOpen s.par.m = true → s.par.reg ≠ .swdata →
    exec .swdataRead s = .next (s.modMaster s.par.m fun r =>
      { r with swerr := r.swerr && s.par.reg != .swsts, answer := some (leBytes (blockRegister s s.par.m s.par.reg).toNat 8) })) ∧
  (∀ s t n, s.windowOpen s.par.m = true →
    let x := Sel.of (s.master s.par.m).swsel
    s.par.reg = .swdata → teamSel x n → s.team? x.core x.slot = some t → (s.par.m.isSecure = true ∨ t.world = false) →
    exec .swdataRead s = .next ((if n = 0x1E then s.modTeam x.core x.slot fun u => { u with dbg := { u.dbg with err := false } } else s).modMaster s.par.m
      fun r => { r with swdata := teamRegister s t n }) ∧
    ((∀ e, s.par.m = .ext e → owns s e) → n ≠ 0x06 → n ≠ 0x08 → n ≠ 0x1D →
      exec .swdataWrite s = .next ((s.modMaster s.par.m fun r => { r with swdata := s.par.v }).modTeam x.core x.slot (kept true n s.par.v)))) ∧
  (∀ s t n, s.windowOpen s.par.m = true →
    let x := Sel.of (s.master s.par.m).swsel
    s.par.reg = .swdata → teamSel x n → s.team? x.core x.slot = some t → s.par.m.isSecure = false → t.world = true →
    exec .swdataRead s = .next (s.modMaster s.par.m fun r => { r with swdata := 0, swerr := true }) ∧
    exec .swdataWrite s = .next (refusedAt (s.modMaster s.par.m fun r => { r with swdata := s.par.v }) s.par.m)) ∧
  ∀ s e, s.windowOpen s.par.m = true → s.par.m = .ext e → ¬ owns s e →
    exec .swdataWrite s = .next (refusedAt (s.modMaster s.par.m fun r => { r with swdata := s.par.v }) s.par.m)

namespace Sys2Proof.Spec

open Sys2Proof Sys2Proof.Machine

-- errors, bring-up and telemetry (R18, R323, R402-R409)

def withForum (s : State) (f : Forum → Forum) : State := { s with forum := f s.forum }

/-- One more uncorrectable error, saturating (R409). -/
def uncorrectable (s : State) : State := withForum s fun g => { g with uecnt := if g.uecnt = 0xFFFFFFFF then g.uecnt else g.uecnt + 1 }

/-- One more of the spare stock of a unit, or a report that it is exhausted (R18). -/
def spareTaken (s : State) (unit stock : Nat) : State :=
  let n := assocGet 0 s.forum.sparesUsed unit
  withForum s fun g => if n < stock then { g with sparesUsed := assocPut g.sparesUsed unit (n + 1) } else { g with reports := g.reports + 1 }

/-- A row is replaced where spare stock is left (R18). -/
def rowSpared (s : State) (unit : Nat) : State := spareTaken s (2 ^ 16 * 5 + unit) (Config.spareStock 5)

/-- A barrier router of a cluster carries a barrier in use (R315): the root, 16; the router of a block where a member lies in that block. -/
def carries (b : ClusBar) (router : Nat) : Bool :=
  b.own != none && (router == 16 || b.msk.any fun c => decide (c < 2 ^ 20 ∧ 4 * (c % 256 / 64) + c % 16 / 4 = router))

/-- What the peer of an external port may offer (R450). -/
def trains : PortOption → Prop
  | .speed gbps lanes => gbps = 1600 ∧ lanes = 8
  | .linkRetry | .creditFlow | .reliableUnordered | .senderCongestion | .aesGcm => True
  | .payload n => n ≤ 4096
  | .priorityFlow | .otherDelivery | .spraying | .otherCongestion | .semantic | .otherCipher | .other => False

/-- No fibre of the team is left, and no entry of it in the side log (R292). -/
def ended (s : State) (c slot : Nat) : Prop :=
  (∀ u, s.team? c slot = some u → u.fibres = []) ∧ ∀ e ∈ (s.core c).sidelog, e.slot ≠ slot

-- invalidation (R342-R345)

/-- The invalidation that `INVCMD` asks for (R343). -/
def asked (s : State) (d : Nat) (v : BitVec 64) : Inval :=
  ((s.die d).invaddr.toNat / 2 ^ 16 % 2 ^ 40 * 2 ^ 16, if v.getLsbD 40 then none else some ((v.extractLsb' 16 24).toNat + 1),
    if v.getLsbD 41 then none else some (v.extractLsb' 0 16).toNat)

/-- No access is in flight anywhere. -/
def quiet (s : State) : Prop :=
  s.forum.out = [] ∧ s.qops = [] ∧ ∀ c, let k := s.core c
    k.loads = [] ∧ k.atomics = [] ∧ k.sb = [] ∧ k.sidelog = [] ∧ k.l1 = [] ∧ ∀ e ∈ k.tlb, e.users = []

/-- Nothing on a core waits that a pre-emption request would let go: no command is queued, and no fibre waits. -/
def idle (s : State) (c : Nat) : Prop :=
  (s.core c).eqmx = [] ∧ (s.core c).eqcp = [] ∧ (s.core c).eqgx = [] ∧
  ∀ u ∈ (s.core c).teams, ∀ f ∈ u.fibres, f.wait = none ∧ f.region = none ∧ f.logWait = 0

-- debugging (R302)

def debugErr (s : State) (c slot : Nat) : State := s.modTeam c slot fun t => { t with dbg := { t.dbg with err := true } }

/-- The debugger of a team is attached, and the fibre is live. -/
def attachedTo (s : State) (c slot fid : Nat) (t : Team) (f : Fibre) : Prop :=
  s.team? c slot = some t ∧ t.dbg.ctl.getLsbD 0 = true ∧ t.fibre? fid = some f

/-- A command that may not act: no debugger is attached, or the fibre is not live. -/
def notAttached (s : State) (c slot fid : Nat) : Prop := ∀ t f, ¬ attachedTo s c slot fid t f

/-- A fibre that a debugger has halted or holds. -/
def stands (h : Fibre) : Prop := h.run = .halted ∨ ∃ w, h.run = .held w

/-- A release of `fid` lets a fibre go: that fibre, and the gangmates held with it. -/
def letGo (fid : Nat) (h : Fibre) : Prop := (stands h ∧ h.fid = fid) ∨ h.run = .held (some fid)

end Sys2Proof.Spec

/-- R18, R292-R296, R302, R323, R342-R345, R386, R402, R404-R409. Errors, service, bring-up, invalidation, pre-emption and debugging. That
a reset keeps memory is the model's choice (notes/assumptions/50.md). -/
def Obligations.ServiceEvents : Prop :=
  -- errors
  (∀ s : State, exec .correctableError s =
    .next (withForum (if s.par.flag = true then rowSpared s s.par.n else s) fun g => { g with softcnt := if g.softcnt = 0xFFFFFFFFFFFFFFFF then g.softcnt else g.softcnt + 1 })) ∧
  (∀ s : State, let sa := s.par.addr / 32 * 32
    let r := rowSpared (uncorrectable s) (4096 + (2 * (sa / 2 ^ 38) + sa / 2 ^ 12 % 2))
    s.par.flag = false → exec .uncorrectableMemoryError s = .next (if (sa < 2 ^ 41 ∨ 2 ^ 42 ≤ sa ∧ sa < 2 ^ 43) ∧ sa ∉ s.poison then
      { r with poison := s.poison ++ [sa] } else r)) ∧
  (∀ (s : State) (l : L1Sector), let sa := s.par.addr / 32 * 32
    let r := rowSpared (uncorrectable s) s.par.core
    s.par.flag = true → (s.core s.par.core).sector? sa = some l →
    exec .uncorrectableMemoryError s = .next (r.modCore s.par.core (·.modSector sa fun x => { x with poison := true }))) ∧
  (∀ (s : State) (t : Team), s.team? s.par.core s.par.slot = some t → t.terminating = false →
    ∃ e, exec .teamStateError s = .next e ∧ ended e s.par.core s.par.slot ∧ e.forum.uecnt = (uncorrectable s).forum.uecnt) ∧
  (∀ s : State, ∃ e, exec .hostCacheError s = .next e ∧ e.forum.uecnt = (uncorrectable s).forum.uecnt ∧
    e.forum.pkgstate = (match s.par.tag with
      | .tenant _ => s.forum.pkgstate
      | .operatingSystem => min s.forum.pkgstate 3
      | .secure => min s.forum.pkgstate 1) ∧
    ∀ c slot t, s.team? c slot = some t → t.terminating = false →
      (match s.par.tag with
        | .tenant n => t.ctx = n
        | .operatingSystem => (s.context t.ctx).world = false
        | .secure => True) →
      ∀ u, e.team? c slot = some u → u.fibres = []) ∧
  -- spare stock, regions, bring-up, telemetry
  (∀ s : State, exec .linkRetrain s = .next (spareTaken s (2 ^ 16 * 3 + (100 + s.par.die)) (Config.spareStock 3))) ∧
  (∀ s : State, exec .meshLinkFailure s =
    .next ((List.range 64).foldl (fun r n =>
        if ∃ k ∈ s.par.lost, carries (r.clusBar s.par.clus n) k = true then r.setClusBar s.par.clus n { r.clusBar s.par.clus n with loss := true } else r)
      (withForum s fun g => { g with meshFailed := g.meshFailed ++ [s.par.clus] }))) ∧
  (∀ s : State, s.launchBoundary = s.forum.meshFailed.foldl (fun r cl => spareTaken r (2 ^ 16 * 4 + cl) (Config.spareStock 4))
    (withForum s fun g => { g with meshFailed := [], boundary := true })) ∧
  (∀ s : State, exec .stackChannelFailure s = .next (spareTaken s (2 ^ 16 * 2 + s.par.n) (Config.spareStock 2))) ∧
  (∀ s : State, let r := (s.par.region, s.par.n)
    s.par.n < 64 → s.regionClearing r = true → Memory.wf s.mem = true → ∃ e, exec .regionClearingComplete s = .next e ∧ e.regionClearing r = false ∧
      (e.regionSecure r = !s.regionSecure r) ∧
      ∀ a, Memory.get e.mem a = if Machine.regionOf a = some r then 0 else Memory.get s.mem a) ∧
  (∀ s : State, s.regionClearing (s.par.region, s.par.n) = false → exec .regionClearingComplete s = .next s) ∧
  (∀ s : State, exec .packageReset s = .next
    { State.reset with mem := s.mem, poison := s.poison, agenda := s.agenda, turn := s.turn, uid := s.uid, freeCount := s.freeCount }) ∧
  (∀ s : State, ∃ e, exec .bootStageAdvance s = .next e ∧
    e.noWork = (withForum s fun g => { g with pkgstate := min (g.pkgstate + 1) 4 }).noWork) ∧
  (∀ s : State, exec .powerSample s = .next (withForum s fun g =>
    { g with watts := s.par.watts, temps := s.par.temps, thrcyc := BitVec.ofNat 64 (min (g.thrcyc.toNat + s.par.n) (2 ^ 64 - 1)) })) ∧
  (∀ s : State,
    (s.par.n < 36 → (∀ o ∈ s.par.offered, trains o) → exec .externalPortTraining s =
      .next (withForum (if s.par.flag = true then spareTaken s (2 ^ 16 * 3 + s.par.n) (Config.spareStock 3) else s)
        fun g => { g with portsUp := g.portsUp.set s.par.n true })) ∧
    ((∃ o ∈ s.par.offered, ¬ trains o) → exec .externalPortTraining s = .next s)) ∧
  -- invalidation
  (∀ s : State, let d := s.par.die
    d < s.dies.length →
    ∃ e, exec .invalidateCommand s = .next e ∧ e.mem = s.mem ∧ e.invPending = s.invPending ++ [(d, asked s d s.par.v)] ∧
      e.die d = { s.die d with invIssued := (s.die d).invIssued + 1 } ∧ (∀ k, k ≠ d → e.die k = s.die k) ∧
      ∀ c, ∀ x ∈ (e.core c).tlb, (asked s d s.par.v).meets x = true → x.revoking = true ∧ x.users ≠ []) ∧
  (∀ (s : State) (d : Nat) (i : Inval) (r : List (Nat × Inval)), s.invPending = (d, i) :: r → d < s.dies.length → quiet s →
    ∃ e, exec .invalidationComplete s = .next e ∧ e.mem = s.mem ∧ e.invPending = r ∧ (e.die d).invDone = (s.die d).invDone + 1 ∧
      (∀ k, k ≠ d → (e.die k).invDone = (s.die k).invDone) ∧ ∀ c, ∀ x ∈ (e.core c).tlb, i.meets x = false) ∧
  (∀ s : State, s.invPending = [] → exec .invalidationComplete s = .next s) ∧
  -- termination and pre-emption
  (∀ (s : State) (t : Team), s.team? s.par.core s.par.slot = some t → t.terminating = false →
    ∃ e, exec .teamTerminate s = .next e ∧ ended e s.par.core s.par.slot) ∧
  (∀ (s : State) (t : Team), let c := s.par.core
    s.team? c s.par.slot = some t → t.preempt = none → t.terminating = false → t.fibres ≠ [] → idle s c →
    State.becomes (exec .preemptRequest s) c (s.modTeam c s.par.slot fun u => { u with preempt := some (s.now c, false) })) ∧
  (∀ (s : State) (t : Team), s.team? s.par.core s.par.slot = some t → t.preempt ≠ none → exec .preemptRequest s = .next s) ∧
  (∀ (s : State) (t : Team) (f : Fibre) (t0 : Nat) (b : Bool), let c := s.par.core
    s.team? c s.par.slot = some t → t.fibre? s.par.fid = some f → t.preempt = some (t0, b) → f.run = .running → f.wait = none → f.logWait = 0 →
    (t0 + 20000 ≤ s.now c → State.becomes (exec .forcedStop s) c
      ((s.settle c s.par.slot (· == s.par.fid)).modFibre c s.par.slot s.par.fid fun g =>
        { g with run := .point none, rep := none, ready := 0, bond := 0 })) ∧
    (s.now c < t0 + 20000 → State.becomes (exec .forcedStop s) c s)) ∧
  (∀ (s : State) (t : Team) (t0 : Nat), let c := s.par.core
    s.team? c s.par.slot = some t → t.slot = s.par.slot → t.preempt = some (t0, false) → t.fibres ≠ [] → s.saveReady c t = true →
    ∃ e x, exec .contextSave s = .next e ∧ e.team? c s.par.slot = none ∧ e.mem = s.mem ∧ e.saved = s.saved ++ [x] ∧ x.core = c ∧
      x.inMemory = false ∧ x.team.ctx = t.ctx ∧ x.team.launch = t.launch ∧ field x.image 0 4 = 0x4E4F4D43 ∧ field x.image 4 2 = 1 ∧
      field x.image 0x00C 4 = t.fibres.length % 2 ^ 32) ∧
  (∀ (s : State) (x : SavedTeam), s.saved.find? (fun y => y.id == s.par.n && !y.inMemory) = some x →
    (s.restoreFits s.par.core x x.image = false → exec .contextRestore s = .next s) ∧
    (s.restoreFits s.par.core x x.image = true → ∃ e slot u, exec .contextRestore s = .next e ∧ (∀ y ∈ e.saved, y.id ≠ x.id) ∧
      e.team? s.par.core slot = some u ∧ u.ctx = x.team.ctx ∧ u.launch = x.team.launch ∧ u.fibres.length = field x.image 0x00C 4)) ∧
  -- debugging
  (∀ (s : State) (t : Team) (f : Fibre), let c := s.par.core
    attachedTo s c s.par.slot s.par.fid t f → (f.run = .running ∨ ∃ w, f.run = .held w) →
    ∃ e g, exec .dbgHalt s = .next e ∧ e.fibre? c s.par.slot s.par.fid = some g ∧ g.run = .halted ∧ g.pc = f.pc ∧ g.regs = f.settle.regs ∧
      g.wait = f.wait ∧ g.inh = f.inh) ∧
  (∀ (s : State) (t : Team) (f : Fibre), let c := s.par.core
    attachedTo s c s.par.slot s.par.fid t f → f.run = .halted →
    ∃ e g, exec .dbgStep s = .next e ∧ e.mem = s.mem ∧ e.fibre? c s.par.slot s.par.fid = some g ∧ g.run = .running ∧ g.stepping = true ∧ g.pc = f.pc ∧
      g.regs = f.regs) ∧
  (∀ (s : State) (t : Team) (f : Fibre), let c := s.par.core
    attachedTo s c s.par.slot s.par.fid t f → f.run ≠ .halted → exec .dbgStep s = .next (debugErr s c s.par.slot)) ∧
  (∀ (s : State) (t : Team) (f h : Fibre), let c := s.par.core
    attachedTo s c s.par.slot s.par.fid t f → t.preempt = none → h ∈ t.fibres → (t.fibres.map (·.fid)).Nodup →
    ∃ e g, exec .dbgRelease s = .next e ∧ e.mem = s.mem ∧ e.fibre? c s.par.slot h.fid = some g ∧ g.pc = h.pc ∧ g.regs = h.regs ∧
      (letGo s.par.fid h → g.run = .running) ∧ (¬ letGo s.par.fid h → g.run = h.run)) ∧
  (∀ (s : State) (t : Team) (h : Fibre), let c := s.par.core
    s.team? c s.par.slot = some t → t.dbg.ctl.getLsbD 0 = true → t.preempt = none → h ∈ t.fibres → (t.fibres.map (·.fid)).Nodup →
    ∃ e g, exec .dbgReleaseAll s = .next e ∧ e.mem = s.mem ∧ e.fibre? c s.par.slot h.fid = some g ∧ g.pc = h.pc ∧ g.regs = h.regs ∧
      (stands h → g.run = .running) ∧ (¬ stands h → g.run = h.run)) ∧
  (∀ (s : State) (i : Instr), i ∈ [Instr.dbgHalt, .dbgStep, .dbgRelease] → notAttached s s.par.core s.par.slot s.par.fid →
    exec i s = .next (debugErr s s.par.core s.par.slot)) ∧
  ∀ (s : State) (t : Team), s.team? s.par.core s.par.slot = some t → t.dbg.ctl.getLsbD 0 = false →
    exec .dbgReleaseAll s = .next (debugErr s s.par.core s.par.slot)

namespace Sys2Proof.Spec

open Sys2Proof Sys2Proof.Machine

-- the Forum's registers, packets, slots and spills (R416, R418, R426, R427, R429, R430, R437)

/-- The masters whose writes of the Forum's registers are accepted: the secure master, and the owner (R416). -/
def trusted (s : State) (m : Master) : Prop := m.isSecure = true ∨ ∃ h, m = .ext h ∧ owns s h ∧ (regsOf s h).attached = true

/-- A porter of the secure world accepts writes from the secure master only (R429). -/
def mayLoad (s : State) (m : Master) (p : Nat) : Prop :=
  p < 51 ∧ (s.forum.wmport.getLsbD p = false → trusted s m) ∧ (s.forum.wmport.getLsbD p = true → m.isSecure = true)

/-- The events that are writes of the registers of the table of R416, R441, R457 and R465. -/
def forumWrites : List Instr := [.gtinvWrite, .pbcfgReserve, .pbcfgFree, .cadd, .cgload, .cgrunStart, .cgrunCancel, .elcmd, .excWrite, .pbfwdWrite]

/-- `GTINV`'s group; none for every group. -/
def invalidated (v : BitVec 64) : Option Nat := if v.getLsbD 12 then none else some (v.extractLsb' 0 12).toNat

def covers (w : Option Nat) (grp : Nat) : Prop := w = none ∨ w = some grp

/-- The counts of a group and version are kept with one more answer (R437). -/
def acknowledged (c : CmplCount) (ok : Bool) : CmplCount :=
  if ok then { c with accepted := c.accepted + 1 } else { c with refused := c.refused + 1 }

/-- A packet stamped as it is accepted (R418). -/
def stamped (g : Group) (p : Packet) : Packet :=
  if p.kind = 0 then { p with ver := g.ver, member := (g.memberOf p.srcPkg p.srcPort).getD 0 } else p

/-- The packets that wait without one of them. -/
def without (s : State) (id : Nat) : State := withForum s fun g => { g with packets := g.packets.filter fun e => e.1 != id }

-- chunk graphs (R441-R445)

def graphAt (s : State) (slot : Nat) : Option Graph := s.forum.graphs.find? fun g => g.slot == slot

def withGraph (s : State) (slot : Nat) (f : Graph → Graph) : State :=
  withForum s fun o => { o with graphs := o.graphs.map fun g => if g.slot == slot then f g else g }

def withReplay (s : State) (slot : Nat) (f : Replay → Replay) : State := withGraph s slot fun g => { g with replay := g.replay.map f }

/-- A term holds when its counter is at or above its threshold (R443). -/
def reaches (counters : List Nat) (t : BitVec 64) : Bool := decide ((t.extractLsb' 32 32).toNat ≤ counters.getD (t.extractLsb' 0 3).toNat 0)

/-- The predicate of a chunk (R442): the `FORM` combination of its non-empty pairs. -/
def fires (c : Chunk) (counters : List Nat) : Bool :=
  let on (l : List (BitVec 64)) : List (BitVec 64) := l.filter fun t => t.getLsbD 3
  let pairs := [on (c.terms.take 2), on (c.terms.drop 2)].filter fun l => !l.isEmpty
  if c.form.testBit 0 then pairs.all fun l => l.any (reaches counters) else pairs.any fun l => l.all (reaches counters)

/-- A counter advances (R443): 32 bits, saturating; then chunks fire. -/
def advanced (s : State) (slot cnt inc : Nat) : State :=
  (withGraph s slot fun g => { g with counters := g.counters.modify cnt fun n => if n + inc ≤ 0xFFFFFFFF then n + inc else 0xFFFFFFFF }).fireChunks slot

/-- A chunk has completed (R444): its `DONE` advance, and the end of the replay, if it is one. -/
def chunkDone (s : State) (slot n : Nat) (c : Chunk) : State :=
  let s := withReplay s slot fun r => { r with completed := r.completed ++ [n] }
  (if c.done.testBit 3 then advanced s slot (c.done % 8) 1 else s).checkReplay slot

/-- The fields of a graph image (R442). -/
def imageAddr (s : State) : Nat := (s.par.v.extractLsb' 6 46).toNat * 64
def imageSlot (s : State) : Nat := (s.par.v.extractLsb' 0 6).toNat
def imageChunks (s : State) : Nat := Memory.read s.mem (imageAddr s) 2
def imageCtx (s : State) : Nat := Memory.read s.mem (imageAddr s + 2) 2
def chunkOf (s : State) (i : Nat) : Chunk := Chunk.parse (Memory.bytes s.mem (imageAddr s + 64 + 64 * i) 64)

/-- An image that `CGLOAD` takes (R442). -/
def loadable (s : State) : Prop :=
  let pa := imageAddr s
  1 ≤ imageChunks s ∧ imageChunks s ≤ 256 ∧ Memory.read s.mem (pa + 4) 4 = 0 ∧ (∀ i < 48, Memory.get s.mem (pa + 16 + i) = 0) ∧
  (∀ i < imageChunks s, (chunkOf s i).malformed = false) ∧ s.pinnedPhys (imageCtx s) pa (64 + 64 * imageChunks s) = true ∧
  s.worldRefuses (s.context (imageCtx s)).world pa = false ∧
  ((s.forum.graphs.filter fun g => g.slot != imageSlot s).map fun g => g.chunks.length).sum + imageChunks s ≤ 4096 ∧
  ∀ g, graphAt s (imageSlot s) = some g → g.replay = none

/-- The slot is empty (R442). -/
def emptied (s : State) (slot : Nat) : State := withForum s fun f => { f with graphs := f.graphs.filter fun g => g.slot != slot }

/-- The status word of a replay (R445): chunks completed, the first failed chunk, the end, and the code of the failure. -/
def replayStatus (r : Replay) (how : Nat) : Nat :=
  let f := r.failed.head?.getD (0xFFFF, 0)
  r.completed.length + 2 ^ 16 * f.1 + 2 ^ 32 * how + 2 ^ 40 * f.2

-- completion words (R435, R436)

/-- `CK` of a completion word, and its bits that are not named. -/
def wordKind (w : BitVec 64) : Nat := (w.extractLsb' 60 4).toNat

def wordUnnamed (w : BitVec 64) : BitVec 64 :=
  w &&& [0x0FFFFFFFFFFFFFFF, 0x0FF0000000000FF0, 0x0FFFFFFFFFFFF800, 0x0FFFFFFFFFFFFF00, 0x0FE0000000000000, 0x0FFFFFFFFFFFFE00].getD (wordKind w) 0

/-- A dropped update is reported. -/
def dropped (s : State) : State := withForum s fun f => { f with reports := f.reports + 1 }

/-- A well-laid-out word of a kind. -/
def aimed (w : BitVec 64) (k : Nat) : Prop := wordKind w = k ∧ wordUnnamed w = 0

/-- The frame of a team of `CK` 1. -/
def frames (w : BitVec 64) (ctx : Nat) (t : Team) : Bool := t.frbase / 2 ^ 12 % 2 ^ 40 == (w.extractLsb' 12 40).toNat && t.ctx == ctx

-- package barriers (R438) and agreement rounds (R446, R447)

/-- The fields of `PBCFG`. -/
def barNum (s : State) : Nat := (s.par.v.extractLsb' 0 8).toNat
def barExp (s : State) : Nat := (s.par.v.extractLsb' 32 16).toNat
def barOwn (s : State) : Nat := (s.par.v.extractLsb' 48 16).toNat

/-- The descriptor of `ELCMD`. -/
def descAddr (s : State) : Nat := (s.par.v.extractLsb' 6 46).toNat * 64
def descEntries (s : State) : Nat := Memory.read s.mem (descAddr s) 2

def proposable (s : State) : Prop :=
  let pa := descAddr s
  s.forum.round = none ∧ (pa < 2 ^ 41 ∨ 2 ^ 42 ≤ pa ∧ pa < 2 ^ 43) ∧ 1 ≤ descEntries s ∧ descEntries s ≤ 64 ∧ Memory.read s.mem (pa + 4) 4 ≠ 0 ∧
  (∀ i < 40, Memory.get s.mem (pa + 0x18 + i) = 0) ∧ ∀ i < descEntries s, (roundEntry s pa i).2 = true

/-- The round that a descriptor proposes. -/
def proposed (s : State) : Round :=
  let pa := descAddr s
  ⟨pa, Memory.read s.mem (pa + 2) 2, Memory.read s.mem (pa + 4) 4, BitVec.ofNat 64 (Memory.read s.mem (pa + 8) 8),
    (List.range (descEntries s)).map fun i => (roundEntry s pa i).1, none⟩

def answeredAs (e : RoundEnt) : Option Nat := match e.st with | .ready n | .committed n => some n | _ => none

/-- The packages that have not answered. -/
def silent (r : Round) : List Nat := ((r.ents.filter fun e => match e.st with | .ready _ | .refused => false | _ => true).map (·.pkg)).eraseDups

/-- The leader's decision (R447): silent participants are dropped, and their members absent elsewhere. -/
def decision (r : Round) : List RoundEnt :=
  r.ents.map fun e => if e.pkg ∈ silent r then { e with st := RoundSt.dropped } else
    { e with members := e.members.map fun m => if mPkg m ∈ silent r then m ||| 0x20000#32 else m }

def isRefused : RoundSt → Prop
  | .refused => True
  | _ => False

def isDropped : RoundSt → Prop
  | .dropped => True
  | _ => False

/-- The end of a round (R447): the status word, and the completion update. -/
def closed (s : State) (r : Round) (committed : Bool) : State :=
  let dropped := (((r.ents.filter fun e => match e.st with | .dropped => true | _ => false).map (·.pkg)).eraseDups).length
  let aborted := (r.ents.map fun e => (answeredAs e).getD 0).sum
  let w := (if committed then 1 else 2) + 2 ^ 8 * dropped + 2 ^ 16 * (aborted % 2 ^ 16)
  let s := s.homeWrite (r.addr + 0x10) 8 w
  (withForum s fun f => { f with round := none }).completion r.cmpl (match r.ents with | e :: _ => (s.readGroup e.grp).ctx | [] => 0) 0
    (!committed || decide (0 < dropped))

/-- The entry of a group as a commit writes it (R447). -/
def committedEntry (s e : State) (grp newver : Nat) (members : List (BitVec 32)) : Prop :=
  let h := s.groupBase + 64 * grp
  let a := s.groupBase + 0x40000 + 0x800 * grp
  Memory.read e.mem h 2 = members.length ∧ Memory.read e.mem (h + 4) 2 = newver ∧
  (∀ (i : Nat) (m : BitVec 32), members[i]? = some m → Memory.read e.mem (a + 4 * i) 4 = m.toNat) ∧
  ∀ x, ¬ (h ≤ x ∧ x < h + 2) → ¬ (h + 4 ≤ x ∧ x < h + 6) → ¬ (a ≤ x ∧ x < a + 4 * members.length) → Memory.get e.mem x = Memory.get s.mem x

end Sys2Proof.Spec

/-- R416, R418, R426, R427, R429, R430, R435-R438, R441-R447. The Forum's registers, packets at their porters, slots that time out and
their endpoint, package barriers, completion words, chunk graphs and agreement rounds. -/
def Obligations.CollectiveEvents : Prop :=
  -- the registers
  (∀ (s : State) (i : Instr), i ∈ forumWrites → ¬ trusted s s.par.m → exec i s = .next (refusedAt s s.par.m)) ∧
  (∀ (s : State) (i : Instr), i ∈ [Instr.pctlRunStart, .pctlRunStop, .psdataWrite] → ¬ mayLoad s s.par.m s.par.porter →
    exec i s = .next (refusedAt s s.par.m)) ∧
  (∀ s : State, let p := s.par.porter
    mayLoad s s.par.m p →
    exec .pctlRunStop s = .next (s.modPorter p fun q => { q with running := false }) ∧
    exec .pctlRunStart s = .next ((s.modPorter p fun q => { q with
      running := true, hlt := false, held := [], err := if q.hlt then 0 else q.err,
      drop := if q.hlt then min (q.drop + q.held.length) 0xFFFF else q.drop }).startHandlers p) ∧
    let moved := s.modPorter p fun q => { q with psaddr := (q.psaddr + 1) % 1024 }
    ((s.porter p).running = true ∨ (s.porter p).handlers ≠ [] → exec .psdataWrite s = .next (refusedAt moved s.par.m)) ∧
    ((s.porter p).running = false → (s.porter p).handlers = [] →
      exec .psdataWrite s = .next (moved.modPorter p fun q =>
        { q with words := sparsePut 0 q.words ((s.porter p).psaddr % 1024) (s.par.v.extractLsb' 0 32) }))) ∧
  (∀ s : State, trusted s s.par.m → ∃ e, exec .gtinvWrite s = .next e ∧ e.mem = s.mem ∧ e.forum.gtIssued = s.forum.gtIssued + 1 ∧
    e.forum.gtPending = s.forum.gtPending ++ [invalidated s.par.v] ∧
    (∀ q ∈ e.forum.porters, ∀ x ∈ q.groups, ¬ covers (invalidated s.par.v) x.1) ∧
    ∀ q ∈ e.forum.porters, ∀ h ∈ q.handlers, covers (invalidated s.par.v) h.pkt.grp → h.stale = true) ∧
  (∀ (s : State) (w : Option Nat) (r : List (Option Nat)), s.forum.gtPending = w :: r →
    ((∀ q ∈ s.forum.porters, ∀ h ∈ q.handlers, h.stale = true → ¬ covers w h.pkt.grp) →
      exec .gtInvalidationComplete s = .next (withForum s fun f => { f with gtPending := r, gtDone := f.gtDone + 1 })) ∧
    ((∃ q ∈ s.forum.porters, ∃ h ∈ q.handlers, h.stale = true ∧ covers w h.pkt.grp) →
      ∃ e, exec .gtInvalidationComplete s = .next e ∧ e.noWork = s.noWork)) ∧
  -- packets
  (∀ (s : State) (p : Packet), s.par.packet = some p →
    ∃ e, exec .packetArrival s = .next e ∧
      e.noWork = ({ withForum s fun g => { g with packets := g.packets ++ [(s.uid, p)] } with uid := s.uid + 1 } : State).noWork) ∧
  (∀ (s : State) (id : Nat) (p : Packet), s.par.packet = none → s.forum.packets.find? (fun e => e.1 == s.par.id) = some (id, p) →
    let home := min (s.readGroup p.grp).home 50
    let g := ((without s id).porterGroup home p.grp).1
    let t := ((without s id).porterGroup home p.grp).2
    let ready := s.packetReady ((s.forum.packets.takeWhile fun e => e.1 != id).map (·.2)) p
    (ready = false → ∃ e, exec .packetArrival s = .next e ∧ e.noWork = s.noWork) ∧
    (ready = true → g.refuses (s.forum.wmport.getLsbD home) p = true →
      exec .packetArrival s = .next ((t.modPorter home fun q => { q with refused := min (q.refused + 1) 0xFFFF }).packetDecided id p false)) ∧
    (ready = true → g.refuses (s.forum.wmport.getLsbD home) p = false →
      exec .packetArrival s =
        .next (((t.modPorter home fun q => { q with input := q.input ++ [stamped g p] }).startHandlers home).packetDecided id p true))) ∧
  (∀ (s : State) (id : Nat) (p : Packet) (c : Nat) (e : SBEntry) (ok : Bool), p.kind ≠ 2 →
    (s.coreNums.filterMap fun c => ((s.core c).sb.find? (·.id == id)).map (c, ·)).head? = some (c, e) →
    (ok = false → s.packetDecided id p ok = s.refuseEntry c e 12) ∧
    (ok = true → e.call = none → s.packetDecided id p ok = (s.dropEntry c e.id).ackOwners (e.kind.fids.map fun fid => ownerOf c e.slot fid))) ∧
  (∀ s : State, let c := s.count s.par.grp s.par.ver
    let c' := acknowledged c s.par.flag
    (c.sent ≤ c.accepted + c.refused → exec .deliveryAck s = .next s) ∧
    (c.accepted + c.refused < c.sent →
      (c.due = none → exec .deliveryAck s = .next (s.setCount c')) ∧
      ∀ g, c.due = some g →
        (c.accepted + c.refused + 1 < c.sent → exec .deliveryAck s = .next (s.setCount c')) ∧
        (c.accepted + c.refused + 1 = c.sent → exec .deliveryAck s = .next (s.completeGroup (min g.home 50) g c')))) ∧
  -- slots and spills
  (∀ (s : State) (x : Slot), let p := s.par.porter
    let k := (s.par.grp, s.par.ver, s.par.off)
    let r := s.porterGroup p x.grp
    slotAtPorter s p k = some x → r.1.tmo ≠ 0 →
    (r.2.slotHeld p k = false → s.forum.spills.length < 1024 → exec .slotTimeout s = .next (r.2.spill p x)) ∧
    (r.2.slotHeld p k = true ∨ 1024 ≤ s.forum.spills.length → ∃ e, exec .slotTimeout s = .next e ∧ e.noWork = r.2.noWork)) ∧
  (∀ s : State, slotAtPorter s s.par.porter (s.par.grp, s.par.ver, s.par.off) = none → exec .slotTimeout s = .next s) ∧
  (∀ (s : State) (p : Nat) (x : Slot), ∃ e, s.spill p x = e ∧ e.mem = s.mem ∧ x ∈ e.forum.spills ∧
    (p < s.forum.porters.length → (x.grp, x.ver, x.off) ∈ (e.porter p).marks ∧ slotAtPorter e p (x.grp, x.ver, x.off) = none ∧
      (e.porter p).spill = min ((s.porter p).spill + 1) 0xFFFF)) ∧
  (∀ (s : State) (id : Nat) (p : Packet), s.forum.packets.find? (fun e => e.1 == s.par.id) = some (id, p) → p.kind ≠ 3 →
    s.forum.spills.find? (fun x => (x.grp, x.ver, x.off) == (p.grp, p.ver, p.off)) = none →
    let g := ((without s id).porterGroup 50 p.grp).1
    exec .spillEndpointFold s = .next (((without s id).porterGroup 50 p.grp).2.modPorter (min g.home 50) fun q => { q with dup := min (q.dup + 1) 0xFFFF })) ∧
  (∀ (s : State) (id : Nat) (p : Packet) (x : Slot), s.forum.packets.find? (fun e => e.1 == s.par.id) = some (id, p) →
    s.forum.spills.find? (fun x => (x.grp, x.ver, x.off) == (p.grp, p.ver, p.off)) = some x →
    let g := ((without s id).porterGroup 50 p.grp).1
    let t := ((without s id).porterGroup 50 p.grp).2
    (p.kind ≠ 3 → p.member ∈ x.bmp →
      exec .spillEndpointFold s = .next (t.modPorter (min g.home 50) fun q => { q with dup := min (q.dup + 1) 0xFFFF })) ∧
    (p.kind = 3 → (x.run g 513).nxt = g.nmem → exec .spillEndpointFold s = .next (t.endSpill g (x.run g 513))) ∧
    (p.kind ≠ 3 → p.member ∉ x.bmp →
      let y := Slot.run g 513 { x with bmp := x.bmp ++ [p.member], raw := x.raw ++ [packetRaw g p] }
      let t := if (packetRaw g p).poison.any (fun b => b) then uncorrectable t else t
      (y.nxt = g.nmem → exec .spillEndpointFold s = .next (t.endSpill g y)) ∧
      (y.nxt ≠ g.nmem → exec .spillEndpointFold s = .next (withForum t fun f =>
        { f with spills := f.spills.map fun z => if (z.grp, z.ver, z.off) == (y.grp, y.ver, y.off) then y else z })))) ∧
  -- package barriers
  (∀ s : State, let b := s.pkgBar (barNum s)
    trusted s s.par.m →
    (barExp s = 0 → exec .pbcfgReserve s = .next (refusedAt s s.par.m)) ∧
    (∀ o, b.own = some o → o ≠ barOwn s → exec .pbcfgReserve s = .next (refusedAt s s.par.m)) ∧
    (barExp s ≠ 0 → b.own = none →
      exec .pbcfgReserve s = .next (s.setPkgBar (barNum s) ⟨0, 0, barExp s, none, 0, false, some (barOwn s), none, false, []⟩)) ∧
    (barExp s ≠ 0 → b.own = some (barOwn s) → exec .pbcfgReserve s = .next (s.setPkgBar (barNum s) { b with nextExp := some (barExp s) })) ∧
    exec .pbcfgFree s = .next (s.setPkgBar (barNum s) PkgBar.reset)) ∧
  -- chunk graphs
  (∀ s : State, let slot := (s.par.v.extractLsb' 0 6).toNat
    trusted s s.par.m →
    (graphAt s slot = none → exec .cadd s = .next (refusedAt s s.par.m)) ∧
    (graphAt s slot ≠ none → exec .cadd s = .next (advanced s slot (s.par.v.extractLsb' 6 3).toNat (s.par.v.extractLsb' 32 32).toNat))) ∧
  (∀ (s : State) (slot : Nat) (g : Graph), graphAt s slot = some g →
    (g.replay = none → s.fireChunks slot = s) ∧
    ∀ r, g.replay = some r →
      (r.cancelled = true ∨ r.failed ≠ [] → s.fireChunks slot = s) ∧
      (r.cancelled = false → r.failed = [] → (s.fireChunks slot).noWork = (withGraph s slot fun h => { h with replay := some { r with
        fired := r.fired ++ (List.range g.chunks.length).filter fun i =>
          !r.fired.contains i && (g.chunks[i]?.any fun c => fires c g.counters) } }).noWork)) ∧
  (∀ s : State, trusted s s.par.m →
    (loadable s → exec .cgload s = .next (withForum (emptied s (imageSlot s)) fun f => { f with graphs := f.graphs ++
      [⟨imageSlot s, imageCtx s, BitVec.ofNat 64 (Memory.read s.mem (imageAddr s + 8) 8), (List.range (imageChunks s)).map (chunkOf s),
        List.replicate 8 0, none⟩] })) ∧
    (¬ loadable s → exec .cgload s = .next (refusedAt (emptied s (imageSlot s)) s.par.m))) ∧
  (∀ (s : State) (g : Graph) (ps qs : List (Nat × Nat)), let slot := (s.par.v.extractLsb' 0 6).toNat
    let va := (s.par.v.extractLsb' 6 50).toNat * 64
    trusted s s.par.m → graphAt s slot = some g → g.replay = none → s.chunkPieces g.ctx .read va 128 = .ok ps → s.chunkPieces g.ctx .write va 128 = .ok qs →
    exec .cgrunStart s = .next ((withGraph s slot fun h => { h with
      counters := List.replicate 8 0,
      replay := some ⟨va, (List.range 8).map fun i => field (s.piecesBytes ps) (8 * i) 8, [], [], [], [], false⟩ }).fireChunks slot)) ∧
  (∀ (s : State) (g : Graph) (e : Nat), let slot := (s.par.v.extractLsb' 0 6).toNat
    let va := (s.par.v.extractLsb' 6 50).toNat * 64
    trusted s s.par.m → graphAt s slot = some g → g.replay = none →
    s.chunkPieces g.ctx .read va 128 = .error e ∨ s.chunkPieces g.ctx .write va 128 = .error e →
    exec .cgrunStart s = .next (refusedAt s s.par.m)) ∧
  (∀ s : State, let slot := (s.par.v.extractLsb' 0 6).toNat
    trusted s s.par.m → (∀ g, graphAt s slot = some g → g.replay ≠ none) → exec .cgrunStart s = .next (refusedAt s s.par.m)) ∧
  (∀ s : State, trusted s s.par.m →
    ((∀ g, graphAt s s.par.slot = some g → g.replay = none) → exec .cgrunCancel s = .next (refusedAt s s.par.m)) ∧
    ∀ g, graphAt s s.par.slot = some g → g.replay ≠ none →
      exec .cgrunCancel s = .next ((withReplay s s.par.slot fun r => { r with cancelled := true }).checkReplay s.par.slot)) ∧
  (∀ (s : State) (g : Graph) (r : Replay) (c : Chunk), let slot := s.par.slot
    let n := s.par.n
    graphAt s slot = some g → g.replay = some r → g.chunks[n]? = some c →
    (n ∉ r.fired ∨ n ∈ r.completed ∨ n ∈ r.failed.map (·.1) → exec .chunkComplete s = .next s) ∧
    (n ∈ r.fired → n ∉ r.completed → n ∉ r.failed.map (·.1) →
      (c.act = 3 → exec .chunkComplete s = .next (chunkDone (s.completion (BitVec.ofNat 64 c.soff) g.ctx 0 false) slot n c)) ∧
      (c.act = 4 → exec .chunkComplete s = .next (chunkDone (advanced s slot (c.bsel % 8) c.len) slot n c)) ∧
      (c.act = 1 ∨ c.act = 2 → ∀ t,
        (s.chunkAct slot n g r c = (t, .done) → exec .chunkComplete s = .next (chunkDone t slot n c)) ∧
        ∀ x, s.chunkAct slot n g r c = (t, .fails x) →
          exec .chunkComplete s = .next ((withReplay t slot fun r => { r with failed := r.failed ++ [(n, x)] }).checkReplay slot)))) ∧
  (∀ (s : State) (slot : Nat) (g : Graph) (r : Replay), graphAt s slot = some g → g.replay = some r →
    let finished (how : Nat) : State :=
      let w := (s.context g.ctx).world
      let t := match s.lookWalk g.ctx w .write (r.recAddr + 0x40) with
        | .ok l => if l.apt < 4 then s.homeWrite (l.phys (r.recAddr + 0x40)) 8 (replayStatus r how) else s
        | _ => s
      (withGraph t slot fun h => { h with replay := none }).completion g.cmpl g.ctx 0 (decide (how ≠ 1))
    let settled := ∀ i ∈ r.fired, i ∈ r.completed ∨ i ∈ r.failed.map (·.1)
    (r.completed.length = g.chunks.length → s.checkReplay slot = finished 1) ∧
    (r.completed.length ≠ g.chunks.length → settled → r.failed ≠ [] → s.checkReplay slot = finished 2) ∧
    (r.completed.length ≠ g.chunks.length → settled → r.failed = [] → r.cancelled = true → s.checkReplay slot = finished 3) ∧
    (r.completed.length ≠ g.chunks.length → ¬ settled ∨ (r.failed = [] ∧ r.cancelled = false) → s.checkReplay slot = s)) ∧
  -- completion words
  (∀ (s : State) (w : BitVec 64) (ctx n : Nat) (loss : Bool),
    (aimed w 0 → s.completion w ctx n loss = s) ∧
    (6 ≤ wordKind w ∨ wordUnnamed w ≠ 0 → s.completion w ctx n loss = dropped s) ∧
    (aimed w 1 →
      let bar := (w.extractLsb' 0 4).toNat
      (∀ x, s.allTeams.find? (fun x => frames w ctx x.2) = some x →
        let t := s.acquire x.1 5
        let t := if loss then t.modTeam x.1 x.2.slot fun y => { y with bars := y.bars.modify bar fun b => { b with loss := true } } else t
        s.completion w ctx n loss = t.arrive x.1 x.2.slot bar n none) ∧
      ((∀ x ∈ s.allTeams, frames w ctx x.2 = false) → (∀ x ∈ s.saved, frames w ctx x.team = false) → s.completion w ctx n loss = dropped s) ∧
      ∀ x r, (∀ x ∈ s.allTeams, frames w ctx x.2 = false) → s.saved = x :: r →
        frames w ctx x.team = true → (∀ y ∈ r, frames w ctx y.team = false) →
        s.completion w ctx n loss = { s with saved := { x with arrivals := x.arrivals ++ [(bar, n, loss)] } :: r }) ∧
    (aimed w 2 → let d := (w.extractLsb' 8 3).toNat
      let k := (w.extractLsb' 0 8).toNat
      let b := s.dieBar d k
      (b.own = some ctx → (s.completion w ctx n loss).noWork = (s.setDieBar d k { b with ph := b.ph + 1, rep := [], loss := b.loss || loss }).noWork) ∧
      (b.own ≠ some ctx → s.completion w ctx n loss = dropped s)) ∧
    (aimed w 3 → let k := (w.extractLsb' 0 8).toNat
      ((s.pkgBar k).own = some ctx → s.completion w ctx n loss = s.pkgArrive k none loss) ∧
      ((s.pkgBar k).own ≠ some ctx → s.completion w ctx n loss = dropped s)) ∧
    (aimed w 4 → let va := 8 * (w.extractLsb' 0 53).toNat
      (∀ l, s.lookWalk ctx (s.context ctx).world .write va = .ok l → l.apt < 2 →
        s.completion w ctx n loss =
          State.wake (s.homeWrite (l.phys va) 8 ((Memory.read s.mem (l.phys va) 8 + 1) % 2 ^ 64)) ctx va 0xFFFFFFFF) ∧
      ((∀ l, s.lookWalk ctx (s.context ctx).world .write va = .ok l → 2 ≤ l.apt) → s.completion w ctx n loss = dropped s)) ∧
    (aimed w 5 → let slot := (w.extractLsb' 0 6).toNat
      (∀ g, graphAt s slot = some g → g.ctx = ctx → s.completion w ctx n loss = advanced s slot (w.extractLsb' 6 3).toNat 1) ∧
      ((∀ g, graphAt s slot = some g → g.ctx ≠ ctx) → s.completion w ctx n loss = dropped s))) ∧
  -- agreement rounds
  (∀ s : State, trusted s s.par.m →
    (proposable s → ∃ e, exec .elcmd s = .next e ∧ e.mem = s.mem ∧ e.forum.round = some (proposed s) ∧
      ∀ x ∈ (proposed s).ents, x.pkg ≠ s.forum.pkg.toNat →
        (x.pkg, SentMsg.prepare x.grp (proposed s).newver (proposed s).tmo x.members) ∈ e.forum.sent) ∧
    (¬ proposable s → exec .elcmd s = .next (refusedAt s s.par.m))) ∧
  (∀ (s : State) (b : List Byte), s.par.bytes = some b → s.par.src ≠ s.forum.pkg.toNat →
    let g := s.readGroup s.par.grp
    let words := (List.range (b.length / 4)).map fun j => BitVec.ofNat 32 (field b (4 * j) 4)
    (g.unusable = true ∨ (g.ver + 1) % 2 ^ 16 ≠ s.par.ver →
      exec .roundPrepare s = .next (withForum s fun f => { f with sent := f.sent ++ [(s.par.src, .roundAnswer s.par.grp .refuse)] })) ∧
    (g.unusable = false → (g.ver + 1) % 2 ^ 16 = s.par.ver →
      ∃ e, exec .roundPrepare s = .next e ∧ e.noWork = (withForum s fun f =>
        { f with parts := f.parts.filter (fun x => x.grp != s.par.grp) ++ [⟨s.par.src, s.par.grp, s.par.ver, words, false⟩] }).noWork)) ∧
  (∀ (s : State) (x : Machine.Part), s.forum.parts.find? (fun x => x.grp == s.par.grp) = some x → x.ready = false →
    let g := s.readGroup s.par.grp
    let home := min g.home 50
    (∀ h ∈ (s.porter home).handlers, h.pkt.grp ≠ s.par.grp) → x.src ≠ (s.abortOld g s.par.grp).2.forum.pkg.toNat →
    exec .roundOldVersionTimeout s =
      (let a := s.abortOld g s.par.grp
       .next (withForum a.2 fun f => { f with
         parts := f.parts.map fun y => if y.grp == s.par.grp then { y with ready := true } else y,
         sent := f.sent ++ [(x.src, .roundAnswer s.par.grp (.ready a.1))] })) ∧
    ((s.count s.par.grp g.ver).n = 0 → (s.abortOld g s.par.grp).2.mem = s.mem ∧
      ∀ o, slotAtPorter (s.abortOld g s.par.grp).2 home (s.par.grp, g.ver, o) = none)) ∧
  (∀ (s : State) (r : Round), s.forum.round = some r → r.decided = none →
    ((∃ e ∈ r.ents, isRefused e.st) → (∀ e ∈ r.ents, e.pkg ≠ s.forum.pkg.toNat) →
      exec .roundDecide s = .next (closed (withForum s fun f => { f with sent := f.sent ++ r.ents.map fun e => (e.pkg, .roundAbort e.grp) }) r false)) ∧
    ((∀ e ∈ r.ents, ¬ isRefused e.st) → (∃ e ∈ decision r, ¬ isDropped e.st) →
      ∃ e, exec .roundDecide s = .next e ∧ e.mem = s.mem ∧ e.forum.round = some { r with ents := decision r, decided := some true } ∧
        ∀ x ∈ decision r, x.pkg ≠ s.forum.pkg.toNat → ¬ isDropped x.st → (x.pkg, SentMsg.commit x.grp r.newver x.members) ∈ e.forum.sent)) ∧
  (∀ (s : State) (r : Round) (x : RoundEnt) (n : Nat), s.par.k = 0 → s.forum.round = some r → r.decided = some true → r.ents[s.par.n]? = some x →
    x.st = .ready n →
    let ents := r.ents.set s.par.n { x with st := .committed n }
    let last := ents.all fun y => match y.st with | .committed _ | .dropped => true | _ => false
    let t := withForum s fun f => { f with round := some { r with ents := ents } }
    (x.pkg ≠ s.forum.pkg.toNat → last = false → exec .roundCommit s = .next t) ∧
    (x.pkg ≠ s.forum.pkg.toNat → last = true → exec .roundCommit s = .next (closed t { r with ents := ents } true)) ∧
    (x.pkg = s.forum.pkg.toNat → last = false → x.grp < 4096 → x.members.length ≤ 512 → r.newver < 2 ^ 16 → Memory.wf s.mem = true →
      ∃ e, exec .roundCommit s = .next e ∧ committedEntry s e x.grp r.newver x.members ∧ e.forum.round = t.forum.round ∧
        ∀ y ∈ e.forum.parts, y.grp ≠ x.grp)) ∧
  ∀ (s : State) (x : Machine.Part) (b : List Byte), s.par.k = 1 → s.forum.parts.find? (fun y => y.src == s.par.src && y.grp == s.par.grp) = some x →
    s.par.bytes = some b → x.ready = true → x.grp < 4096 → b.length ≤ 2048 → x.newver < 2 ^ 16 → Memory.wf s.mem = true →
    ∃ e, exec .roundCommit s = .next e ∧
      committedEntry s e x.grp x.newver ((List.range (b.length / 4)).map fun j => BitVec.ofNat 32 (field b (4 * j) 4)) ∧
      ∀ y ∈ e.forum.parts, y.grp ≠ x.grp

namespace Sys2Proof.Spec

open Sys2Proof Sys2Proof.Machine

-- planes (R453-R455)

/-- The physical plane that `MAP` names for a logical one. -/
def planeFor (m : BitVec 8) (q : Nat) : Nat := m.toNat / 4 ^ q % 4

def dead (s : State) (p : Nat) : Prop := s.forum.plDead.getLsbD p = true

/-- The next live plane after a plane, in ascending order, wrapping, with that plane dead (R455). -/
def heir (s : State) (p : Nat) : Option Nat := [(p + 1) % 4, (p + 2) % 4, (p + 3) % 4].find? fun q => !s.forum.plDead.getLsbD q

/-- A request is neither lost nor changed: it is still outstanding, on its plane or on the one that the map names (R455). -/
def moved (s e : State) : Prop :=
  ∀ o ∈ s.forum.out, ∃ o' ∈ e.forum.out, o'.id = o.id ∧ o'.pkg = o.pkg ∧ o'.pa = o.pa ∧ o'.seq = o.seq ∧ o'.what = o.what ∧
    (o'.plane = o.plane ∨ o'.plane = planeFor e.forum.plMap (planeOf o.pkg o.pa))

/-- A message of a region that a dead plane loses (R464). -/
def ofRegion (o : RemoteOut) (c slot fid : Nat) : Prop := (∃ w, o.what = .stage c slot fid w) ∨ o.what = .prepare c slot fid

-- requests of peers (R457, R459)

/-- An export window admits bytes for a kind, 1 load, 2 store, 3 atomic or reduction, and a group (R457). -/
def admits (a c : BitVec 64) (kind fgrp pa n : Nat) : Prop :=
  c.getLsbD 0 = true ∧ c.getLsbD kind = true ∧ (c.getLsbD 9 = true ∨ (c.extractLsb' 10 6).toNat = fgrp) ∧
  (a.extractLsb' 16 36).toNat ≤ pa / 65536 ∧ (pa + (n - 1)) / 65536 ≤ (c.extractLsb' 16 36).toNat

def sends (s : State) (pkg : Nat) (m : SentMsg) : State := withForum s fun f => { f with sent := f.sent ++ [(pkg, m)] }

/-- Nothing holds a request of another package: no other is held, its sequence number is the next, and no ready region has staged its lines. -/
def free (s : State) (q : RemoteReq) : Prop :=
  s.forum.reorder = [] ∧ (∀ n, q.so = some n → n = assocGet 0 s.forum.recvSeq q.src % 2 ^ 16) ∧
  ∀ g ∈ s.forum.staging, g.ready = true → ∀ w ∈ g.writes, w.pa / 64 ≠ q.pa / 64 ∧ w.pa / 64 ≠ (q.pa + (q.len - 1)) / 64

/-- A request in SO order counts (R459). -/
def counted_ (s : State) (q : RemoteReq) : State :=
  if q.so.isSome then withForum s fun f => { f with recvSeq := assocPut f.recvSeq q.src (assocGet 0 f.recvSeq q.src + 1) } else s

def kindOf (q : RemoteReq) : Nat := match q.kind with | .load => 1 | .store => 2 | .atom .. => 3

-- regions (R461-R464)

def stagingOf (s : State) (src rgn : Nat) : Option Staging := s.forum.staging.find? fun g => g.src == src && g.rgn == rgn

def withStaging (s : State) (src rgn : Nat) (f : Staging → Staging) : State :=
  withForum s fun o => { o with staging := o.staging.map fun g => if g.src == src && g.rgn == rgn then f g else g }

/-- A staged write's kind: a store, or a reduction. -/
def stagedKind (w : StagedReq) : Nat := if w.red.isSome then 3 else 2

def stillAdmitted (s : State) (w : StagedReq) : Prop := s.admission (stagedKind w) w.fgrp w.pa w.len = 0

/-- The fibre `g` after a rollback (R461): the checkpoint, `p`D and `v`S, and the address after its `rmt.open`. -/
def rolledBack (r : Region) (code : Nat) (f g : Fibre) : Prop :=
  g.region = none ∧ g.pc = r.resume ∧ g.wait = none ∧ g.rep = none ∧ g.srstep = r.srstep ∧
  g.pred = (if r.pd = 0 then r.pred else putBit r.pred r.pd.toNat false) ∧
  (∀ n < r.regs.length, n ≠ r.vs.toNat → g.regs[n]? = r.regs[n]?) ∧ (r.vs.toNat < r.regs.length → g.regs[r.vs.toNat]? = some (BitVec.ofNat 32 code)) ∧
  ∀ n, r.regs.length ≤ n → n ≠ r.vs.toNat → g.regs[n]? = f.regs[n]?

/-- An answered request is outstanding no more. -/
def closedOut (s : State) (o : RemoteOut) : State := withForum s fun f => { f with out := f.out.filter fun x => x.id != o.id }

end Sys2Proof.Spec

/-- R438, R453-R466. Planes, the answers of other packages, export windows and the requests of peers, remote regions, and the links of
package barriers. -/
def Obligations.FabricEvents : Prop :=
  -- planes
  (∀ s : State, s.par.m.isSecure = false → exec .plmapMapWrite s = .next (refusedAt s s.par.m)) ∧
  (∀ s : State, s.par.m.isSecure = true →
    ((∃ q < 4, dead s (planeFor (s.par.v.extractLsb' 0 8) q)) → exec .plmapMapWrite s = .next s) ∧
    ((∀ q < 4, ¬ dead s (planeFor (s.par.v.extractLsb' 0 8) q)) →
      ∃ e, exec .plmapMapWrite s = .next e ∧ e.mem = s.mem ∧ e.forum.plMap = s.par.v.extractLsb' 0 8 ∧ e.forum.plQsc = 0 ∧
        e.forum.plDead = s.forum.plDead ∧ moved s e)) ∧
  (∀ s : State, 4 ≤ s.par.n ∨ dead s s.par.n → exec .planeDeath s = .next s) ∧
  (∀ s : State, let p := s.par.n
    p < 4 → ¬ dead s p → (∀ o ∈ s.forum.out, o.plane = p → ∀ c slot fid, ¬ ofRegion o c slot fid) → (∀ x ∈ s.forum.closing, x.1 ≠ p) →
    ∃ e, exec .planeDeath s = .next e ∧ e.mem = s.mem ∧ e.forum.plDead = s.forum.plDead ||| (1#4 <<< p) ∧
      e.forum.reports = s.forum.reports + 1 ∧ moved s e ∧
      ((∃ o ∈ s.forum.out, o.plane = p) → e.forum.plMap = s.forum.plMap ∧
        (∀ q < 4, planeFor s.forum.plMap q = p → e.forum.plQsc.getLsbD q = true) ∧
        ∃ ts, (p, ts) ∈ e.forum.closing ∧ ∀ o ∈ s.forum.out, o.plane = p → o.pkg ∈ ts) ∧
      ∀ l, (∀ o ∈ s.forum.out, o.plane ≠ p) → heir s p = some l →
        ∀ q < 4, planeFor e.forum.plMap q = if planeFor s.forum.plMap q = p then l else planeFor s.forum.plMap q) ∧
  (∀ (s : State) (o : RemoteOut) (c slot fid : Nat) (f : Fibre) (r : Region), s.par.n < 4 → ¬ dead s s.par.n → o ∈ s.forum.out → o.plane = s.par.n →
    ofRegion o c slot fid → (∀ x ∈ s.forum.out, x.plane = s.par.n → x.what = o.what) → s.fibre? c slot fid = some f → f.region = some r →
    r.applying = false → ∃ e g, exec .planeDeath s = .next e ∧ e.fibre? c slot fid = some g ∧ rolledBack r 3 f g) ∧
  (∀ s : State, (∀ x ∈ s.forum.closing, s.par.pkg ∉ x.2) → exec .planeClose s = .next s) ∧
  (∀ (s : State) (p : Nat) (ts : List Nat), s.forum.closing.find? (fun x => x.2.contains s.par.pkg) = some (p, ts) →
    let told (r : State) : State := (withForum r fun f => { f with closing := f.closing.map fun x =>
      if x.1 == p then (x.1, x.2.filter fun t => t != r.par.pkg) else x }).closePlane p
    (s.par.performed = [] → exec .planeClose s = .next (told s)) ∧
    ∀ id a o, s.par.performed = [(id, a)] → s.forum.out.find? (fun o => o.id == id && o.plane == p && o.pkg == s.par.pkg) = some o →
      o.what.takes a = true → exec .planeClose s = .next (told ((closedOut s o).answered o a))) ∧
  (∀ (s : State) (p l : Nat), p < 4 → s.forum.closing.find? (fun x => x.1 == p) = some (p, []) → heir s p = some l →
    let e := s.closePlane p
    e.mem = s.mem ∧ moved s e ∧ (∀ q < 4, planeFor e.forum.plMap q = if planeFor s.forum.plMap q = p then l else planeFor s.forum.plMap q) ∧
    ∀ o ∈ s.forum.out, o.plane = p → planeFor s.forum.plMap (planeOf o.pkg o.pa) = p → ∃ o' ∈ e.forum.out, o'.id = o.id ∧ o'.what = o.what ∧ o'.plane = l) ∧
  (∀ s : State, exec .planeComesBack s = .next (if s.par.n < 4 then withForum s fun f => { f with plDead := f.plDead &&& ~~~(1#4 <<< s.par.n) } else s)) ∧
  -- answers of other packages
  (∀ s : State, s.forum.out.find? (fun o => o.id == s.par.id) = none → exec .remoteResponse s = .next s ∧ exec .unreachableTimeout s = .next s) ∧
  (∀ (s : State) (o : RemoteOut), s.forum.out.find? (fun o => o.id == s.par.id) = some o →
    (dead s o.plane ∨ o.what.takes s.par.ans = false → exec .remoteResponse s = .next s) ∧
    (¬ dead s o.plane → o.what.takes s.par.ans = true → exec .remoteResponse s = .next ((closedOut s o).answered o s.par.ans)) ∧
    ((∃ c slot fid, o.what = .apply c slot fid) → exec .unreachableTimeout s = .next s) ∧
    ((∀ c slot fid, o.what ≠ .apply c slot fid) → exec .unreachableTimeout s = .next ((closedOut s o).answered o (.refuse (32 + 11))))) ∧
  (∀ (s : State) (o : RemoteOut) (c : Nat) (l : Load) (v : Nat) (f : Fibre), o.what = .load c l → l.uni = none → l.acq = none →
    s.fibre? c l.slot l.fid = some f → f.region = none → f.wait = some (.remote l.id) → f.stepping = false → f.rep = none →
    ∃ g, (s.answered o (.data v)).fibre? c l.slot l.fid = some g ∧ (s.answered o (.data v)).mem = s.mem ∧ g.wait = none ∧ g.pc = f.pc + 12 ∧
      g.regs = f.regs ∧ g.pend = f.pend.map fun w => if w.id = l.id then { w with
        val := (let x := written l.t1 (intOf l.t1 (BitVec.ofNat 64 (v % 2 ^ width l.t1)))
                if w.hi then x.extractLsb' 32 32 else x.extractLsb' 0 32), due := .ready } else w) ∧
  (∀ (va : Nat) (wr : Bool), (refusedTrap va wr (.refuse 43)).cause = .pageFault ∧ (refusedTrap va wr (.refuse 43)).info.getLsbD 4 = true ∧
    (refusedTrap va wr (.refuse 12)).cause = .permitDenied ∧ (refusedTrap va wr (.refuse 13)).cause = .worldViolation) ∧
  (∀ (s : State) (o : RemoteOut) (c : Nat) (e e' : SBEntry), o.what = .sb c e → (s.core c).sb.find? (fun x => x.id == e.id) = some e' →
    (∀ v, e'.call = none → s.answered o (.ack v) = (s.dropEntry c e'.id).ackOwners (e'.kind.fids.map fun fid => ownerOf c e'.slot fid)) ∧
    ∀ x, s.answered o (.refuse x) = s.refuseEntry c e' x) ∧
  -- requests of peers
  (∀ (s : State) (kind fgrp pa n : Nat), s.admission kind fgrp pa n = 0 ↔
    (∃ i < 64, admits (s.forum.exa.getD i 0) (s.forum.exc.getD i 0) kind fgrp pa n) ∧
    (∀ x ∈ [pa, pa + (n - 1)], (Machine.regionOf x).isSome = true ∧ s.worldRefuses false x = false)) ∧
  (∀ (s : State) (q : RemoteReq), s.par.req = some q → free s q →
    let c := s.admission (kindOf q) q.fgrp q.pa q.len
    let t := counted_ s q
    (c ≠ 0 → exec .remoteRequestArrival s = .next (sends t q.src (.answer q.tag (.refuse c)))) ∧
    (c = 0 →
      (q.kind = .load → exec .remoteRequestArrival s = .next (sends t q.src
        (.answer q.tag (if s.poisoned q.pa q.len then .poisoned (Memory.read s.mem q.pa q.len) else .data (Memory.read s.mem q.pa q.len))))) ∧
      (q.kind = .store → exec .remoteRequestArrival s = .next (sends (t.homeWriteMasked q.pa q.mask q.data) q.src (.answer q.tag (.ack 0)))) ∧
      ∀ op t1, q.kind = .atom op t1 →
        (s.poisoned q.pa q.len = true → exec .remoteRequestArrival s = .next (sends t q.src (.answer q.tag (.poisoned 0)))) ∧
        (s.poisoned q.pa q.len = false → op ≠ .fadd ∨ t1.toNat < 16 →
          exec .remoteRequestArrival s = .next (sends (t.homeWrite q.pa q.len
            (atomGroup op t1 (fixedTariff.getD t1.toNat 0) q.len (Memory.read s.mem q.pa q.len)
              [(BitVec.ofNat 64 q.data, BitVec.ofNat 64 q.cmp)]).2) q.src (.answer q.tag (.ack (Memory.read s.mem q.pa q.len))))) ∧
        (s.poisoned q.pa q.len = false → op = .fadd → 16 ≤ t1.toNat → ∃ e, exec .remoteRequestArrival s = .next e ∧
          (Memory.wf s.mem = true → ∀ x, ¬ within q.pa q.len x → Memory.get e.mem x = Memory.get s.mem x) ∧
          e.forum.sent = s.forum.sent ++ [(q.src, .answer q.tag (.ack (Memory.read s.mem q.pa q.len)))]))) ∧
  (∀ (s : State) (q : RemoteReq) (n : Nat), s.par.req = some q → s.forum.reorder = [] → q.so = some n →
    n ≠ assocGet 0 s.forum.recvSeq q.src % 2 ^ 16 →
    exec .remoteRequestArrival s = .next (withForum s fun f => { f with reorder := [(q, s.admission (kindOf q) q.fgrp q.pa q.len)] })) ∧
  -- headers
  (∀ (s : State) (b : List Byte), s.par.req = none → s.par.bytes = some b →
    (b.headD 0 = 0 ∨ 18 ≤ (b.headD 0).toNat → exec .remoteRequestArrival s = .next (dropped s)) ∧
    (0 < (b.headD 0).toNat → (b.headD 0).toNat < 18 → exec .remoteRequestArrival s = .next s)) ∧
  (∀ h : Header, h.kind < 2 ^ 8 → h.flg < 2 ^ 8 → h.src < 2 ^ 16 → h.dst < 2 ^ 16 → h.seq < 2 ^ 16 → h.rgn < 2 ^ 32 → h.len < 2 ^ 16 →
    h.opx < 2 ^ 16 → h.addr < 2 ^ 64 → h.mask < 2 ^ 32 → h.tag < 2 ^ 32 → h.bytes.length = 32 ∧ Header.parse h.bytes = h) ∧
  (∀ (s : State) (o : RemoteOut) (c : Nat) (l : Load), o.what = .load c l →
    let h := s.requestHeader o
    h.kind = 1 ∧ h.src = s.forum.pkg.toNat ∧ h.dst = o.pkg ∧ h.opx = l.t1.toNat ∧ h.addr = o.pa ∧ h.rgn = 0 ∧
      (o.seq = none → h.flg = 0 ∧ h.seq = 0) ∧ ∀ n, o.seq = some n → h.flg = 1 ∧ h.seq = n % 2 ^ 16) ∧
  (∀ s : State, let n := s.par.n
    let v := s.par.v &&& 0x000FFFFFFFFFFE0F
    let a := s.forum.exa.getD n 0
    trusted s s.par.m →
    (64 ≤ n → exec .excWrite s = .next (refusedAt s s.par.m)) ∧
    (n < 64 → ∃ e h, exec .excWrite s = .next e ∧ e = withForum s (fun f => { f with exc := f.exc.set n v, excHold := f.excHold ++ h }) ∧
      ∀ x, x ∈ h ↔ ∃ g ∈ s.forum.staging, x = (n, g.src, g.rgn) ∧ g.ready = true ∧ ∃ w ∈ g.writes,
        admits a (s.forum.exc.getD n 0) (stagedKind w) w.fgrp w.pa w.len ∧ ¬ admits a v (stagedKind w) w.fgrp w.pa w.len)) ∧
  -- regions of other packages
  (∀ (s : State) (w : StagedReq), s.par.staged = some w →
    let answer (r : State) (a : RemoteAns) : State := sends r w.src (.region w.rgn a)
    (¬ stillAdmitted s w → exec .stagedWrite s = .next (answer s (.refuse 1))) ∧
    (stillAdmitted s w → stagingOf s w.src w.rgn = none → 2048 ≤ s.forum.staging.length → exec .stagedWrite s = .next (answer s (.refuse 7))) ∧
    (stillAdmitted s w → stagingOf s w.src w.rgn = none → s.forum.staging.length < 2048 →
      exec .stagedWrite s = .next (answer (withForum s fun f => { f with staging := f.staging ++ [⟨w.src, w.rgn, w.fgrp, [w], false⟩] }) (.ack 0))) ∧
    (stillAdmitted s w → stagingOf s w.src w.rgn ≠ none →
      exec .stagedWrite s = .next (answer (withStaging s w.src w.rgn fun g => { g with writes := g.writes ++ [w] }) (.ack 0)))) ∧
  (∀ s : State, let answer (r : State) (a : RemoteAns) : State := sends r s.par.src (.region s.par.rgn a)
    (stagingOf s s.par.src s.par.rgn = none → exec .regionPrepare s = .next (answer s (.refuse 4)) ∧ exec .regionApply s = .next s ∧
      exec .regionDiscard s = .next s ∧ exec .stagingDiscardTimeout s = .next s) ∧
    ∀ g, stagingOf s s.par.src s.par.rgn = some g →
      ((∃ w ∈ g.writes, ¬ stillAdmitted s w) → exec .regionPrepare s = .next (answer s (.refuse 2))) ∧
      ((∀ w ∈ g.writes, stillAdmitted s w) → exec .regionPrepare s = .next (answer (withStaging s g.src g.rgn fun h => { h with ready := true }) .ready)) ∧
      exec .regionDiscard s = .next (s.dropStaging s.par.src s.par.rgn) ∧
      (g.ready = false → exec .regionApply s = .next s ∧ exec .stagingDiscardTimeout s = .next (s.dropStaging s.par.src s.par.rgn)) ∧
      (g.ready = true → exec .stagingDiscardTimeout s = .next s ∧
        exec .regionApply s = .next ((answer (g.writes.foldl (fun r w => match w.red with
          | none => r.homeWriteMasked w.pa w.mask w.data
          | some (op, t1) => (r.peerAtom op t1 w.pa w.len w.data 0).2) s) .applied).dropStaging s.par.src s.par.rgn))) ∧
  (∀ (s : State) (src rgn : Nat), s.forum.reorder = [] → s.dropStaging src rgn = withForum s fun f => { f with
    staging := f.staging.filter fun x => !(x.src == src && x.rgn == rgn), excHold := f.excHold.filter fun h => !(h.2.1 == src && h.2.2 == rgn) }) ∧
  -- regions of this package
  (∀ (s : State) (c slot fid code : Nat) (f : Fibre) (r : Region), s.fibre? c slot fid = some f → f.region = some r → r.applying = false →
    ∃ g, (s.rollback c slot fid code).fibre? c slot fid = some g ∧ (s.rollback c slot fid code).mem = s.mem ∧ rolledBack r code f g) ∧
  (∀ (s : State) (o : RemoteOut) (c slot fid : Nat) (f : Fibre) (r : Region), o.what = .prepare c slot fid → s.fibre? c slot fid = some f →
    f.region = some r →
    let all := ∀ w ∈ r.staged, w.1 ∈ r.ready ++ [o.pkg]
    ∃ g, (s.answered o .ready).fibre? c slot fid = some g ∧ g.region = some { r with ready := r.ready ++ [o.pkg], applying := g.region.any (·.applying) } ∧
      (g.region.any (·.applying) = true ↔ all) ∧ (all → ∀ w ∈ r.staged, ∃ o' ∈ (s.answered o .ready).forum.out, o'.pkg = w.1 ∧ o'.what = .apply c slot fid)) ∧
  (∀ (s : State) (o : RemoteOut) (c slot fid : Nat) (f : Fibre) (r : Region), o.what = .apply c slot fid → s.fibre? c slot fid = some f →
    f.region = some r → (∀ w ∈ r.staged, w.1 ∈ r.applied ++ [o.pkg]) → f.stepping = false → f.rep = none →
    ∃ g, (s.answered o .applied).fibre? c slot fid = some g ∧ g.region = none ∧ g.wait = none ∧ g.pc = f.pc + 12 ∧ g.regs = f.regs) ∧
  -- links of package barriers
  (∀ s : State, let b := s.pkgBar (barNum s)
    trusted s s.par.m →
    (b.own ≠ some (barOwn s) → exec .pbfwdWrite s = .next (refusedAt s s.par.m)) ∧
    (b.own = some (barOwn s) → exec .pbfwdWrite s = .next (s.setPkgBar (barNum s) { b with
      parent := if s.par.v.getLsbD 16 then some ((s.par.v.extractLsb' 32 10).toNat, (s.par.v.extractLsb' 24 8).toNat) else none }))) ∧
  (∀ s : State, let n := s.par.n
    let b := s.pkgBar n
    (b.parent = none → exec .fabricBarrierForward s = .next s ∧ exec .fabricBarrierRelease s = .next s) ∧
    ∀ p, b.parent = some p →
      (b.forwarded = false → b.exp ≤ b.cnt → p.1 ≠ s.forum.pkg.toNat →
        exec .fabricBarrierForward s = .next (sends (s.setPkgBar n { b with forwarded := true }) p.1 (.barrierArrival p.2 n b.loss))) ∧
      (b.forwarded = true ∨ b.cnt < b.exp → exec .fabricBarrierForward s = .next s) ∧
      (b.forwarded = false → exec .fabricBarrierRelease s = .next s) ∧
      (b.forwarded = true → exec .fabricBarrierRelease s = .next ((s.setPkgBar n { b with loss := b.loss || s.par.flag }).pkgComplete n))) ∧
  ∀ (s : State) (n : Nat) (child : Option (Nat × Nat)) (loss : Bool), let b := s.pkgBar n
    let b' := { b with cnt := b.cnt + 1, loss := b.loss || loss, children := b.children ++ child.toList }
    (b.cnt + 1 ≠ b.exp → s.pkgArrive n child loss = s.setPkgBar n b') ∧
    (b.cnt + 1 = b.exp → b.parent ≠ none → (s.pkgArrive n child loss).noWork = (s.setPkgBar n b').noWork) ∧
    (b.cnt + 1 = b.exp → b.parent = none → s.pkgArrive n child loss = (s.setPkgBar n b').pkgComplete n)

namespace Sys2Proof.Spec

open Sys2Proof Sys2Proof.Machine

-- the encoding

/-- No hint clause (R52): S = 15 and W = 1; the guard is `p0`. -/
def noHints : Hints := ⟨0, false, 15, false, true⟩

/-- Words of format R, M, E and P that the spec writes out with their fields. -/
def workedWords : List (IWord × Instr) := [
  (0x04010000_000020E0_100A3001#96, .add ⟨⟨3, false, 4, false, false⟩, .v 5, .v 2, .k 7, .v 0, 0, 0, 0, 2⟩),
  (0x2F047FFF_FFFC0008_10060070#96, .ld ⟨noHints, .v 3, .k 2, .v 0, BitVec.ofInt 32 (-8), 0, 8⟩),
  (0x2F800000_12000040_08080020#96, .fadd ⟨noHints, .v 4, .v 1, .v 2, .v 0, 0, 9, 4, 0⟩),
  (0x2F000000_01010010_3000006F#96, .rep ⟨noHints, .v 0, .imm 6, .v 0, 0, 0, 2, 2, 0⟩),
  (0x2F830000_000800E8_200C0081#96, .atomAcq .add ⟨noHints, .v 6, .k 4, .v 7, 16, 4, 6⟩),
  (0x2F030220_01810008_2A080091#96, .mxloop ⟨noHints, .k 4, .k 5, .v 0, 2, 1, 0, 3, 2, 0, 6⟩),
  (0x2F400000_008021A8_400200A0#96, .cpyLd ⟨noHints, .v 1, .k 8, .k 13, 0, 0, 0, 1, 0, 2, 0⟩),
  (0x2F000000_00000018_800000B2#96, .barvw ⟨noHints, .v 0, .b 0, .v 0, .v 0, 0, 0, 0, 0⟩),
  (0x2F000000_00000010_180802B7#96, .pbarAw ⟨noHints, .v 4, .imm 3, .v 0, .v 0, 0, 0, 0, 0⟩),
  (0x2F040000_00006068_121400C2#96, .qpop ⟨noHints, .k 10, .k 2, .p 3, 0, 0, 8⟩),
  (0x2F000000_000044A8_200400D0#96, .spawn ⟨noHints, .v 2, .k 4, .imm 37, 0, 0, 0⟩),
  (0x2F000000_000020C0_080800E0#96, .xsel ⟨noHints, .v 4, .v 1, .k 6, .v 0, 0, 0, 0, 0⟩),
  (0x2F048000_000400C8_100800E5#96, .wwait ⟨noHints, .v 4, .k 2, .v 6, 8, 0, 9⟩),
  (0x2F000000_00000000_A60400F0#96, .rmtOpen ⟨noHints, .p 2, .v 20, .v 0, .v 0, 0, 0, 0, 0⟩)]

/-- The program `sum4` of the porters, and a broadcast. -/
def workedBosterWords : List (BitVec 32 × Instr) := [
  (0x20000000#32, .bmatch), (0x26000000#32, .bfold 8), (0x18200003#32, .bbeq 8 0 3), (0x28000000#32, .bfwdRes), (0x36400000#32, .bcmpl 9),
  (0x3C000000#32, .bend), (0x06800002#32, .bli 10 2), (0x18168003#32, .bbeq 5 10 3), (0x2C000000#32, .bmcast), (0x28000002#32, .bfwdRaw)]

-- a step

/-- The state in which a gang's word is fetched: a cycle with an issue slot has come, the gang is the one that runs, and what is due has
landed (R54, R118). -/
def gangTurn (s : State) (c : Nat) (g : Gang) : State :=
  { s.modDie (dieOf c) (fun d => { d with cycle := max d.cycle ((s.core c).issueCycle (s.now c)) }) with cur := ⟨c, g.slot, g.fids⟩ }.landTeam c g.slot

/-- The gang gave Y = 1 with the core's last issue (R59). -/
def yielding (k : Core) (g : Gang) : Prop := ∃ slot fid, k.yielded = some (slot, fid) ∧ g.slot = slot ∧ fid ∈ g.fids

/-- The gang `g` moves next, with `f` its first fibre and `fids` its fibres: none has a trap pending, its team does not stop here, and no
breakpoint is set on its instruction. -/
def mayIssue (s : State) (c : Nat) (g : Gang) (t : Team) (f : Fibre) (fids : List Nat) : Prop :=
  let s' := gangTurn s c g
  s'.team? c g.slot = some t ∧ (g.fids.filterMap t.fibre?).head? = some f ∧ fids = (g.fids.filterMap t.fibre?).map (·.fid) ∧
  (∀ h ∈ g.fids.filterMap t.fibre?, h.pendTrap = none) ∧ t.preempt = none ∧
  t.breakpoint? (if f.rep.isSome then [f.pc, f.pc + 12] else [f.pc]) = none

/-- The cause of a word that does not decode (R168). -/
def wordTrap (w : IWord) (x : Cause) : Trap := { cause := x, info := w.extractLsb' 0 64 }

def opOf (w : IWord) : Nat := (w.extractLsb' 0 8).toNat

end Sys2Proof.Spec

/-- R40-R52, R61, R420, R421. The words that the spec writes out decode to the instructions that they stand for. -/
def Obligations.DecodeWords : Prop :=
  (∀ x ∈ workedWords, decode x.1 = .ok x.2 ∧ wf x.2 = true) ∧ ∀ x ∈ workedBosterWords, decodeBoster x.1 = x.2

/-- R40-R52, R61-R66, R420, R421, R424. Decoding the word of a well-formed instruction gives it back, with every operand; a word that
decodes is that instruction's only one; every Boster word is some instruction's. -/
def Obligations.DecodeEncode : Prop :=
  (∀ i : Instr, wf i = true → match encode i with
    | .fibre w => decode w = .ok i
    | .boster w => decodeBoster w = i
    | .none => isEvent i = true) ∧
  (∀ (w : IWord) (i : Instr), decode w = .ok i → wf i = true ∧ encode i = .fibre w) ∧
  ∀ w : BitVec 32, wf (decodeBoster w) = true ∧ encode (decodeBoster w) = .boster w

/-- R40, R65, R67-R69, R113, R153, R412, R420. A step runs the instruction whose word stands at the PC of the gang that moves, or at the
BPC of a handler, or the event that comes; a word of a reserved SUB, with a reserved field, or of a privilege that the team has not, is
a trap of the gang; the words of a fetch are the 12 bytes at the PC; and an instruction under a prefix runs with its fields moved on by
their strides. The gang that moves is one that may issue, and of those the one that has been ready longest (R118); with that gang's issue one
of the core's two issue slots of the cycle is taken. -/
def Obligations.StepRunsDecoded : Prop :=
  -- gangs
  (∀ (s : State) (c idx : Nat) (r : List Act) (g : Gang) (t : Team) (f : Fibre) (fids : List Nat) (w : IWord) (u : State),
    let s0 : State := { s with agenda := r }
    let sup := (s0.context t.ctx).supervisor
    s.agenda = .gang c idx :: r → (s.core c).gangs[(s.core c).chooseGang (s.now c) idx]? = some g → mayIssue s0 c g t f fids →
    (f.rep = none → (gangTurn s0 c g).fetch c t f.pc = .word w u → u.contexts = s.contexts →
      (∀ i, decode w = .ok i → sup = true ∨ ¬ (0xF8 ≤ opOf w ∧ opOf w ≤ 0xFD) →
        step s = exec i (u.takeSlot c t.slot f.fid i (Hints.ofWord w).y)) ∧
      (decode w = .error .illegalSub → step s = .next (u.trapGang c t.slot fids f.pc (decide (opOf w = 0x6F)) (wordTrap w .illegalOpcode))) ∧
      (decode w = .error .reservedField → sup = true ∨ ¬ (0xF8 ≤ opOf w ∧ opOf w ≤ 0xFD) →
        step s = .next (u.trapGang c t.slot fids f.pc (decide (opOf w = 0x6F)) (wordTrap w .reservedField))) ∧
      (∀ i, decode w = .ok i → sup = false → 0xFA ≤ opOf w → opOf w ≤ 0xFD →
        step s = .next (u.trapGang c t.slot fids f.pc false (wordTrap w .illegalOpcode)))) ∧
    ∀ q, f.rep = some q → (gangTurn s0 c g).fetch c t (f.pc + 12) = .word w u → u.contexts = s.contexts →
      ∀ w' i, strideWord w q f.rc.toNat = (w', []) → decode w' = .ok i → sup = true ∨ ¬ (0xF8 ≤ opOf w ∧ opOf w ≤ 0xFD) →
        step s = exec i (u.takeSlot c t.slot f.fid i (Hints.ofWord w').y)) ∧
  (∀ (k : Core) (now idx : Nat) (g : Gang), k.gangs[k.chooseGang now idx]? = some g →
    g.readyAt ≤ k.issueCycle now ∧ (∀ h ∈ k.gangs, h.readyAt ≤ k.issueCycle now → ¬ yielding k h → ¬ yielding k g ∧ k.readySince g ≤ k.readySince h)) ∧
  (∀ (s : State) (c slot fid : Nat) (i : Instr) (y : Bool), (∀ f, i ≠ .rep f) →
    let k := s.core c
    (s.takeSlot c slot fid i y).core c = { k with
      issued := (s.now c, if k.issued.1 = s.now c then k.issued.2 + 1 else 1), yielded := if y then some (slot, fid) else none }) ∧
  (∀ (s : State) (c : Nat) (t : Team) (pc : BitVec 56) (l : Leaf), pc.toNat % 4 = 0 → pc.toNat % 65536 ≤ 65524 →
    s.look c t.ctx t.world .fetch pc.toNat = .ok l → l.apt ≠ 4 →
    s.hostGone l pc.toNat = false → s.fetch c t pc = .word (BitVec.ofNat 96 (Memory.read s.mem (l.phys pc.toNat) 12)) s) ∧
  (∀ (w : IWord) (s : State) (f : Fibre) (r : List Fibre), s.cur.fids.filterMap (s.fibre? s.cur.core s.cur.slot) = f :: r →
    exec (.unassignedOpcode w) s =
      .next (s.trapGang s.cur.core s.cur.slot (f.fid :: r.map (·.fid)) f.pc f.rep.isSome (wordTrap w .illegalOpcode))) ∧
  -- handlers
  (∀ (s : State) (p idx : Nat) (r : List Act) (h : Handler), s.agenda = .porter p idx :: r → (s.porter p).handlers[idx]? = some h →
    step s = exec (decodeBoster (sparseGet 0 (s.porter p).words (h.bpc % 1024))) { s with agenda := r, curPorter := (p, idx) }) ∧
  -- events
  (∀ (s : State) (i : Instr) (p : Params) (r : List Act), s.agenda = .event i p :: r → isEvent i = true →
    step s = exec i { s with agenda := r, work := s.work.erase (i, p), par := p }) ∧
  (∀ (s : State) (i : Instr) (p : Params) (r : List Act), s.agenda = .event i p :: r → isEvent i = false → step s = .next { s with agenda := r }) ∧
  -- nothing to do
  ∀ s : State, s.agenda = [] → s.work = [] → (∀ q ∈ s.forum.porters, q.handlers = []) → (∀ c, (s.core c).gangs = []) → step s = .next s

/-- What the spec gives for reset (R13, R174, R359, R390, R396, R401, R408, R409, R416, R429, R430, R438, R455, R457); the registers of
which it gives none hold the values that notes/assumptions/2.md names, and are not stated here. -/
def Obligations.ResetState : Prop :=
  (∀ c, (State.reset.core c).l1kib = 64 ∧ (State.reset.core c).teams = [] ∧ State.reset.now c = 0) ∧
  (∀ d, (State.reset.die d).cqbase = 0 ∧ (State.reset.die d).cqlog = 0 ∧ (State.reset.die d).queues = [[], [], [], []] ∧
    (State.reset.die d).kdown = List.replicate 8 0 ∧ (State.reset.die d).kup = List.replicate 8 0 ∧ (State.reset.die d).wmreg = 0) ∧
  (∀ p, let q := State.reset.porter p
    q.running = false ∧ q.hlt = false ∧ q.err = 0 ∧ q.fpc = 0 ∧ q.psaddr = 0 ∧ q.dup = 0 ∧ q.refused = 0 ∧ q.spill = 0 ∧ q.drop = 0 ∧
    ∀ n, decodeBoster (sparseGet 0 q.words n) = .bnop) ∧
  (∀ n, (State.reset.pkgBar n).own = none) ∧
  (let g := State.reset.forum
   g.pkgstate = 0 ∧ g.ownState = 0 ∧ g.gtbase = 0 ∧ g.spillbase = 0 ∧ g.gtDone = 0 ∧ g.gtIssued = 0 ∧ g.watts = 0 ∧ g.temps = 0 ∧ g.thrcyc = 0 ∧
   g.softcnt = 0 ∧ g.uecnt = 0 ∧ g.fgrp = 0 ∧ g.pkg = 0 ∧ g.plMap = 0xE4 ∧ g.plDead = 0 ∧ g.plQsc = 0 ∧
   (∀ n, g.exa.getD n 0 = 0 ∧ g.exc.getD n 0 = 0)) ∧
  State.reset.launches = [] ∧ State.reset.agenda = [] ∧ State.reset.work = [] ∧ State.reset.canonical = true

/-- The form of Memory that every byte has one place: strictly rising addresses and no byte listed that reads as an unlisted one. Every
step keeps it, whatever it does. -/
def Obligations.StepKeepsMemoryCanonical : Prop :=
  ∀ s t : State, Memory.wf s.mem = true → step s = .next t → Memory.wf t.mem = true

/-- Memory, the scratchpads, the descriptor tables, the tiles and the program stores of the porters keep their canonical form in every step. -/
def Obligations.StepKeepsCanonical : Prop :=
  ∀ s t : State, s.canonical = true → step s = .next t → t.canonical = true
end

