-- ==== Sys2Proof/Laws/State.lean ====
section
/-!
SUPPORT. What each change of the state leaves as it is: one lemma per field per update, and what reading a core, a team or a fibre
answers after one was changed.
-/
namespace Sys2Proof.Machine

open Sys2Proof

@[simp] theorem State.setCore_mem (s : State) (c : Nat) (k : Core) : (s.setCore c k).mem = s.mem := rfl
@[simp] theorem State.setCore_poison (s : State) (c : Nat) (k : Core) : (s.setCore c k).poison = s.poison := rfl
@[simp] theorem State.setCore_cbars (s : State) (c : Nat) (k : Core) : (s.setCore c k).cbars = s.cbars := rfl
@[simp] theorem State.setCore_dies (s : State) (c : Nat) (k : Core) : (s.setCore c k).dies = s.dies := rfl
@[simp] theorem State.setCore_contexts (s : State) (c : Nat) (k : Core) : (s.setCore c k).contexts = s.contexts := rfl
@[simp] theorem State.setCore_launches (s : State) (c : Nat) (k : Core) : (s.setCore c k).launches = s.launches := rfl
@[simp] theorem State.setCore_saved (s : State) (c : Nat) (k : Core) : (s.setCore c k).saved = s.saved := rfl
@[simp] theorem State.setCore_spOps (s : State) (c : Nat) (k : Core) : (s.setCore c k).spOps = s.spOps := rfl
@[simp] theorem State.setCore_netArr (s : State) (c : Nat) (k : Core) : (s.setCore c k).netArr = s.netArr := rfl
@[simp] theorem State.setCore_reports (s : State) (c : Nat) (k : Core) : (s.setCore c k).reports = s.reports := rfl
@[simp] theorem State.setCore_qops (s : State) (c : Nat) (k : Core) : (s.setCore c k).qops = s.qops := rfl
@[simp] theorem State.setCore_invPending (s : State) (c : Nat) (k : Core) : (s.setCore c k).invPending = s.invPending := rfl
@[simp] theorem State.setCore_forum (s : State) (c : Nat) (k : Core) : (s.setCore c k).forum = s.forum := rfl
@[simp] theorem State.setCore_agenda (s : State) (c : Nat) (k : Core) : (s.setCore c k).agenda = s.agenda := rfl
@[simp] theorem State.setCore_work (s : State) (c : Nat) (k : Core) : (s.setCore c k).work = s.work := rfl
@[simp] theorem State.setCore_turn (s : State) (c : Nat) (k : Core) : (s.setCore c k).turn = s.turn := rfl
@[simp] theorem State.setCore_cur (s : State) (c : Nat) (k : Core) : (s.setCore c k).cur = s.cur := rfl
@[simp] theorem State.setCore_par (s : State) (c : Nat) (k : Core) : (s.setCore c k).par = s.par := rfl
@[simp] theorem State.setCore_curPorter (s : State) (c : Nat) (k : Core) : (s.setCore c k).curPorter = s.curPorter := rfl
@[simp] theorem State.setCore_uid (s : State) (c : Nat) (k : Core) : (s.setCore c k).uid = s.uid := rfl
@[simp] theorem State.setCore_freeCount (s : State) (c : Nat) (k : Core) : (s.setCore c k).freeCount = s.freeCount := rfl

@[simp] theorem State.modCore_mem (s : State) (c : Nat) (f : Core → Core) : (s.modCore c f).mem = s.mem := rfl
@[simp] theorem State.modCore_poison (s : State) (c : Nat) (f : Core → Core) : (s.modCore c f).poison = s.poison := rfl
@[simp] theorem State.modCore_cbars (s : State) (c : Nat) (f : Core → Core) : (s.modCore c f).cbars = s.cbars := rfl
@[simp] theorem State.modCore_dies (s : State) (c : Nat) (f : Core → Core) : (s.modCore c f).dies = s.dies := rfl
@[simp] theorem State.modCore_contexts (s : State) (c : Nat) (f : Core → Core) : (s.modCore c f).contexts = s.contexts := rfl
@[simp] theorem State.modCore_launches (s : State) (c : Nat) (f : Core → Core) : (s.modCore c f).launches = s.launches := rfl
@[simp] theorem State.modCore_saved (s : State) (c : Nat) (f : Core → Core) : (s.modCore c f).saved = s.saved := rfl
@[simp] theorem State.modCore_spOps (s : State) (c : Nat) (f : Core → Core) : (s.modCore c f).spOps = s.spOps := rfl
@[simp] theorem State.modCore_netArr (s : State) (c : Nat) (f : Core → Core) : (s.modCore c f).netArr = s.netArr := rfl
@[simp] theorem State.modCore_reports (s : State) (c : Nat) (f : Core → Core) : (s.modCore c f).reports = s.reports := rfl
@[simp] theorem State.modCore_qops (s : State) (c : Nat) (f : Core → Core) : (s.modCore c f).qops = s.qops := rfl
@[simp] theorem State.modCore_invPending (s : State) (c : Nat) (f : Core → Core) : (s.modCore c f).invPending = s.invPending := rfl
@[simp] theorem State.modCore_forum (s : State) (c : Nat) (f : Core → Core) : (s.modCore c f).forum = s.forum := rfl
@[simp] theorem State.modCore_agenda (s : State) (c : Nat) (f : Core → Core) : (s.modCore c f).agenda = s.agenda := rfl
@[simp] theorem State.modCore_work (s : State) (c : Nat) (f : Core → Core) : (s.modCore c f).work = s.work := rfl
@[simp] theorem State.modCore_turn (s : State) (c : Nat) (f : Core → Core) : (s.modCore c f).turn = s.turn := rfl
@[simp] theorem State.modCore_cur (s : State) (c : Nat) (f : Core → Core) : (s.modCore c f).cur = s.cur := rfl
@[simp] theorem State.modCore_par (s : State) (c : Nat) (f : Core → Core) : (s.modCore c f).par = s.par := rfl
@[simp] theorem State.modCore_curPorter (s : State) (c : Nat) (f : Core → Core) : (s.modCore c f).curPorter = s.curPorter := rfl
@[simp] theorem State.modCore_uid (s : State) (c : Nat) (f : Core → Core) : (s.modCore c f).uid = s.uid := rfl
@[simp] theorem State.modCore_freeCount (s : State) (c : Nat) (f : Core → Core) : (s.modCore c f).freeCount = s.freeCount := rfl

@[simp] theorem State.modTeam_mem (s : State) (c n : Nat) (f : Team → Team) : (s.modTeam c n f).mem = s.mem := rfl
@[simp] theorem State.modTeam_poison (s : State) (c n : Nat) (f : Team → Team) : (s.modTeam c n f).poison = s.poison := rfl
@[simp] theorem State.modTeam_cbars (s : State) (c n : Nat) (f : Team → Team) : (s.modTeam c n f).cbars = s.cbars := rfl
@[simp] theorem State.modTeam_dies (s : State) (c n : Nat) (f : Team → Team) : (s.modTeam c n f).dies = s.dies := rfl
@[simp] theorem State.modTeam_contexts (s : State) (c n : Nat) (f : Team → Team) : (s.modTeam c n f).contexts = s.contexts := rfl
@[simp] theorem State.modTeam_launches (s : State) (c n : Nat) (f : Team → Team) : (s.modTeam c n f).launches = s.launches := rfl
@[simp] theorem State.modTeam_saved (s : State) (c n : Nat) (f : Team → Team) : (s.modTeam c n f).saved = s.saved := rfl
@[simp] theorem State.modTeam_spOps (s : State) (c n : Nat) (f : Team → Team) : (s.modTeam c n f).spOps = s.spOps := rfl
@[simp] theorem State.modTeam_netArr (s : State) (c n : Nat) (f : Team → Team) : (s.modTeam c n f).netArr = s.netArr := rfl
@[simp] theorem State.modTeam_reports (s : State) (c n : Nat) (f : Team → Team) : (s.modTeam c n f).reports = s.reports := rfl
@[simp] theorem State.modTeam_qops (s : State) (c n : Nat) (f : Team → Team) : (s.modTeam c n f).qops = s.qops := rfl
@[simp] theorem State.modTeam_invPending (s : State) (c n : Nat) (f : Team → Team) : (s.modTeam c n f).invPending = s.invPending := rfl
@[simp] theorem State.modTeam_forum (s : State) (c n : Nat) (f : Team → Team) : (s.modTeam c n f).forum = s.forum := rfl
@[simp] theorem State.modTeam_agenda (s : State) (c n : Nat) (f : Team → Team) : (s.modTeam c n f).agenda = s.agenda := rfl
@[simp] theorem State.modTeam_work (s : State) (c n : Nat) (f : Team → Team) : (s.modTeam c n f).work = s.work := rfl
@[simp] theorem State.modTeam_turn (s : State) (c n : Nat) (f : Team → Team) : (s.modTeam c n f).turn = s.turn := rfl
@[simp] theorem State.modTeam_cur (s : State) (c n : Nat) (f : Team → Team) : (s.modTeam c n f).cur = s.cur := rfl
@[simp] theorem State.modTeam_par (s : State) (c n : Nat) (f : Team → Team) : (s.modTeam c n f).par = s.par := rfl
@[simp] theorem State.modTeam_curPorter (s : State) (c n : Nat) (f : Team → Team) : (s.modTeam c n f).curPorter = s.curPorter := rfl
@[simp] theorem State.modTeam_uid (s : State) (c n : Nat) (f : Team → Team) : (s.modTeam c n f).uid = s.uid := rfl
@[simp] theorem State.modTeam_freeCount (s : State) (c n : Nat) (f : Team → Team) : (s.modTeam c n f).freeCount = s.freeCount := rfl

@[simp] theorem State.modFibre_mem (s : State) (c n i : Nat) (f : Fibre → Fibre) : (s.modFibre c n i f).mem = s.mem := rfl
@[simp] theorem State.modFibre_poison (s : State) (c n i : Nat) (f : Fibre → Fibre) : (s.modFibre c n i f).poison = s.poison := rfl
@[simp] theorem State.modFibre_cbars (s : State) (c n i : Nat) (f : Fibre → Fibre) : (s.modFibre c n i f).cbars = s.cbars := rfl
@[simp] theorem State.modFibre_dies (s : State) (c n i : Nat) (f : Fibre → Fibre) : (s.modFibre c n i f).dies = s.dies := rfl
@[simp] theorem State.modFibre_contexts (s : State) (c n i : Nat) (f : Fibre → Fibre) : (s.modFibre c n i f).contexts = s.contexts := rfl
@[simp] theorem State.modFibre_launches (s : State) (c n i : Nat) (f : Fibre → Fibre) : (s.modFibre c n i f).launches = s.launches := rfl
@[simp] theorem State.modFibre_saved (s : State) (c n i : Nat) (f : Fibre → Fibre) : (s.modFibre c n i f).saved = s.saved := rfl
@[simp] theorem State.modFibre_spOps (s : State) (c n i : Nat) (f : Fibre → Fibre) : (s.modFibre c n i f).spOps = s.spOps := rfl
@[simp] theorem State.modFibre_netArr (s : State) (c n i : Nat) (f : Fibre → Fibre) : (s.modFibre c n i f).netArr = s.netArr := rfl
@[simp] theorem State.modFibre_reports (s : State) (c n i : Nat) (f : Fibre → Fibre) : (s.modFibre c n i f).reports = s.reports := rfl
@[simp] theorem State.modFibre_qops (s : State) (c n i : Nat) (f : Fibre → Fibre) : (s.modFibre c n i f).qops = s.qops := rfl
@[simp] theorem State.modFibre_invPending (s : State) (c n i : Nat) (f : Fibre → Fibre) : (s.modFibre c n i f).invPending = s.invPending := rfl
@[simp] theorem State.modFibre_forum (s : State) (c n i : Nat) (f : Fibre → Fibre) : (s.modFibre c n i f).forum = s.forum := rfl
@[simp] theorem State.modFibre_agenda (s : State) (c n i : Nat) (f : Fibre → Fibre) : (s.modFibre c n i f).agenda = s.agenda := rfl
@[simp] theorem State.modFibre_work (s : State) (c n i : Nat) (f : Fibre → Fibre) : (s.modFibre c n i f).work = s.work := rfl
@[simp] theorem State.modFibre_turn (s : State) (c n i : Nat) (f : Fibre → Fibre) : (s.modFibre c n i f).turn = s.turn := rfl
@[simp] theorem State.modFibre_cur (s : State) (c n i : Nat) (f : Fibre → Fibre) : (s.modFibre c n i f).cur = s.cur := rfl
@[simp] theorem State.modFibre_par (s : State) (c n i : Nat) (f : Fibre → Fibre) : (s.modFibre c n i f).par = s.par := rfl
@[simp] theorem State.modFibre_curPorter (s : State) (c n i : Nat) (f : Fibre → Fibre) : (s.modFibre c n i f).curPorter = s.curPorter := rfl
@[simp] theorem State.modFibre_uid (s : State) (c n i : Nat) (f : Fibre → Fibre) : (s.modFibre c n i f).uid = s.uid := rfl
@[simp] theorem State.modFibre_freeCount (s : State) (c n i : Nat) (f : Fibre → Fibre) : (s.modFibre c n i f).freeCount = s.freeCount := rfl

@[simp] theorem State.modDie_mem (s : State) (d : Nat) (f : Die → Die) : (s.modDie d f).mem = s.mem := rfl
@[simp] theorem State.modDie_poison (s : State) (d : Nat) (f : Die → Die) : (s.modDie d f).poison = s.poison := rfl
@[simp] theorem State.modDie_cores (s : State) (d : Nat) (f : Die → Die) : (s.modDie d f).cores = s.cores := rfl
@[simp] theorem State.modDie_cbars (s : State) (d : Nat) (f : Die → Die) : (s.modDie d f).cbars = s.cbars := rfl
@[simp] theorem State.modDie_contexts (s : State) (d : Nat) (f : Die → Die) : (s.modDie d f).contexts = s.contexts := rfl
@[simp] theorem State.modDie_launches (s : State) (d : Nat) (f : Die → Die) : (s.modDie d f).launches = s.launches := rfl
@[simp] theorem State.modDie_saved (s : State) (d : Nat) (f : Die → Die) : (s.modDie d f).saved = s.saved := rfl
@[simp] theorem State.modDie_spOps (s : State) (d : Nat) (f : Die → Die) : (s.modDie d f).spOps = s.spOps := rfl
@[simp] theorem State.modDie_netArr (s : State) (d : Nat) (f : Die → Die) : (s.modDie d f).netArr = s.netArr := rfl
@[simp] theorem State.modDie_reports (s : State) (d : Nat) (f : Die → Die) : (s.modDie d f).reports = s.reports := rfl
@[simp] theorem State.modDie_qops (s : State) (d : Nat) (f : Die → Die) : (s.modDie d f).qops = s.qops := rfl
@[simp] theorem State.modDie_invPending (s : State) (d : Nat) (f : Die → Die) : (s.modDie d f).invPending = s.invPending := rfl
@[simp] theorem State.modDie_forum (s : State) (d : Nat) (f : Die → Die) : (s.modDie d f).forum = s.forum := rfl
@[simp] theorem State.modDie_agenda (s : State) (d : Nat) (f : Die → Die) : (s.modDie d f).agenda = s.agenda := rfl
@[simp] theorem State.modDie_work (s : State) (d : Nat) (f : Die → Die) : (s.modDie d f).work = s.work := rfl
@[simp] theorem State.modDie_turn (s : State) (d : Nat) (f : Die → Die) : (s.modDie d f).turn = s.turn := rfl
@[simp] theorem State.modDie_cur (s : State) (d : Nat) (f : Die → Die) : (s.modDie d f).cur = s.cur := rfl
@[simp] theorem State.modDie_par (s : State) (d : Nat) (f : Die → Die) : (s.modDie d f).par = s.par := rfl
@[simp] theorem State.modDie_curPorter (s : State) (d : Nat) (f : Die → Die) : (s.modDie d f).curPorter = s.curPorter := rfl
@[simp] theorem State.modDie_uid (s : State) (d : Nat) (f : Die → Die) : (s.modDie d f).uid = s.uid := rfl
@[simp] theorem State.modDie_freeCount (s : State) (d : Nat) (f : Die → Die) : (s.modDie d f).freeCount = s.freeCount := rfl

@[simp] theorem State.modForum_mem (s : State) (f : Forum → Forum) : (s.modForum f).mem = s.mem := rfl
@[simp] theorem State.modForum_poison (s : State) (f : Forum → Forum) : (s.modForum f).poison = s.poison := rfl
@[simp] theorem State.modForum_cores (s : State) (f : Forum → Forum) : (s.modForum f).cores = s.cores := rfl
@[simp] theorem State.modForum_cbars (s : State) (f : Forum → Forum) : (s.modForum f).cbars = s.cbars := rfl
@[simp] theorem State.modForum_dies (s : State) (f : Forum → Forum) : (s.modForum f).dies = s.dies := rfl
@[simp] theorem State.modForum_contexts (s : State) (f : Forum → Forum) : (s.modForum f).contexts = s.contexts := rfl
@[simp] theorem State.modForum_launches (s : State) (f : Forum → Forum) : (s.modForum f).launches = s.launches := rfl
@[simp] theorem State.modForum_saved (s : State) (f : Forum → Forum) : (s.modForum f).saved = s.saved := rfl
@[simp] theorem State.modForum_spOps (s : State) (f : Forum → Forum) : (s.modForum f).spOps = s.spOps := rfl
@[simp] theorem State.modForum_netArr (s : State) (f : Forum → Forum) : (s.modForum f).netArr = s.netArr := rfl
@[simp] theorem State.modForum_reports (s : State) (f : Forum → Forum) : (s.modForum f).reports = s.reports := rfl
@[simp] theorem State.modForum_qops (s : State) (f : Forum → Forum) : (s.modForum f).qops = s.qops := rfl
@[simp] theorem State.modForum_invPending (s : State) (f : Forum → Forum) : (s.modForum f).invPending = s.invPending := rfl
@[simp] theorem State.modForum_agenda (s : State) (f : Forum → Forum) : (s.modForum f).agenda = s.agenda := rfl
@[simp] theorem State.modForum_work (s : State) (f : Forum → Forum) : (s.modForum f).work = s.work := rfl
@[simp] theorem State.modForum_turn (s : State) (f : Forum → Forum) : (s.modForum f).turn = s.turn := rfl
@[simp] theorem State.modForum_cur (s : State) (f : Forum → Forum) : (s.modForum f).cur = s.cur := rfl
@[simp] theorem State.modForum_par (s : State) (f : Forum → Forum) : (s.modForum f).par = s.par := rfl
@[simp] theorem State.modForum_curPorter (s : State) (f : Forum → Forum) : (s.modForum f).curPorter = s.curPorter := rfl
@[simp] theorem State.modForum_uid (s : State) (f : Forum → Forum) : (s.modForum f).uid = s.uid := rfl
@[simp] theorem State.modForum_freeCount (s : State) (f : Forum → Forum) : (s.modForum f).freeCount = s.freeCount := rfl

@[simp] theorem State.modPorter_mem (s : State) (p : Nat) (f : Porter → Porter) : (s.modPorter p f).mem = s.mem := rfl
@[simp] theorem State.modPorter_poison (s : State) (p : Nat) (f : Porter → Porter) : (s.modPorter p f).poison = s.poison := rfl
@[simp] theorem State.modPorter_cores (s : State) (p : Nat) (f : Porter → Porter) : (s.modPorter p f).cores = s.cores := rfl
@[simp] theorem State.modPorter_cbars (s : State) (p : Nat) (f : Porter → Porter) : (s.modPorter p f).cbars = s.cbars := rfl
@[simp] theorem State.modPorter_dies (s : State) (p : Nat) (f : Porter → Porter) : (s.modPorter p f).dies = s.dies := rfl
@[simp] theorem State.modPorter_contexts (s : State) (p : Nat) (f : Porter → Porter) : (s.modPorter p f).contexts = s.contexts := rfl
@[simp] theorem State.modPorter_launches (s : State) (p : Nat) (f : Porter → Porter) : (s.modPorter p f).launches = s.launches := rfl
@[simp] theorem State.modPorter_saved (s : State) (p : Nat) (f : Porter → Porter) : (s.modPorter p f).saved = s.saved := rfl
@[simp] theorem State.modPorter_spOps (s : State) (p : Nat) (f : Porter → Porter) : (s.modPorter p f).spOps = s.spOps := rfl
@[simp] theorem State.modPorter_netArr (s : State) (p : Nat) (f : Porter → Porter) : (s.modPorter p f).netArr = s.netArr := rfl
@[simp] theorem State.modPorter_reports (s : State) (p : Nat) (f : Porter → Porter) : (s.modPorter p f).reports = s.reports := rfl
@[simp] theorem State.modPorter_qops (s : State) (p : Nat) (f : Porter → Porter) : (s.modPorter p f).qops = s.qops := rfl
@[simp] theorem State.modPorter_invPending (s : State) (p : Nat) (f : Porter → Porter) : (s.modPorter p f).invPending = s.invPending := rfl
@[simp] theorem State.modPorter_agenda (s : State) (p : Nat) (f : Porter → Porter) : (s.modPorter p f).agenda = s.agenda := rfl
@[simp] theorem State.modPorter_work (s : State) (p : Nat) (f : Porter → Porter) : (s.modPorter p f).work = s.work := rfl
@[simp] theorem State.modPorter_turn (s : State) (p : Nat) (f : Porter → Porter) : (s.modPorter p f).turn = s.turn := rfl
@[simp] theorem State.modPorter_cur (s : State) (p : Nat) (f : Porter → Porter) : (s.modPorter p f).cur = s.cur := rfl
@[simp] theorem State.modPorter_par (s : State) (p : Nat) (f : Porter → Porter) : (s.modPorter p f).par = s.par := rfl
@[simp] theorem State.modPorter_curPorter (s : State) (p : Nat) (f : Porter → Porter) : (s.modPorter p f).curPorter = s.curPorter := rfl
@[simp] theorem State.modPorter_uid (s : State) (p : Nat) (f : Porter → Porter) : (s.modPorter p f).uid = s.uid := rfl
@[simp] theorem State.modPorter_freeCount (s : State) (p : Nat) (f : Porter → Porter) : (s.modPorter p f).freeCount = s.freeCount := rfl

@[simp] theorem State.spawn_mem (s : State) (i : Instr) (p : Params) : (s.spawn i p).mem = s.mem := rfl
@[simp] theorem State.spawn_poison (s : State) (i : Instr) (p : Params) : (s.spawn i p).poison = s.poison := rfl
@[simp] theorem State.spawn_cores (s : State) (i : Instr) (p : Params) : (s.spawn i p).cores = s.cores := rfl
@[simp] theorem State.spawn_cbars (s : State) (i : Instr) (p : Params) : (s.spawn i p).cbars = s.cbars := rfl
@[simp] theorem State.spawn_dies (s : State) (i : Instr) (p : Params) : (s.spawn i p).dies = s.dies := rfl
@[simp] theorem State.spawn_contexts (s : State) (i : Instr) (p : Params) : (s.spawn i p).contexts = s.contexts := rfl
@[simp] theorem State.spawn_launches (s : State) (i : Instr) (p : Params) : (s.spawn i p).launches = s.launches := rfl
@[simp] theorem State.spawn_saved (s : State) (i : Instr) (p : Params) : (s.spawn i p).saved = s.saved := rfl
@[simp] theorem State.spawn_spOps (s : State) (i : Instr) (p : Params) : (s.spawn i p).spOps = s.spOps := rfl
@[simp] theorem State.spawn_netArr (s : State) (i : Instr) (p : Params) : (s.spawn i p).netArr = s.netArr := rfl
@[simp] theorem State.spawn_reports (s : State) (i : Instr) (p : Params) : (s.spawn i p).reports = s.reports := rfl
@[simp] theorem State.spawn_qops (s : State) (i : Instr) (p : Params) : (s.spawn i p).qops = s.qops := rfl
@[simp] theorem State.spawn_invPending (s : State) (i : Instr) (p : Params) : (s.spawn i p).invPending = s.invPending := rfl
@[simp] theorem State.spawn_forum (s : State) (i : Instr) (p : Params) : (s.spawn i p).forum = s.forum := rfl
@[simp] theorem State.spawn_agenda (s : State) (i : Instr) (p : Params) : (s.spawn i p).agenda = s.agenda := rfl
@[simp] theorem State.spawn_turn (s : State) (i : Instr) (p : Params) : (s.spawn i p).turn = s.turn := rfl
@[simp] theorem State.spawn_cur (s : State) (i : Instr) (p : Params) : (s.spawn i p).cur = s.cur := rfl
@[simp] theorem State.spawn_par (s : State) (i : Instr) (p : Params) : (s.spawn i p).par = s.par := rfl
@[simp] theorem State.spawn_curPorter (s : State) (i : Instr) (p : Params) : (s.spawn i p).curPorter = s.curPorter := rfl
@[simp] theorem State.spawn_uid (s : State) (i : Instr) (p : Params) : (s.spawn i p).uid = s.uid := rfl
@[simp] theorem State.spawn_freeCount (s : State) (i : Instr) (p : Params) : (s.spawn i p).freeCount = s.freeCount := rfl

-- keyed lists

@[simp] theorem assocGet_assocPut_same {α : Type} (d v : α) (l : List (Nat × α)) (k : Nat) : assocGet d (assocPut l k v) k = v := by
  induction l with
  | nil => simp [assocPut, assocGet]
  | cons x r ih =>
    obtain ⟨a, w⟩ := x
    by_cases h : a = k
    · simp [assocPut, assocGet, h]
    · simp [assocPut, assocGet, h, ih]

theorem assocGet_assocPut_ne {α : Type} (d v : α) (l : List (Nat × α)) {k j : Nat} (h : j ≠ k) :
    assocGet d (assocPut l k v) j = assocGet d l j := by
  induction l with
  | nil => simp [assocPut, assocGet, Ne.symm h]
  | cons x r ih =>
    obtain ⟨a, w⟩ := x
    by_cases ha : a = k
    · subst ha
      simp [assocPut, assocGet, Ne.symm h]
    · simp [assocPut, assocGet, ha, ih]

@[simp] theorem assocPut_assocPut {α : Type} (l : List (Nat × α)) (k : Nat) (v w : α) :
    assocPut (assocPut l k v) k w = assocPut l k w := by
  induction l with
  | nil => simp [assocPut]
  | cons x r ih =>
    obtain ⟨a, u⟩ := x
    by_cases h : a = k
    · simp [assocPut, h]
    · simp [assocPut, h, ih]

theorem modWhere_id {α : Type} {p : α → Bool} {f : α → α} {l : List α} (h : ∀ x ∈ l, p x → f x = x) : modWhere p f l = l := by
  unfold modWhere
  conv => rhs; rw [← List.map_id l]
  refine List.map_congr_left fun x hx => ?_
  by_cases hp : p x
  · simp [hp, h x hx hp]
  · simp [hp]

-- cores

@[simp] theorem State.core_setCore_same (s : State) (c : Nat) (k : Core) : (s.setCore c k).core c = k := by
  simp [State.core, State.setCore]

theorem State.core_setCore_ne (s : State) {c d : Nat} (k : Core) (h : d ≠ c) : (s.setCore c k).core d = s.core d := by
  simp [State.core, State.setCore, assocGet_assocPut_ne _ _ _ h]

@[simp] theorem State.setCore_setCore (s : State) (c : Nat) (k l : Core) : (s.setCore c k).setCore c l = s.setCore c l := by
  simp [State.setCore]

@[simp] theorem State.core_modCore_same (s : State) (c : Nat) (f : Core → Core) : (s.modCore c f).core c = f (s.core c) := by
  simp [State.modCore]

theorem State.core_modCore_ne (s : State) {c d : Nat} (f : Core → Core) (h : d ≠ c) : (s.modCore c f).core d = s.core d :=
  s.core_setCore_ne _ h

theorem State.modCore_modCore (s : State) (c : Nat) (f g : Core → Core) : (s.modCore c f).modCore c g = s.modCore c (g ∘ f) := by
  simp [State.modCore]

@[simp] theorem State.core_modDie (s : State) (d c : Nat) (f : Die → Die) : (s.modDie d f).core c = s.core c := rfl
@[simp] theorem State.core_modForum (s : State) (c : Nat) (f : Forum → Forum) : (s.modForum f).core c = s.core c := rfl
@[simp] theorem State.core_spawn (s : State) (c : Nat) (i : Instr) (p : Params) : (s.spawn i p).core c = s.core c := rfl
@[simp] theorem State.now_modCore (s : State) (c d : Nat) (f : Core → Core) : (s.modCore c f).now d = s.now d := rfl
@[simp] theorem State.now_modTeam (s : State) (c n d : Nat) (f : Team → Team) : (s.modTeam c n f).now d = s.now d := rfl
@[simp] theorem State.now_landTeam (s : State) (c n d : Nat) : (s.landTeam c n).now d = s.now d := rfl
@[simp] theorem State.cur_landTeam (s : State) (c n : Nat) : (s.landTeam c n).cur = s.cur := rfl

-- teams and fibres

/-- A change of a team that keeps its slot. -/
theorem Core.team?_modTeam_same (k : Core) (n : Nat) (f : Team → Team) (hf : ∀ t, (f t).slot = t.slot) :
    (k.modTeam n f).team? n = (k.team? n).map f := by
  unfold Core.team? Core.modTeam modWhere
  induction k.teams with
  | nil => rfl
  | cons t r ih =>
    by_cases h : t.slot = n
    · simp [h, hf]
    · simpa [h] using ih

theorem State.team?_modTeam_same (s : State) (c n : Nat) (f : Team → Team) (hf : ∀ t, (f t).slot = t.slot) :
    (s.modTeam c n f).team? c n = (s.team? c n).map f := by
  simp [State.team?, State.modTeam, Core.team?_modTeam_same _ _ _ hf]

theorem Core.modTeam_modTeam (k : Core) (n : Nat) (f g : Team → Team) (hf : ∀ t, (f t).slot = t.slot) :
    (k.modTeam n f).modTeam n g = k.modTeam n (g ∘ f) := by
  simp only [Core.modTeam, modWhere, List.map_map]
  congr 1
  refine List.map_congr_left fun t _ => ?_
  by_cases h : t.slot = n <;> simp [h, hf]

theorem State.modTeam_modTeam (s : State) (c n : Nat) (f g : Team → Team) (hf : ∀ t, (f t).slot = t.slot) :
    (s.modTeam c n f).modTeam c n g = s.modTeam c n (g ∘ f) := by
  simp only [State.modTeam, State.modCore_modCore]
  congr 1
  funext k
  exact k.modTeam_modTeam n f g hf

/-- Two changes of a team that agree on it. -/
theorem State.modTeam_congr (s : State) (c n : Nat) {f g : Team → Team} (h : ∀ t, t.slot = n → f t = g t) :
    s.modTeam c n f = s.modTeam c n g := by
  unfold State.modTeam
  congr 1
  funext k
  simp only [Core.modTeam, modWhere]
  congr 1
  refine List.map_congr_left fun t _ => ?_
  by_cases hn : t.slot = n <;> simp [hn, h]

theorem Team.fibre?_modWhere (fs : List Fibre) (i : Nat) (p : Fibre → Bool) (g : Fibre → Fibre) (hg : ∀ f, (g f).fid = f.fid) :
    (modWhere p g fs).find? (·.fid == i) = (fs.find? (·.fid == i)).map fun f => if p f then g f else f := by
  unfold modWhere
  induction fs with
  | nil => rfl
  | cons f r ih =>
    by_cases h : f.fid = i
    · by_cases hp : p f <;> simp [h, hp, hg]
    · by_cases hp : p f <;> simpa [h, hp, hg] using ih

end Sys2Proof.Machine
end

