-- ==== Sys2Proof/Laws/Issue.lean ====
section
/-!
SUPPORT. What the shared operations of an issue do, said once: a regular issue is its body and what follows it; what follows a body whose
fibres all complete is that the gang goes on; what delivering results owes.
-/
namespace Sys2Proof.Machine

open Sys2Proof

-- regular issues

theorem State.landed_cur (s : State) (i : Instr) (h : Hints) : (s.landed i h).cur = s.cur := by
  unfold State.landed
  simp only
  split
  · rfl
  · split <;> rfl

theorem filter_all {α : Type} {p : α → Bool} {l : List α} (h : l.all p = true) : l.filter p = l :=
  List.filter_eq_self.mpr (List.all_eq_true.mp h)

theorem Core.splitOff_nil (k : Core) (n r : Nat) : k.splitOff n [] r = k := rfl

theorem State.setCore_core_self {s : State} {c : Nat} {k : Core} (h : assocPut s.cores c k = s.cores) : s.setCore c k = s := by
  simp [State.setCore, h]

/-- A team that is there is in the list of cores. -/
theorem assocPut_self {α : Type} {d : α} {l : List (Nat × α)} {k : Nat} (h : k ∈ l.map (·.1)) : assocPut l k (assocGet d l k) = l := by
  induction l with
  | nil => simp at h
  | cons x r ih =>
    obtain ⟨a, w⟩ := x
    by_cases ha : a = k
    · simp [assocPut, assocGet, ha]
    · have : k ∈ r.map (·.1) := by simpa [Ne.symm ha] using h
      simp [assocPut, assocGet, ha, ih this]

theorem mem_keys_of_assocGet_ne {α : Type} {d : α} {l : List (Nat × α)} {k : Nat} (h : assocGet d l k ≠ d) : k ∈ l.map (·.1) := by
  induction l with
  | nil => simp [assocGet] at h
  | cons x r ih =>
    obtain ⟨a, w⟩ := x
    by_cases ha : a = k
    · simp [ha]
    · simp only [assocGet, ha, if_false] at h
      simp [ih h]

theorem State.modCore_self {s : State} {c n : Nat} {t : Team} (h : s.team? c n = some t) : s.modCore c (fun k => k) = s := by
  refine State.setCore_core_self (assocPut_self (d := Core.reset) (mem_keys_of_assocGet_ne (d := Core.reset) ?_))
  intro e
  simp only [State.team?, State.core, e] at h
  simp [Core.team?, Core.reset] at h

/-- A regular issue is the effect of the instruction, and what follows it. -/
theorem issueState_regular {i : Instr} {h : Hints} {chk : Ctx → State → List (Nat × Trap)}
    {body : Ctx → State → State × List (Nat × LaneRes)} {s : State} (hs : s.issues i h)
    (hc : chk (s.issueCtx i h) (s.landed i h) = []) :
    ∃ inrep, issueState i h chk body s =
      (body (s.issueCtx i h) (s.landed i h)).1.finish (s.issueCtx i h) h (body (s.issueCtx i h) (s.landed i h)).2 inrep := by
  unfold State.issues at hs
  simp only at hs
  split at hs
  case h_2 => simp at hs
  case h_1 t0 t e0 e1 =>
    simp only [Bool.and_eq_true, decide_eq_true_eq] at hs
    obtain ⟨⟨⟨⟨hne, hnd⟩, hlive⟩, hright⟩, hreg⟩ := hs
    have hfids : s.cur.fids.filter (fun fid => (t0.fibre? fid).isSome) = s.cur.fids := filter_all hlive
    obtain ⟨f, r, hf⟩ : ∃ f r, s.cur.fids = f :: r := by
      cases hh : s.cur.fids with
      | nil => simp [hh] at hne
      | cons f r => exact ⟨f, r, rfl⟩
    have hhead : (t0.fibre? f).isSome = true := by
      have := List.all_eq_true.mp hlive f (by simp [hf])
      exact this
    obtain ⟨f0, hf0⟩ := Option.isSome_iff_exists.mp hhead
    have hl : s.landed i h = (if h.w then (s.landTeam s.cur.core s.cur.slot).await s.cur.core s.cur.slot s.cur.fids (guardUse h :: uses t0.tar i)
        else s.landTeam s.cur.core s.cur.slot) := by
      unfold State.landed; simp only [e0]
    have hx : s.issueCtx i h = ⟨s.cur.core, s.cur.slot, s.cur.fids, s.cur.fids.filter (fun fid => ((t.fibre? fid).any fun (f : Fibre) => f.active h)),
        s.now s.cur.core, f0.pc, laneMask t s.cur.fids⟩ := by
      unfold State.issueCtx
      simp only [e0, e1, hf, List.head?_cons, Option.bind_some, hf0, Option.map_some, Option.getD_some]
    unfold regularIssue at hreg
    simp only [Bool.and_eq_true] at hreg
    obtain ⟨⟨⟨hg, hw⟩, hu⟩, _⟩ := hreg
    rw [hx] at hg hw hu
    simp only at hg hw hu
    have hlate : (if h.w = true then s.cur.fids.filter (fun fid => (t.fibre? fid).any fun (f : Fibre) => f.waitsFor t (guardUse h :: uses t0.tar i)) else []) = [] := by
      by_cases hhw : h.w = true
      · simp only [hhw, if_true, List.filter_eq_nil_iff]
        intro fid hfid
        have := List.all_eq_true.mp hg fid hfid
        split at this
        · simp at this
        · rename_i g hgf
          simp only [hhw, Bool.true_and, Bool.and_eq_true, Bool.not_eq_true'] at this
          simp [hgf, this.1.1.1]
      · simp [hhw]
    have hstale : (if t.sbchk = true then s.cur.fids.filterMap (fun fid => ((t.fibre? fid).bind (·.stale t (guardUse h :: uses t0.tar i))).map fun o => (fid, ({ cause := .stallShort, opnd := o } : Trap))) else []) = [] := by
      by_cases hsb : t.sbchk = true
      · simp only [hsb, if_true, List.filterMap_eq_nil_iff]
        intro fid hfid
        have := List.all_eq_true.mp hg fid hfid
        split at this
        · simp at this
        · rename_i g hgf
          simp only [hsb, Bool.true_and, Bool.and_eq_true, Bool.not_eq_true', Option.isSome_eq_false_iff, Option.isNone_iff_eq_none] at this
          simp [hgf, this.1.1.2]
      · simp [hsb]
    have hbound : s.cur.fids.any (fun fid => ((t.fibre? fid).map (·.bond)).getD 0 != 0) = false := by
      rw [List.any_eq_false]
      intro fid hfid
      have := List.all_eq_true.mp hg fid hfid
      split at this
      · simp at this
      · rename_i g hgf
        simp only [Bool.and_eq_true, beq_iff_eq] at this
        simp [hgf, this.1.2]
    have hwin : (s.cur.fids.filter (fun fid => ((t.fibre? fid).any fun (f : Fibre) => f.active h))).filterMap (fun fid => ((t.fibre? fid).bind (·.windowFault (uses t0.tar i))).map fun o => (fid, ({ cause := .windowRange, opnd := o } : Trap))) = [] := by
      simp only [List.filterMap_eq_nil_iff]
      intro fid hfid
      have := List.all_eq_true.mp hw fid hfid
      split at this
      · simp at this
      · rename_i g hgf
        simp only [Option.isNone_iff_eq_none] at this
        simp [hgf, this]
    have huni : (uses t0.tar i).find? (fun u => u.uni && !(differing (s.issueCtx i h) (s.landed i h) u).isEmpty) = none := by
      rw [List.find?_eq_none]
      intro u hmem
      have := List.all_eq_true.mp hu u hmem
      rw [hx]
      simp only [Bool.or_eq_true, Bool.not_eq_true'] at this
      rcases this with h1 | h1 <;> simp [h1]
    refine ⟨f0.rep.isSome || isRepPrefix i, ?_⟩
    have hself : (s.landed i h).modCore s.cur.core (·.splitOff s.cur.slot [] (s.now s.cur.core + 1)) = s.landed i h := by
      simpa [Core.splitOff_nil] using State.modCore_self e1
    have hh0 : s.cur.fids.head?.bind t0.fibre? = some f0 := by simp [hf, hf0]
    have hgo : s.cur.fids.filter (fun fid => !(([] : List Nat).contains fid)) = s.cur.fids := by simp
    have hem : s.cur.fids.isEmpty = false := by simp [hf]
    unfold issueState issueUses
    simp only [e0, State.cur_landTeam, hfids, hh0, hright, Bool.not_true, Bool.false_eq_true, if_false, ← hl, e1]
    simp only [hlate, hgo, hem, hbound, hself, hstale, hwin, engineWide, Bool.false_and, Bool.or_false, Bool.false_eq_true, if_false, List.isEmpty_nil,
      Bool.not_true]
    rw [← hx]
    simp only [huni, hc]

-- what follows an instruction

@[simp] theorem Fibre.advance_fid (f : Fibre) : f.advance.fid = f.fid := by
  unfold Fibre.advance
  split
  · rfl
  · repeat' split
    all_goals rfl

@[simp] theorem Fibre.advance_stepping (f : Fibre) : f.advance.stepping = f.stepping := by
  unfold Fibre.advance
  split
  · rfl
  · repeat' split
    all_goals rfl

@[simp] theorem Fibre.advance_pend (f : Fibre) : f.advance.pend = f.pend := by
  unfold Fibre.advance
  split
  · rfl
  · repeat' split
    all_goals rfl

@[simp] theorem LaneRes.go_fid (r : LaneRes) (f : Fibre) : (r.go f).fid = f.fid := by
  unfold LaneRes.go
  split <;> first | simp [Fibre.jump]; done | (split <;> simp) | rfl

@[simp] theorem LaneRes.go_stepping (r : LaneRes) (f : Fibre) : (r.go f).stepping = f.stepping := by
  unfold LaneRes.go
  split <;> first | simp [Fibre.jump]; done | (split <;> simp) | rfl

theorem State.bare_modCore (s : State) (c : Nat) (f : Core → Core) (hf : ∀ k, (f k).noGangs = k.noGangs) :
    (s.modCore c f).bare c = s.bare c := by
  unfold State.bare
  rw [State.modCore_modCore]
  exact congrArg (fun g => (s.modCore c g).noWork) (funext hf)

theorem State.bare_work (s : State) (c : Nat) (w : List (Instr × Params)) : ({ s with work := w } : State).bare c = s.bare c := rfl

theorem State.bare_spawnOnce (s : State) (c : Nat) (i : Instr) (p : Params) : (s.spawnOnce i p).bare c = s.bare c := by
  unfold State.spawnOnce
  split <;> rfl

/-- Making the gang table good changes nothing but who may move next. -/
@[simp] theorem State.bare_regang (s : State) (c : Nat) : (s.regang c).bare c = s.bare c := by
  have h1 : (s.modCore c (·.regang)).bare c = s.bare c := s.bare_modCore c _ fun _ => rfl
  unfold State.regang
  simp only
  split
  · rw [State.bare_spawnOnce, h1]
  · exact h1

theorem State.team?_modCore_teams (s : State) (c n : Nat) (f : Core → Core) (hf : ∀ k : Core, (f k).teams = k.teams) :
    (s.modCore c f).team? c n = s.team? c n := by
  simp [State.team?, Core.team?, hf]

@[simp] theorem State.team?_regang (s : State) (c n : Nat) : (s.regang c).team? c n = s.team? c n := by
  have h1 : (s.modCore c (·.regang)).team? c n = s.team? c n := s.team?_modCore_teams c n _ fun _ => rfl
  unfold State.regang
  simp only
  split
  · unfold State.spawnOnce
    split <;> exact h1
  · exact h1

theorem State.trapSome_nil (s : State) (c n : Nat) (pc : BitVec 56) (r : Bool) :
    s.trapSome c n pc r [] = s ∨ s.trapSome c n pc r [] = s.regang c := by
  unfold State.trapSome
  split
  · exact .inl rfl
  · exact .inr rfl

@[simp] theorem State.bare_trapSome_nil (s : State) (c n : Nat) (pc : BitVec 56) (r : Bool) : (s.trapSome c n pc r []).bare c = s.bare c := by
  rcases s.trapSome_nil c n pc r with h | h <;> simp [h]

@[simp] theorem State.team?_trapSome_nil (s : State) (c n : Nat) (pc : BitVec 56) (r : Bool) :
    (s.trapSome c n pc r []).team? c n = s.team? c n := by
  rcases s.trapSome_nil c n pc r with h | h <;> simp [h]

theorem State.forceWaiters_calm (s : State) (c n : Nat) (fids : List Nat) (h : ∀ t, s.team? c n = some t → t.preempt = none) :
    s.forceWaiters c n fids = s := by
  unfold State.forceWaiters
  split
  · rfl
  · rename_i t ht
    simp [h t ht]

@[simp] theorem Team.modGang_slot (t : Team) (fids : List Nat) (f : Fibre → Fibre) : (t.modGang fids f).slot = t.slot := rfl
@[simp] theorem Team.modGang_preempt (t : Team) (fids : List Nat) (f : Fibre → Fibre) : (t.modGang fids f).preempt = t.preempt := rfl

theorem Team.fibre?_modGang (t : Team) (fids : List Nat) (f : Fibre → Fibre) (hf : ∀ g, (f g).fid = g.fid) (i : Nat) :
    (t.modGang fids f).fibre? i = (t.fibre? i).map fun g => if fids.contains g.fid then f g else g :=
  Team.fibre?_modWhere t.fibres i _ f hf

theorem Team.modGang_modGang (t : Team) (fids : List Nat) (f g : Fibre → Fibre) (hf : ∀ x, (f x).fid = x.fid) :
    (t.modGang fids f).modGang fids g = t.modGang fids fun x => g (f x) := by
  simp only [Team.modGang, modWhere, List.map_map]
  congr 1
  refine List.map_congr_left fun x _ => ?_
  by_cases hx : fids.contains x.fid <;> simp only [Function.comp_apply, hx, if_true, if_false, hf, Bool.false_eq_true]

theorem Team.modGang_congr (t : Team) (fids : List Nat) {f g : Fibre → Fibre} (h : ∀ x, fids.contains x.fid = true → f x = g x) :
    t.modGang fids f = t.modGang fids g := by
  simp only [Team.modGang, modWhere]
  congr 1
  refine List.map_congr_left fun x _ => ?_
  by_cases hx : fids.contains x.fid <;> simp only [hx, if_true, if_false, h, Bool.false_eq_true]

/-- The stall of a gang (R55) is in its fibres as well as in its entry. -/
theorem State.bare_stall (s : State) (c n : Nat) (fids : List Nat) (r : Nat) :
    (s.modCore c (·.stall n fids r)).bare c = (s.modTeam c n (·.modGang fids fun f => { f with ready := max f.ready r })).bare c := by
  unfold State.bare State.modTeam
  rw [State.modCore_modCore, State.modCore_modCore]
  rfl

theorem State.team?_stall (s : State) (c n : Nat) (fids : List Nat) (r : Nat) :
    (s.modCore c (·.stall n fids r)).team? c n = (s.team? c n).map (·.modGang fids fun f => { f with ready := max f.ready r }) := by
  have : (s.modTeam c n (·.modGang fids fun f => { f with ready := max f.ready r })).team? c n = _ := s.team?_modTeam_same c n _ fun _ => rfl
  rw [← this]
  simp [State.team?, State.modTeam, Core.team?, Core.stall, Core.holdUntil, Core.modTeam, Team.modGang]

theorem State.modGang_modGang (s : State) (c n : Nat) (fids : List Nat) (f g : Fibre → Fibre) (hf : ∀ x, (f x).fid = x.fid) :
    (s.modTeam c n (·.modGang fids f)).modTeam c n (·.modGang fids g) = s.modTeam c n (·.modGang fids fun x => g (f x)) := by
  rw [State.modTeam_modTeam s c n (·.modGang fids f) (·.modGang fids g) fun _ => rfl]
  congr 1
  funext t
  exact t.modGang_modGang fids f g hf

theorem State.team?_modGang (s : State) (c n : Nat) (fids : List Nat) (f : Fibre → Fibre) :
    (s.modTeam c n (·.modGang fids f)).team? c n = (s.team? c n).map (·.modGang fids f) :=
  s.team?_modTeam_same c n _ fun _ => rfl

theorem LaneRes.calm_waits {r : LaneRes} (h : r.calm = true) : r.waits = false := by
  cases r <;> first | rfl | cases h

theorem LaneRes.calm_trap? {r : LaneRes} (h : r.calm = true) : r.trap? = none := by
  cases r <;> first | rfl | cases h

/-- What follows a body whose fibres complete or wait for another party: the gang goes on, and issues nothing before S cycles have passed
(R55). -/
theorem State.finish_calm {s : State} {x : Ctx} {h : Hints} {res : List (Nat × LaneRes)} {inrep : Bool}
    (hres : ∀ fid ∈ x.gang, (assocGet .done res fid).calm = true)
    (hteam : ∀ t, s.team? x.core x.slot = some t →
      t.preempt = none ∧ ∀ fid ∈ x.gang, ∀ f, t.fibre? fid = some f → f.stepping = false) :
    (s.finish x h res inrep).bare x.core = (s.proceed x h fun f => (assocGet .done res f.fid).go f).bare x.core := by
  let resOf (fid : Nat) : LaneRes := assocGet .done res fid
  let go : Fibre → Fibre := fun f => (resOf f.fid).go f
  have hwait : x.gang.filter (fun fid => (resOf fid).waits) = [] := by
    rw [List.filter_eq_nil_iff]
    intro fid hf
    simp [resOf, LaneRes.calm_waits (hres fid hf)]
  have htrap : x.gang.filterMap (fun fid => (resOf fid).trap?.map (fid, ·)) = [] := by
    rw [List.filterMap_eq_nil_iff]
    intro fid hf
    simp [resOf, LaneRes.calm_trap? (hres fid hf)]
  generalize h2 : (s.modTeam x.core x.slot (·.modGang x.gang go)).modCore x.core
    (·.stall x.slot x.gang (x.now + max h.s.toNat 1)) = s2
  have e2 : s2.bare x.core = (s.proceed x h go).bare x.core := by
    rw [← h2, State.bare_stall, State.modGang_modGang _ _ _ _ _ _ fun f => LaneRes.go_fid _ f]
    rfl
  have ht2 : ∀ t, s2.team? x.core x.slot = some t →
      t.preempt = none ∧ ∀ fid ∈ x.gang, ∀ f, t.fibre? fid = some f → f.stepping = false := by
    intro t ht
    rw [← h2, State.team?_stall, State.team?_modGang] at ht
    simp only [Option.map_map, Option.map_eq_some_iff] at ht
    obtain ⟨t0, h0, rfl⟩ := ht
    obtain ⟨hp, hs⟩ := hteam t0 h0
    refine ⟨hp, fun fid hm f hf => ?_⟩
    simp only [Function.comp_apply] at hf
    rw [Team.modGang_modGang _ _ _ _ fun f => LaneRes.go_fid _ f] at hf
    rw [Team.fibre?_modGang _ _ _ (by intro f; exact LaneRes.go_fid _ f)] at hf
    obtain ⟨g, hg, rfl⟩ := Option.map_eq_some_iff.mp hf
    have := hs fid hm g hg
    split <;> simp [this]
  have hstep : ∀ s' : State, s'.team? x.core x.slot = s2.team? x.core x.slot →
      x.gang.filter (fun fid => (resOf fid).completes &&
        (s'.fibre? x.core x.slot fid).any fun f => f.stepping && f.run == RunState.running) = [] := by
    intro s' hs'
    rw [List.filter_eq_nil_iff]
    intro fid hf
    cases ht : s2.team? x.core x.slot with
    | none => simp [State.fibre?, hs', ht]
    | some t =>
      cases hfi : t.fibre? fid with
      | none => simp [State.fibre?, hs', ht, hfi]
      | some f => simp [State.fibre?, hs', ht, hfi, (ht2 t ht).2 fid hf f hfi]
  unfold State.finish
  simp only
  rw [show (x.gang.filter fun fid => (assocGet LaneRes.done res fid).waits) = [] from hwait,
    show (x.gang.filterMap fun fid => (assocGet LaneRes.done res fid).trap?.map (fid, ·)) = [] from htrap]
  simp only [Core.splitOff_nil, show (x.gang.filter fun fid => !([] : List Nat).contains fid) = x.gang from filter_all (by simp)]
  rw [show (s.modTeam x.core x.slot fun t => t.modGang x.gang fun f => (assocGet LaneRes.done res f.fid).go f) =
    s.modTeam x.core x.slot (·.modGang x.gang go) from rfl, h2, hstep _ (by simp)]
  simp only [List.map_nil]
  rw [State.bare_regang, State.forceWaiters_calm, State.bare_trapSome_nil, State.bare_trapSome_nil, e2]
  intro t ht
  simp only [State.team?_trapSome_nil] at ht
  exact (ht2 t ht).1

-- delivering results

theorem Fibre.oweOperand_eq (f : Fibre) (o : Operand) (wide : Bool) (v : BitVec 64) (due : Due) (id : Nat) :
    f.oweOperand o wide v due id = f.owes (owedTo due id (o, wide, v)) := by
  cases o <;> cases wide <;> simp [Fibre.oweOperand, Fibre.owe, Fibre.owes, owedTo]

theorem Fibre.oweAll_eq (f : Fibre) (rs : List Result) (due : Due) (id : Nat) :
    rs.foldl (fun f r => f.oweOperand r.1 r.2.1 r.2.2 due id) f = f.owes (rs.flatMap (owedTo due id)) := by
  induction rs generalizing f with
  | nil => simp [Fibre.owes]
  | cons r rs ih =>
    rw [List.foldl_cons, ih, Fibre.oweOperand_eq]
    simp [Fibre.owes]

theorem Team.oweResult_eq (t : Team) (role : Role) (due : Due) (id : Nat) (fids : List Nat) (r : Result) :
    t.oweResult role due id fids r = t.owes (owedUniform role due id fids r) := by
  obtain ⟨o, wide, v⟩ := r
  cases o <;> cases wide <;> simp [Team.oweResult, owedUniform, Team.oweUniform, Team.owes]

theorem owedUniform_other {role : Role} {due : Due} {id : Nat} {fids : List Nat} {r : Result} (h : Operand.isUniform r.1 = false) :
    owedUniform role due id fids r = [] := by
  obtain ⟨o, wide, v⟩ := r
  cases o <;> first | rfl | cases h

theorem Result.cut_low (v : BitVec 64) : (v &&& 0xFFFFFFFF#64).extractLsb' 0 32 = v.extractLsb' 0 32 := by
  ext i hi
  have h : (0xFFFFFFFF#64).getLsbD i = true := by
    have : ∀ j : Fin 32, (0xFFFFFFFF#64).getLsbD j.val = true := by decide
    exact this ⟨i, hi⟩
  simp only [BitVec.getElem_extractLsb', BitVec.getLsbD_and, Nat.zero_add, h, Bool.and_true]

theorem owedUniform_cut (role : Role) (due : Due) (id : Nat) (fids : List Nat) (r : Result) :
    owedUniform role due id fids r.cut = owedUniform role due id fids r := by
  obtain ⟨o, wide, v⟩ := r
  cases o <;> cases wide <;> simp [Result.cut, owedUniform, Result.cut_low]

theorem Team.oweUniforms_eq (t : Team) (rs : List Result) (role : Role) (due : Due) (id : Nat) (fids : List Nat) :
    ((rs.filter fun r => Operand.isUniform r.1).map Result.cut).foldl (·.oweResult role due id fids ·) t =
      t.owes (rs.flatMap (owedUniform role due id fids)) := by
  induction rs generalizing t with
  | nil => simp [Team.owes]
  | cons r rs ih =>
    by_cases h : Operand.isUniform r.1 = true
    · rw [List.filter_cons_of_pos (by simpa using h), List.map_cons, List.foldl_cons, ih, Team.oweResult_eq, owedUniform_cut]
      simp [Team.owes]
    · have h' : Operand.isUniform r.1 = false := by simpa using h
      rw [List.filter_cons_of_neg (by simpa using h), ih]
      simp [owedUniform_other h']

theorem foldl_modFibre (s : State) (c n : Nat) (A : Team → Team) (g : List Result → Fibre → Fibre) (outs : List (Nat × List Result))
    (hA : ∀ t, (A t).slot = t.slot) :
    outs.foldl (fun s p => s.modFibre c n p.1 (g p.2)) (s.modTeam c n A) =
      s.modTeam c n fun t => (A t).mapFibres fun fs => outs.foldl (fun fs p => modWhere (·.fid == p.1) (g p.2) fs) fs := by
  induction outs generalizing A with
  | nil => rfl
  | cons p r ih =>
    have e : (s.modTeam c n A).modFibre c n p.1 (g p.2) = s.modTeam c n fun t => (A t).modFibre p.1 (g p.2) :=
      s.modTeam_modTeam c n A _ hA
    rw [List.foldl_cons, e, ih (fun t => (A t).modFibre p.1 (g p.2)) hA]
    rfl

theorem foldl_modWhere_fids (g : List Result → Fibre → Fibre) (hg : ∀ rs f, (g rs f).fid = f.fid) (outs : List (Nat × List Result))
    (hnd : (outs.map (·.1)).Nodup) (fs : List Fibre) :
    outs.foldl (fun fs p => modWhere (·.fid == p.1) (g p.2) fs) fs =
      fs.map fun f => match outs.find? (·.1 == f.fid) with | some p => g p.2 f | none => f := by
  induction outs generalizing fs with
  | nil => simp
  | cons p r ih =>
    simp only [List.map_cons, List.nodup_cons] at hnd
    rw [List.foldl_cons, ih hnd.2, modWhere, List.map_map]
    refine List.map_congr_left fun f _ => ?_
    by_cases h : f.fid = p.1
    · have hr : r.find? (fun q => q.1 == p.1) = none := by
        rw [List.find?_eq_none]
        intro q hq hqp
        exact hnd.1 (List.mem_map.mpr ⟨q, hq, by simpa using hqp⟩)
      simp [h, hg, hr]
    · simp [h, Ne.symm h]

theorem assocGet_find? {α : Type} (d : α) (l : List (Nat × α)) (k : Nat) : assocGet d l k = ((l.find? (·.1 == k)).map (·.2)).getD d := by
  induction l with
  | nil => rfl
  | cons x r ih =>
    obtain ⟨a, v⟩ := x
    by_cases h : a = k <;> simp [assocGet, h, ih]

/-- Lanes that agree on their uniform registers are owed their results, and none of them waits or traps. -/
theorem State.deliver_owed {s : State} {x : Ctx} {due : Due} {outs : List (Nat × List Result)} (hagree : outsAgree outs = true)
    (hnd : (outs.map (·.1)).Nodup) (ht : (s.team? x.core x.slot).isSome = true) :
    s.deliver x due outs = (s.owed x due outs, []) := by
  obtain ⟨t, ht⟩ := Option.isSome_iff_exists.mp ht
  cases outs with
  | nil => rfl
  | cons o r =>
    have hdiff : ((o :: r).filter fun p => (p.2.filter fun q => Operand.isUniform q.1).map Result.cut !=
        (o.2.filter fun q => Operand.isUniform q.1).map Result.cut) = [] := by
      rw [List.filter_eq_nil_iff]
      intro p hp
      have := List.all_eq_true.mp hagree p hp
      simpa using this
    have hnd' := foldl_modWhere_fids (fun rs f => f.owes (rs.flatMap (owedTo due s.uid))) (fun _ _ => rfl) (o :: r) hnd
    unfold State.deliver State.owed
    simp only [ht, hdiff, List.map_nil, List.isEmpty_nil, Bool.not_true, Bool.false_eq_true, if_false, State.fresh, Team.oweUniforms_eq,
      Fibre.oweAll_eq]
    rw [foldl_modFibre _ x.core x.slot (fun t => t.owes (o.2.flatMap
        (owedUniform (({ s with uid := s.uid + 1 } : State).fibreRole x.core x.slot o.1) due s.uid ((o :: r).map (·.1)))))
      (fun rs f => f.owes (rs.flatMap (owedTo due s.uid))) (o :: r) fun _ => rfl]
    simp only [hnd']
    have hf : ∀ f : Fibre, (match (o :: r).find? (·.1 == f.fid) with
        | some p => f.owes (p.2.flatMap (owedTo due s.uid)) | none => f) = f.owes ((assocGet [] (o :: r) f.fid).flatMap (owedTo due s.uid)) := by
      intro f
      rw [assocGet_find?]
      cases (o :: r).find? (·.1 == f.fid) <;> simp [Fibre.owes]
    simp only [hf]
    rfl

/-- What a regular issue gives its effect to work with. -/
theorem State.issues_facts {s : State} {i : Instr} {h : Hints} (hs : s.issues i h) :
    (s.issueCtx i h).core = s.cur.core ∧ (s.issueCtx i h).slot = s.cur.slot ∧ (s.issueCtx i h).gang = s.cur.fids ∧
    (s.issueCtx i h).act.Nodup ∧ (s.issueCtx i h).now = s.now s.cur.core ∧
    ∃ t, (s.landed i h).team? s.cur.core s.cur.slot = some t ∧ t.preempt = none ∧
      ∀ fid ∈ s.cur.fids, ∀ f, t.fibre? fid = some f → f.stepping = false := by
  unfold State.issues at hs
  simp only at hs
  split at hs
  case h_2 => simp at hs
  case h_1 t0 t e0 e1 =>
    simp only [Bool.and_eq_true, decide_eq_true_eq] at hs
    obtain ⟨⟨⟨⟨_, hnd⟩, _⟩, _⟩, hreg⟩ := hs
    have hx : (s.issueCtx i h).core = s.cur.core ∧ (s.issueCtx i h).slot = s.cur.slot ∧ (s.issueCtx i h).gang = s.cur.fids ∧
        (s.issueCtx i h).act.Nodup ∧ (s.issueCtx i h).now = s.now s.cur.core := by
      unfold State.issueCtx
      simp only [e1]
      exact ⟨trivial, trivial, trivial, hnd.filter _, trivial⟩
    unfold regularIssue at hreg
    simp only [Bool.and_eq_true, Option.isNone_iff_eq_none] at hreg
    obtain ⟨⟨⟨hg, _⟩, _⟩, hp⟩ := hreg
    refine ⟨hx.1, hx.2.1, hx.2.2.1, hx.2.2.2.1, hx.2.2.2.2, t, e1, hp, fun fid hf f hfi => ?_⟩
    have := List.all_eq_true.mp hg fid (by rw [hx.2.2.1]; exact hf)
    simp only [hfi, Bool.and_eq_true, Bool.not_eq_true'] at this
    exact this.2

theorem Fibre.owes_stepping (f : Fibre) (ws : List PendW) : (f.owes ws).stepping = f.stepping := rfl

/-- Owing results leaves the fibres of a team where they are. -/
theorem State.team?_owed {s : State} {x : Ctx} {due : Due} {outs : List (Nat × List Result)} {t' : Team}
    (h : (s.owed x due outs).team? x.core x.slot = some t') :
    ∃ t, s.team? x.core x.slot = some t ∧ t'.preempt = t.preempt ∧
      ∀ fid f', t'.fibre? fid = some f' → ∃ f, t.fibre? fid = some f ∧ f'.stepping = f.stepping := by
  cases outs with
  | nil => exact ⟨t', h, rfl, fun fid f' hf => ⟨f', hf, rfl⟩⟩
  | cons o r =>
    unfold State.owed at h
    simp only at h
    have h1 : ((s.modTeam x.core x.slot fun t => (t.owes (o.2.flatMap (owedUniform (s.fibreRole x.core x.slot o.1) due s.uid
        ((o :: r).map (·.1))))).mapFibres (·.map fun f => f.owes ((assocGet [] (o :: r) f.fid).flatMap (owedTo due s.uid)))).team?
        x.core x.slot) = some t' := h
    rw [State.team?_modTeam_same _ _ _ _ (by intro t; rfl)] at h1
    obtain ⟨t, ht, rfl⟩ := Option.map_eq_some_iff.mp h1
    refine ⟨t, ht, rfl, fun fid f' hf => ?_⟩
    have hm := Team.fibre?_modWhere t.fibres fid (fun _ => true)
      (fun f => f.owes ((assocGet [] (o :: r) f.fid).flatMap (owedTo due s.uid))) fun _ => rfl
    simp only [modWhere, if_true] at hm
    have hf' : ((t.fibres.map fun f => f.owes ((assocGet [] (o :: r) f.fid).flatMap (owedTo due s.uid))).find? (·.fid == fid)) = some f' := hf
    rw [hm] at hf'
    obtain ⟨f, hfi, rfl⟩ := Option.map_eq_some_iff.mp hf'
    exact ⟨f, hfi, rfl⟩

/-- A regular issue whose body only owes results. -/
theorem issue_owes {i : Instr} {h : Hints} {chk : Ctx → State → List (Nat × Trap)} {body : Ctx → State → State × List (Nat × LaneRes)}
    {s : State} {due : Due} {outs : List (Nat × List Result)} (hs : s.issues i h) (hc : chk (s.issueCtx i h) (s.landed i h) = [])
    (hb : body (s.issueCtx i h) (s.landed i h) = (s.landed i h).deliver (s.issueCtx i h) due outs)
    (ha : outsAgree outs = true) (hn : (outs.map (·.1)).Nodup) :
    State.becomes (issue i h chk body s) s.cur.core (((s.landed i h).owed (s.issueCtx i h) due outs).advanced (s.issueCtx i h) h) := by
  obtain ⟨inrep, he⟩ := issueState_regular (body := body) hs hc
  obtain ⟨hxc, hxs, hxg, hxa, hxn, t, ht, hp, hst⟩ := State.issues_facts hs
  refine ⟨_, rfl, ?_⟩
  rw [he, hb, State.deliver_owed ha hn (by rw [hxc, hxs, ht]; rfl)]
  have hfin := State.finish_calm (s := (s.landed i h).owed (s.issueCtx i h) due outs) (x := s.issueCtx i h) (h := h) (res := [])
    (inrep := inrep) (fun _ _ => rfl) fun t' ht' => by
      obtain ⟨t1, ht1, hpe, hfe⟩ := State.team?_owed ht'
      rw [hxc, hxs, ht] at ht1
      cases ht1
      refine ⟨by rw [hpe, hp], fun fid hf f' hf' => ?_⟩
      obtain ⟨f, hf1, hfs⟩ := hfe fid f' hf'
      rw [hfs]
      exact hst fid (by rw [← hxg]; exact hf) f hf1
  rw [hxc] at hfin
  exact hfin

/-- The results of an instruction that computes in each lane: what its regular issue comes to. -/
theorem issue_computes {i : Instr} {h : Hints} {chk : Ctx → State → List (Nat × Trap)} {lat : Nat} {g : Ctx → State → Nat → List Result}
    {s : State} (hs : s.issues i h) (hc : chk (s.issueCtx i h) (s.landed i h) = [])
    (ha : outsAgree ((s.issueCtx i h).act.map fun fid => (fid, g (s.issueCtx i h) (s.landed i h) fid)) = true) :
    State.becomes (issue i h chk (computeBody lat g) s) s.cur.core
      (((s.landed i h).owed (s.issueCtx i h) (.at (s.now s.cur.core + lat))
        ((s.issueCtx i h).act.map fun fid => (fid, g (s.issueCtx i h) (s.landed i h) fid))).advanced (s.issueCtx i h) h) := by
  obtain ⟨_, _, _, hxa, hxn, _⟩ := State.issues_facts hs
  refine issue_owes hs hc ?_ ha ?_
  · unfold computeBody
    rw [hxn]
  · simpa [Function.comp_def] using hxa

/-- A regular issue whose fibres complete or wait for another party. -/
theorem issue_calm {i : Instr} {h : Hints} {chk : Ctx → State → List (Nat × Trap)} {body : Ctx → State → State × List (Nat × LaneRes)}
    {s e : State} {res : List (Nat × LaneRes)} (hs : s.issues i h) (hc : chk (s.issueCtx i h) (s.landed i h) = [])
    (hb : body (s.issueCtx i h) (s.landed i h) = (e, res)) (hres : ∀ fid ∈ s.cur.fids, (assocGet .done res fid).calm = true)
    (hteam : ∀ t, e.team? s.cur.core s.cur.slot = some t →
      t.preempt = none ∧ ∀ fid ∈ s.cur.fids, ∀ f, t.fibre? fid = some f → f.stepping = false) :
    State.becomes (issue i h chk body s) s.cur.core
      (e.proceed (s.issueCtx i h) h fun f => (assocGet .done res f.fid).go f) := by
  obtain ⟨inrep, he⟩ := issueState_regular (body := body) hs hc
  obtain ⟨hxc, hxs, hxg, _⟩ := State.issues_facts hs
  refine ⟨_, rfl, ?_⟩
  rw [he, hb]
  have hfin := State.finish_calm (s := e) (x := s.issueCtx i h) (h := h) (res := res) (inrep := inrep)
    (by rw [hxg]; exact hres) (by rw [hxc, hxs, hxg]; exact hteam)
  rw [hxc] at hfin
  exact hfin

end Sys2Proof.Machine
end

