-- ==== Sys2Proof/Laws/Mem.lean ====
section
/-!
SUPPORT. The sparse stores: a read after a write, and that every operation keeps the canonical form, in which equal stores are equal
data.
-/
namespace Sys2Proof.Machine

open Sys2Proof

variable {α : Type} [DecidableEq α]

theorem sparseWfFrom_mono {d : α} {lo lo' : Nat} {l : List (Nat × α)} (hl : lo' ≤ lo) (h : sparseWfFrom d lo l) :
    sparseWfFrom d lo' l := by
  cases l with
  | nil => rfl
  | cons x r =>
    simp only [sparseWfFrom, Bool.and_eq_true, decide_eq_true_eq] at h ⊢
    exact ⟨⟨by omega, h.1.2⟩, h.2⟩

theorem sparsePut_wfFrom {d : α} {lo : Nat} {l : List (Nat × α)} {k : Nat} {v : α} (h : sparseWfFrom d lo l) (hk : lo ≤ k) :
    sparseWfFrom d lo (sparsePut d l k v) := by
  induction l generalizing lo with
  | nil => by_cases hv : v = d <;> simp [sparsePut, sparseWfFrom, hv, hk]
  | cons x r ih =>
    obtain ⟨a, w⟩ := x
    simp only [sparseWfFrom, Bool.and_eq_true, decide_eq_true_eq] at h
    obtain ⟨⟨ha, hw⟩, hr⟩ := h
    by_cases h1 : k = a
    · subst h1
      by_cases hv : v = d
      · simpa [sparsePut, hv] using sparseWfFrom_mono (by omega) hr
      · simp [sparsePut, sparseWfFrom, hv, hk, hr]
    · by_cases h2 : k < a
      · by_cases hv : v = d
        · simp [sparsePut, sparseWfFrom, h1, h2, hv, ha, hw, hr]
        · simp [sparsePut, sparseWfFrom, h1, h2, hv, hk, hw, hr] <;> omega
      · simp [sparsePut, sparseWfFrom, h1, h2, ha, hw, ih hr (by omega)]

/-- A store keeps the canonical form. -/
theorem sparsePut_wf {d : α} {l : List (Nat × α)} (h : sparseWf d l) (k : Nat) (v : α) : sparseWf d (sparsePut d l k v) :=
  sparsePut_wfFrom h (Nat.zero_le k)

theorem sparseGet_below {d : α} {lo : Nat} {l : List (Nat × α)} (h : sparseWfFrom d lo l) {k : Nat} (hk : k < lo) :
    sparseGet d l k = d := by
  cases l with
  | nil => rfl
  | cons x r =>
    simp only [sparseWfFrom, Bool.and_eq_true, decide_eq_true_eq] at h
    have h1 : k ≠ x.1 := by omega
    have h2 : k < x.1 := by omega
    simp [sparseGet, h1, h2]

/-- A read after a write of one key of a canonical store. -/
theorem sparseGet_sparsePut {d : α} {l : List (Nat × α)} (h : sparseWf d l) (k : Nat) (v : α) (j : Nat) :
    sparseGet d (sparsePut d l k v) j = if j = k then v else sparseGet d l j := by
  suffices H : ∀ lo, sparseWfFrom d lo l → sparseGet d (sparsePut d l k v) j = if j = k then v else sparseGet d l j from H 0 h
  clear h
  intro lo h
  induction l generalizing lo with
  | nil =>
    by_cases hv : v = d
    · simp [sparsePut, sparseGet, hv]
    · by_cases hj : j = k <;> simp [sparsePut, sparseGet, hv, hj]
  | cons x r ih =>
    obtain ⟨a, w⟩ := x
    simp only [sparseWfFrom, Bool.and_eq_true, decide_eq_true_eq] at h
    obtain ⟨⟨ha, hw⟩, hr⟩ := h
    by_cases h1 : k = a
    · subst h1
      by_cases hv : v = d
      · by_cases hj : j = k
        · simp [sparsePut, hv, hj, sparseGet_below hr (Nat.lt_succ_self k)]
        · by_cases hl : j < k
          · simp [sparsePut, hv, hj, sparseGet, hl, sparseGet_below hr (Nat.lt_succ_of_lt hl)]
          · simp [sparsePut, hv, hj, sparseGet, hl]
      · by_cases hj : j = k <;> simp [sparsePut, hv, hj, sparseGet]
    · by_cases h2 : k < a
      · by_cases hv : v = d
        · by_cases hj : j = k
          · subst hj; simp [sparsePut, hv, h1, h2, sparseGet]
          · simp [sparsePut, hv, h1, h2, hj]
        · by_cases hj : j = k
          · simp [sparsePut, hv, h1, h2, hj, sparseGet]
          · by_cases hl : j < k
            · have hja : j ≠ a := by omega
              have hla : j < a := by omega
              simp [sparsePut, hv, h1, h2, hj, sparseGet, hl, hja, hla]
            · simp [sparsePut, hv, h1, h2, hj, sparseGet, hl]
      · by_cases hja : j = a
        · subst hja
          simp [sparsePut, h1, h2, sparseGet, Ne.symm h1]
        · by_cases hla : j < a
          · have hj : j ≠ k := by omega
            simp [sparsePut, h1, h2, sparseGet, hja, hla, hj]
          · simp [sparsePut, h1, h2, sparseGet, hja, hla, ih _ hr]

-- memory

theorem Memory.put_wf {m : List Host.Cell} (h : Memory.wf m) (a : Nat) (b : Byte) : Memory.wf (Memory.put m a b) := sparsePut_wf h a b

theorem Memory.putBytes_wf {m : List Host.Cell} (h : Memory.wf m) (a : Nat) (bs : List Byte) : Memory.wf (Memory.putBytes m a bs) := by
  induction bs generalizing m a with
  | nil => exact h
  | cons b r ih => exact ih (Memory.put_wf h a b) (a + 1)

theorem Memory.write_wf {m : List Host.Cell} (h : Memory.wf m) (a n v : Nat) : Memory.wf (Memory.write m a n v) := Memory.putBytes_wf h a _

theorem Memory.writeMasked_wf {m : List Host.Cell} (h : Memory.wf m) (a mask v n : Nat) : Memory.wf (Memory.writeMasked m a mask v n) := by
  induction n generalizing m a mask v with
  | zero => exact h
  | succ n ih =>
    by_cases hm : mask.testBit 0
    · simpa only [Memory.writeMasked, hm, if_true] using ih (Memory.put_wf h a _) _ _ _
    · simp only [Memory.writeMasked, hm]
      exact ih h _ _ _

theorem Memory.get_put {m : List Host.Cell} (h : Memory.wf m) (a : Nat) (b : Byte) (j : Nat) :
    Memory.get (Memory.put m a b) j = if j = a then b else Memory.get m j := sparseGet_sparsePut h a b j

/-- A byte after a string of bytes was written. -/
theorem Memory.get_putBytes {m : List Host.Cell} (h : Memory.wf m) (a : Nat) (bs : List Byte) (j : Nat) :
    Memory.get (Memory.putBytes m a bs) j = if a ≤ j ∧ j < a + bs.length then bs.getD (j - a) 0 else Memory.get m j := by
  induction bs generalizing m a with
  | nil => simp [Memory.putBytes] <;> omega
  | cons b r ih =>
    simp only [Memory.putBytes, ih (Memory.put_wf h a b), Memory.get_put h, List.length_cons]
    by_cases hj : j = a
    · subst hj
      have c : ¬(j + 1 ≤ j ∧ j < j + 1 + r.length) := by omega
      simp [c]
    · by_cases hr : a + 1 ≤ j ∧ j < a + 1 + r.length
      · have e : j - a = (j - (a + 1)) + 1 := by omega
        have c : a ≤ j ∧ j < a + (r.length + 1) := by omega
        rw [if_pos hr, if_pos c, e, List.getD_cons_succ]
      · have c : ¬(a ≤ j ∧ j < a + (r.length + 1)) := by omega
        rw [if_neg hr, if_neg c, if_neg hj]

@[simp] theorem leBytes_length (v n : Nat) : (leBytes v n).length = n := by
  induction n generalizing v with
  | zero => rfl
  | succ n ih => simp [leBytes, ih]

/-- A write of `n` bytes leaves every other byte alone. -/
theorem Memory.get_write_outside {m : List Host.Cell} (h : Memory.wf m) (a n v j : Nat) (hj : j < a ∨ a + n ≤ j) :
    Memory.get (Memory.write m a n v) j = Memory.get m j := by
  rw [Memory.write, Memory.get_putBytes h, leBytes_length]
  have c : ¬(a ≤ j ∧ j < a + n) := by omega
  simp [c]

/-- Reset memory is canonical. -/
theorem State.reset_mem_wf : Memory.wf State.reset.mem := rfl

end Sys2Proof.Machine
end

