-- ==== Sys2Proof/Laws/PerInstr.lean ====
section
/-!
SUPPORT. What each instruction's encoding is a row of: the family Encoding, one lemma per constructor.
-/
namespace Sys2Proof.Laws

set_option Elab.async false

open Sys2Proof

def opField (w : IWord) : Nat := (w.extractLsb' 0 8).toNat

def subField (w : IWord) : Nat := (w.extractLsb' 8 4).toNat

theorem opField_packWord (h : Hints) (m : BitVec 9) (x : BitVec 32) (b a d : Operand) (sub op : Nat) :
    opField (packWord h m x b a d sub op) = op % 256 := by
  unfold opField packWord
  rw [BitVec.extractLsb'_append_eq_of_add_le (by omega)]
  simp

theorem subField_packWord (h : Hints) (m : BitVec 9) (x : BitVec 32) (b a d : Operand) (sub op : Nat) :
    subField (packWord h m x b a d sub op) = sub % 16 := by
  unfold subField packWord
  rw [BitVec.extractLsb'_append_eq_of_le (by omega), BitVec.extractLsb'_append_eq_of_add_le (by omega)]
  simp

/-- The opcode map has a row for OP and SUB, and R65 does not leave OP unassigned. -/
def rowListed (op sub : Nat) : Bool := !opUnassigned op && rows.any fun r => r.op == op && r.sub == sub

theorem listed_packWord (h : Hints) (m : BitVec 9) (x : BitVec 32) (b a d : Operand) (sub op : Nat) (p : rowListed (op % 256) (sub % 16) = true) :
    rowListed (opField (packWord h m x b a d sub op)) (subField (packWord h m x b a d sub op)) = true := by
  rw [opField_packWord, subField_packWord]
  exact p

theorem packBoster_opc (opc : BitVec 6) (d a b : BitVec 4) (imm : BitVec 14) (h : opc.toNat < 16) :
    ((packBoster opc d a b imm).extractLsb' 26 6).toNat < 16 := by
  have e : (packBoster opc d a b imm).extractLsb' 26 6 = opc := by
    unfold packBoster
    rw [BitVec.extractLsb'_append_eq_of_le (by omega), BitVec.extractLsb'_append_eq_of_le (by omega),
      BitVec.extractLsb'_append_eq_of_le (by omega), BitVec.extractLsb'_append_eq_of_le (by omega)]
    simp
  rw [e]
  exact h

theorem bli_opc (d : BitVec 4) (i : BitVec 22) : ((1#6 ++ d ++ i).extractLsb' 26 6).toNat < 16 := by
  have e : (1#6 ++ d ++ i).extractLsb' 26 6 = 1#6 := by
    rw [BitVec.extractLsb'_append_eq_of_le (by omega), BitVec.extractLsb'_append_eq_of_le (by omega)]
    simp
  rw [e]
  decide

/-- The encoding of a well-formed instruction: a fibre's word of a listed OP and SUB, or of an unassigned OP; a Boster word of an OPC of
R421, or a reserved one; or none, for a machine event. -/
def Encoding.Statement (i : Instr) : Prop :=
  wf i = true → match encode i with
    | .fibre w => rowListed (opField w) (subField w) = true ∨ i = .unassignedOpcode w
    | .boster w => (w.extractLsb' 26 6).toNat < 16 ∨ i = .bosterReservedWord w
    | .none => isEvent i = true

theorem Encoding.nop (f : FR) : Encoding.Statement (.nop f) := fun _ => .inl (listed_packWord _ _ _ _ _ _ _ _ (by decide +kernel))

theorem Encoding.add (f : FR) : Encoding.Statement (.add f) := fun _ => .inl (listed_packWord _ _ _ _ _ _ _ _ (by decide +kernel))

theorem Encoding.addI (f : FI) : Encoding.Statement (.addI f) := fun _ => .inl (listed_packWord _ _ _ _ _ _ _ _ (by decide +kernel))

theorem Encoding.sub (f : FR) : Encoding.Statement (.sub f) := fun _ => .inl (listed_packWord _ _ _ _ _ _ _ _ (by decide +kernel))

theorem Encoding.subI (f : FI) : Encoding.Statement (.subI f) := fun _ => .inl (listed_packWord _ _ _ _ _ _ _ _ (by decide +kernel))

theorem Encoding.mul (f : FR) : Encoding.Statement (.mul f) := fun _ => .inl (listed_packWord _ _ _ _ _ _ _ _ (by decide +kernel))

theorem Encoding.mulI (f : FI) : Encoding.Statement (.mulI f) := fun _ => .inl (listed_packWord _ _ _ _ _ _ _ _ (by decide +kernel))

theorem Encoding.mulhi (f : FR) : Encoding.Statement (.mulhi f) := fun _ => .inl (listed_packWord _ _ _ _ _ _ _ _ (by decide +kernel))

theorem Encoding.mulhiI (f : FI) : Encoding.Statement (.mulhiI f) := fun _ => .inl (listed_packWord _ _ _ _ _ _ _ _ (by decide +kernel))

theorem Encoding.mad (f : FR) : Encoding.Statement (.mad f) := fun _ => .inl (listed_packWord _ _ _ _ _ _ _ _ (by decide +kernel))

theorem Encoding.madw (f : FR) : Encoding.Statement (.madw f) := fun _ => .inl (listed_packWord _ _ _ _ _ _ _ _ (by decide +kernel))

theorem Encoding.min (f : FR) : Encoding.Statement (.min f) := fun _ => .inl (listed_packWord _ _ _ _ _ _ _ _ (by decide +kernel))

theorem Encoding.minI (f : FI) : Encoding.Statement (.minI f) := fun _ => .inl (listed_packWord _ _ _ _ _ _ _ _ (by decide +kernel))

theorem Encoding.max (f : FR) : Encoding.Statement (.max f) := fun _ => .inl (listed_packWord _ _ _ _ _ _ _ _ (by decide +kernel))

theorem Encoding.maxI (f : FI) : Encoding.Statement (.maxI f) := fun _ => .inl (listed_packWord _ _ _ _ _ _ _ _ (by decide +kernel))

theorem Encoding.abs (f : FR) : Encoding.Statement (.abs f) := fun _ => .inl (listed_packWord _ _ _ _ _ _ _ _ (by decide +kernel))

theorem Encoding.neg (f : FR) : Encoding.Statement (.neg f) := fun _ => .inl (listed_packWord _ _ _ _ _ _ _ _ (by decide +kernel))

theorem Encoding.and (f : FR) : Encoding.Statement (.and f) := fun _ => .inl (listed_packWord _ _ _ _ _ _ _ _ (by decide +kernel))

theorem Encoding.andI (f : FI) : Encoding.Statement (.andI f) := fun _ => .inl (listed_packWord _ _ _ _ _ _ _ _ (by decide +kernel))

theorem Encoding.or (f : FR) : Encoding.Statement (.or f) := fun _ => .inl (listed_packWord _ _ _ _ _ _ _ _ (by decide +kernel))

theorem Encoding.orI (f : FI) : Encoding.Statement (.orI f) := fun _ => .inl (listed_packWord _ _ _ _ _ _ _ _ (by decide +kernel))

theorem Encoding.xor (f : FR) : Encoding.Statement (.xor f) := fun _ => .inl (listed_packWord _ _ _ _ _ _ _ _ (by decide +kernel))

theorem Encoding.xorI (f : FI) : Encoding.Statement (.xorI f) := fun _ => .inl (listed_packWord _ _ _ _ _ _ _ _ (by decide +kernel))

theorem Encoding.not (f : FR) : Encoding.Statement (.not f) := fun _ => .inl (listed_packWord _ _ _ _ _ _ _ _ (by decide +kernel))

theorem Encoding.shl (f : FR) : Encoding.Statement (.shl f) := fun _ => .inl (listed_packWord _ _ _ _ _ _ _ _ (by decide +kernel))

theorem Encoding.shlI (f : FI) : Encoding.Statement (.shlI f) := fun _ => .inl (listed_packWord _ _ _ _ _ _ _ _ (by decide +kernel))

theorem Encoding.shr (f : FR) : Encoding.Statement (.shr f) := fun _ => .inl (listed_packWord _ _ _ _ _ _ _ _ (by decide +kernel))

theorem Encoding.shrI (f : FI) : Encoding.Statement (.shrI f) := fun _ => .inl (listed_packWord _ _ _ _ _ _ _ _ (by decide +kernel))

theorem Encoding.sar (f : FR) : Encoding.Statement (.sar f) := fun _ => .inl (listed_packWord _ _ _ _ _ _ _ _ (by decide +kernel))

theorem Encoding.sarI (f : FI) : Encoding.Statement (.sarI f) := fun _ => .inl (listed_packWord _ _ _ _ _ _ _ _ (by decide +kernel))

theorem Encoding.rot (f : FR) : Encoding.Statement (.rot f) := fun _ => .inl (listed_packWord _ _ _ _ _ _ _ _ (by decide +kernel))

theorem Encoding.rotI (f : FI) : Encoding.Statement (.rotI f) := fun _ => .inl (listed_packWord _ _ _ _ _ _ _ _ (by decide +kernel))

theorem Encoding.clz (f : FR) : Encoding.Statement (.clz f) := fun _ => .inl (listed_packWord _ _ _ _ _ _ _ _ (by decide +kernel))

theorem Encoding.popc (f : FR) : Encoding.Statement (.popc f) := fun _ => .inl (listed_packWord _ _ _ _ _ _ _ _ (by decide +kernel))

theorem Encoding.brev (f : FR) : Encoding.Statement (.brev f) := fun _ => .inl (listed_packWord _ _ _ _ _ _ _ _ (by decide +kernel))

theorem Encoding.bfx (f : FR) : Encoding.Statement (.bfx f) := fun _ => .inl (listed_packWord _ _ _ _ _ _ _ _ (by decide +kernel))

theorem Encoding.bfi (f : FR) : Encoding.Statement (.bfi f) := fun _ => .inl (listed_packWord _ _ _ _ _ _ _ _ (by decide +kernel))

theorem Encoding.sel (f : FR) : Encoding.Statement (.sel f) := fun _ => .inl (listed_packWord _ _ _ _ _ _ _ _ (by decide +kernel))

theorem Encoding.cmp (f : FR) : Encoding.Statement (.cmp f) := fun _ => .inl (listed_packWord _ _ _ _ _ _ _ _ (by decide +kernel))

theorem Encoding.cmpI (f : FI) : Encoding.Statement (.cmpI f) := fun _ => .inl (listed_packWord _ _ _ _ _ _ _ _ (by decide +kernel))

theorem Encoding.lea (f : FR) : Encoding.Statement (.lea f) := fun _ => .inl (listed_packWord _ _ _ _ _ _ _ _ (by decide +kernel))

theorem Encoding.leaI (f : FI) : Encoding.Statement (.leaI f) := fun _ => .inl (listed_packWord _ _ _ _ _ _ _ _ (by decide +kernel))

theorem Encoding.mov (f : FR) : Encoding.Statement (.mov f) := fun _ => .inl (listed_packWord _ _ _ _ _ _ _ _ (by decide +kernel))

theorem Encoding.movk (f : FR) : Encoding.Statement (.movk f) := fun _ => .inl (listed_packWord _ _ _ _ _ _ _ _ (by decide +kernel))

theorem Encoding.ldi (f : FI) : Encoding.Statement (.ldi f) := fun _ => .inl (listed_packWord _ _ _ _ _ _ _ _ (by decide +kernel))

theorem Encoding.ldiHi (f : FI) : Encoding.Statement (.ldiHi f) := fun _ => .inl (listed_packWord _ _ _ _ _ _ _ _ (by decide +kernel))

theorem Encoding.gets (f : FR) : Encoding.Statement (.gets f) := fun _ => .inl (listed_packWord _ _ _ _ _ _ _ _ (by decide +kernel))

theorem Encoding.pand (f : FR) : Encoding.Statement (.pand f) := fun _ => .inl (listed_packWord _ _ _ _ _ _ _ _ (by decide +kernel))

theorem Encoding.por (f : FR) : Encoding.Statement (.por f) := fun _ => .inl (listed_packWord _ _ _ _ _ _ _ _ (by decide +kernel))

theorem Encoding.pxor (f : FR) : Encoding.Statement (.pxor f) := fun _ => .inl (listed_packWord _ _ _ _ _ _ _ _ (by decide +kernel))

theorem Encoding.pnot (f : FR) : Encoding.Statement (.pnot f) := fun _ => .inl (listed_packWord _ _ _ _ _ _ _ _ (by decide +kernel))

theorem Encoding.pmov (f : FR) : Encoding.Statement (.pmov f) := fun _ => .inl (listed_packWord _ _ _ _ _ _ _ _ (by decide +kernel))

theorem Encoding.pmovWRead (f : FR) : Encoding.Statement (.pmovWRead f) := fun _ => .inl (listed_packWord _ _ _ _ _ _ _ _ (by decide +kernel))

theorem Encoding.pmovWWrite (f : FR) : Encoding.Statement (.pmovWWrite f) := fun _ => .inl (listed_packWord _ _ _ _ _ _ _ _ (by decide +kernel))

theorem Encoding.fadd (f : FR) : Encoding.Statement (.fadd f) := fun _ => .inl (listed_packWord _ _ _ _ _ _ _ _ (by decide +kernel))

theorem Encoding.faddPk (f : FR) : Encoding.Statement (.faddPk f) := fun _ => .inl (listed_packWord _ _ _ _ _ _ _ _ (by decide +kernel))

theorem Encoding.fsub (f : FR) : Encoding.Statement (.fsub f) := fun _ => .inl (listed_packWord _ _ _ _ _ _ _ _ (by decide +kernel))

theorem Encoding.fsubPk (f : FR) : Encoding.Statement (.fsubPk f) := fun _ => .inl (listed_packWord _ _ _ _ _ _ _ _ (by decide +kernel))

theorem Encoding.fmul (f : FR) : Encoding.Statement (.fmul f) := fun _ => .inl (listed_packWord _ _ _ _ _ _ _ _ (by decide +kernel))

theorem Encoding.fmulPk (f : FR) : Encoding.Statement (.fmulPk f) := fun _ => .inl (listed_packWord _ _ _ _ _ _ _ _ (by decide +kernel))

theorem Encoding.ffma (f : FR) : Encoding.Statement (.ffma f) := fun _ => .inl (listed_packWord _ _ _ _ _ _ _ _ (by decide +kernel))

theorem Encoding.ffmaPk (f : FR) : Encoding.Statement (.ffmaPk f) := fun _ => .inl (listed_packWord _ _ _ _ _ _ _ _ (by decide +kernel))

theorem Encoding.fmin (f : FR) : Encoding.Statement (.fmin f) := fun _ => .inl (listed_packWord _ _ _ _ _ _ _ _ (by decide +kernel))

theorem Encoding.fminPk (f : FR) : Encoding.Statement (.fminPk f) := fun _ => .inl (listed_packWord _ _ _ _ _ _ _ _ (by decide +kernel))

theorem Encoding.fmax (f : FR) : Encoding.Statement (.fmax f) := fun _ => .inl (listed_packWord _ _ _ _ _ _ _ _ (by decide +kernel))

theorem Encoding.fmaxPk (f : FR) : Encoding.Statement (.fmaxPk f) := fun _ => .inl (listed_packWord _ _ _ _ _ _ _ _ (by decide +kernel))

theorem Encoding.fcmp (f : FR) : Encoding.Statement (.fcmp f) := fun _ => .inl (listed_packWord _ _ _ _ _ _ _ _ (by decide +kernel))

theorem Encoding.frcp (f : FR) : Encoding.Statement (.frcp f) := fun _ => .inl (listed_packWord _ _ _ _ _ _ _ _ (by decide +kernel))

theorem Encoding.frcpPk (f : FR) : Encoding.Statement (.frcpPk f) := fun _ => .inl (listed_packWord _ _ _ _ _ _ _ _ (by decide +kernel))

theorem Encoding.frsq (f : FR) : Encoding.Statement (.frsq f) := fun _ => .inl (listed_packWord _ _ _ _ _ _ _ _ (by decide +kernel))

theorem Encoding.frsqPk (f : FR) : Encoding.Statement (.frsqPk f) := fun _ => .inl (listed_packWord _ _ _ _ _ _ _ _ (by decide +kernel))

theorem Encoding.fsqrt (f : FR) : Encoding.Statement (.fsqrt f) := fun _ => .inl (listed_packWord _ _ _ _ _ _ _ _ (by decide +kernel))

theorem Encoding.fsqrtPk (f : FR) : Encoding.Statement (.fsqrtPk f) := fun _ => .inl (listed_packWord _ _ _ _ _ _ _ _ (by decide +kernel))

theorem Encoding.fexp2 (f : FR) : Encoding.Statement (.fexp2 f) := fun _ => .inl (listed_packWord _ _ _ _ _ _ _ _ (by decide +kernel))

theorem Encoding.fexp2Pk (f : FR) : Encoding.Statement (.fexp2Pk f) := fun _ => .inl (listed_packWord _ _ _ _ _ _ _ _ (by decide +kernel))

theorem Encoding.flog2 (f : FR) : Encoding.Statement (.flog2 f) := fun _ => .inl (listed_packWord _ _ _ _ _ _ _ _ (by decide +kernel))

theorem Encoding.flog2Pk (f : FR) : Encoding.Statement (.flog2Pk f) := fun _ => .inl (listed_packWord _ _ _ _ _ _ _ _ (by decide +kernel))

theorem Encoding.fsin (f : FR) : Encoding.Statement (.fsin f) := fun _ => .inl (listed_packWord _ _ _ _ _ _ _ _ (by decide +kernel))

theorem Encoding.fsinPk (f : FR) : Encoding.Statement (.fsinPk f) := fun _ => .inl (listed_packWord _ _ _ _ _ _ _ _ (by decide +kernel))

theorem Encoding.fcos (f : FR) : Encoding.Statement (.fcos f) := fun _ => .inl (listed_packWord _ _ _ _ _ _ _ _ (by decide +kernel))

theorem Encoding.fcosPk (f : FR) : Encoding.Statement (.fcosPk f) := fun _ => .inl (listed_packWord _ _ _ _ _ _ _ _ (by decide +kernel))

theorem Encoding.ftanh (f : FR) : Encoding.Statement (.ftanh f) := fun _ => .inl (listed_packWord _ _ _ _ _ _ _ _ (by decide +kernel))

theorem Encoding.ftanhPk (f : FR) : Encoding.Statement (.ftanhPk f) := fun _ => .inl (listed_packWord _ _ _ _ _ _ _ _ (by decide +kernel))

theorem Encoding.frnd (f : FR) : Encoding.Statement (.frnd f) := fun _ => .inl (listed_packWord _ _ _ _ _ _ _ _ (by decide +kernel))

theorem Encoding.frndPk (f : FR) : Encoding.Statement (.frndPk f) := fun _ => .inl (listed_packWord _ _ _ _ _ _ _ _ (by decide +kernel))

theorem Encoding.cvt (f : FR) : Encoding.Statement (.cvt f) := fun _ => .inl (listed_packWord _ _ _ _ _ _ _ _ (by decide +kernel))

theorem Encoding.cvtPk (f : FR) : Encoding.Statement (.cvtPk f) := fun _ => .inl (listed_packWord _ _ _ _ _ _ _ _ (by decide +kernel))

theorem Encoding.cvti (f : FR) : Encoding.Statement (.cvti f) := fun _ => .inl (listed_packWord _ _ _ _ _ _ _ _ (by decide +kernel))

theorem Encoding.pk (f : FR) : Encoding.Statement (.pk f) := fun _ => .inl (listed_packWord _ _ _ _ _ _ _ _ (by decide +kernel))

theorem Encoding.upk (f : FR) : Encoding.Statement (.upk f) := fun _ => .inl (listed_packWord _ _ _ _ _ _ _ _ (by decide +kernel))

theorem Encoding.sclq (f : FR) : Encoding.Statement (.sclq f) := fun _ => .inl (listed_packWord _ _ _ _ _ _ _ _ (by decide +kernel))

theorem Encoding.sclget (f : FR) : Encoding.Statement (.sclget f) := fun _ => .inl (listed_packWord _ _ _ _ _ _ _ _ (by decide +kernel))

theorem Encoding.sclgetClr (f : FR) : Encoding.Statement (.sclgetClr f) := fun _ => .inl (listed_packWord _ _ _ _ _ _ _ _ (by decide +kernel))

theorem Encoding.crng (f : FR) : Encoding.Statement (.crng f) := fun _ => .inl (listed_packWord _ _ _ _ _ _ _ _ (by decide +kernel))

theorem Encoding.shflPick (f : FR) : Encoding.Statement (.shflPick f) := fun _ => .inl (listed_packWord _ _ _ _ _ _ _ _ (by decide +kernel))

theorem Encoding.shflShift (f : FR) : Encoding.Statement (.shflShift f) := fun _ => .inl (listed_packWord _ _ _ _ _ _ _ _ (by decide +kernel))

theorem Encoding.shflRot (f : FR) : Encoding.Statement (.shflRot f) := fun _ => .inl (listed_packWord _ _ _ _ _ _ _ _ (by decide +kernel))

theorem Encoding.shflMir (f : FR) : Encoding.Statement (.shflMir f) := fun _ => .inl (listed_packWord _ _ _ _ _ _ _ _ (by decide +kernel))

theorem Encoding.voteEvery (f : FR) : Encoding.Statement (.voteEvery f) := fun _ => .inl (listed_packWord _ _ _ _ _ _ _ _ (by decide +kernel))

theorem Encoding.voteSome (f : FR) : Encoding.Statement (.voteSome f) := fun _ => .inl (listed_packWord _ _ _ _ _ _ _ _ (by decide +kernel))

theorem Encoding.voteMask (f : FR) : Encoding.Statement (.voteMask f) := fun _ => .inl (listed_packWord _ _ _ _ _ _ _ _ (by decide +kernel))

theorem Encoding.voteCount (f : FR) : Encoding.Statement (.voteCount f) := fun _ => .inl (listed_packWord _ _ _ _ _ _ _ _ (by decide +kernel))

theorem Encoding.redux (op : RedOp) (f : FR) : Encoding.Statement (.redux op f) :=
  fun _ => .inl (listed_packWord _ _ _ _ _ _ _ _ (by cases op <;> decide +kernel))

theorem Encoding.scan (op : RedOp) (f : FR) : Encoding.Statement (.scan op f) :=
  fun _ => .inl (listed_packWord _ _ _ _ _ _ _ _ (by cases op <;> decide +kernel))

theorem Encoding.scanEx (op : RedOp) (f : FR) : Encoding.Statement (.scanEx op f) :=
  fun _ => .inl (listed_packWord _ _ _ _ _ _ _ _ (by cases op <;> decide +kernel))

theorem Encoding.matchPeers (f : FR) : Encoding.Statement (.matchPeers f) := fun _ => .inl (listed_packWord _ _ _ _ _ _ _ _ (by decide +kernel))

theorem Encoding.matchFirst (f : FR) : Encoding.Statement (.matchFirst f) := fun _ => .inl (listed_packWord _ _ _ _ _ _ _ _ (by decide +kernel))

theorem Encoding.matchSame (f : FR) : Encoding.Statement (.matchSame f) := fun _ => .inl (listed_packWord _ _ _ _ _ _ _ _ (by decide +kernel))

theorem Encoding.lsync (f : FR) : Encoding.Statement (.lsync f) := fun _ => .inl (listed_packWord _ _ _ _ _ _ _ _ (by decide +kernel))

theorem Encoding.bra (f : FC) : Encoding.Statement (.bra f) := fun _ => .inl (listed_packWord _ _ _ _ _ _ _ _ (by decide +kernel))

theorem Encoding.brx (f : FR) : Encoding.Statement (.brx f) := fun _ => .inl (listed_packWord _ _ _ _ _ _ _ _ (by decide +kernel))

theorem Encoding.call (f : FC) : Encoding.Statement (.call f) := fun _ => .inl (listed_packWord _ _ _ _ _ _ _ _ (by decide +kernel))

theorem Encoding.calli (f : FR) : Encoding.Statement (.calli f) := fun _ => .inl (listed_packWord _ _ _ _ _ _ _ _ (by decide +kernel))

theorem Encoding.ret (f : FR) : Encoding.Statement (.ret f) := fun _ => .inl (listed_packWord _ _ _ _ _ _ _ _ (by decide +kernel))

theorem Encoding.retTrap (f : FR) : Encoding.Statement (.retTrap f) := fun _ => .inl (listed_packWord _ _ _ _ _ _ _ _ (by decide +kernel))

theorem Encoding.fork (f : FC) : Encoding.Statement (.fork f) := fun _ => .inl (listed_packWord _ _ _ _ _ _ _ _ (by decide +kernel))

theorem Encoding.exit (f : FR) : Encoding.Statement (.exit f) := fun _ => .inl (listed_packWord _ _ _ _ _ _ _ _ (by decide +kernel))

theorem Encoding.yield (f : FR) : Encoding.Statement (.yield f) := fun _ => .inl (listed_packWord _ _ _ _ _ _ _ _ (by decide +kernel))

theorem Encoding.trap (f : FI) : Encoding.Statement (.trap f) := fun _ => .inl (listed_packWord _ _ _ _ _ _ _ _ (by decide +kernel))

theorem Encoding.brk (f : FI) : Encoding.Statement (.brk f) := fun _ => .inl (listed_packWord _ _ _ _ _ _ _ _ (by decide +kernel))

theorem Encoding.rep (f : FP) : Encoding.Statement (.rep f) := fun _ => .inl (listed_packWord _ _ _ _ _ _ _ _ (by decide +kernel))

theorem Encoding.ld (f : FM) : Encoding.Statement (.ld f) := fun _ => .inl (listed_packWord _ _ _ _ _ _ _ _ (by decide +kernel))

theorem Encoding.ldAcq (f : FM) : Encoding.Statement (.ldAcq f) := fun _ => .inl (listed_packWord _ _ _ _ _ _ _ _ (by decide +kernel))

theorem Encoding.st (f : FM) : Encoding.Statement (.st f) := fun _ => .inl (listed_packWord _ _ _ _ _ _ _ _ (by decide +kernel))

theorem Encoding.stRel (f : FM) : Encoding.Statement (.stRel f) := fun _ => .inl (listed_packWord _ _ _ _ _ _ _ _ (by decide +kernel))

theorem Encoding.lds (f : FM) : Encoding.Statement (.lds f) := fun _ => .inl (listed_packWord _ _ _ _ _ _ _ _ (by decide +kernel))

theorem Encoding.sts (f : FM) : Encoding.Statement (.sts f) := fun _ => .inl (listed_packWord _ _ _ _ _ _ _ _ (by decide +kernel))

theorem Encoding.ldx (f : FM) : Encoding.Statement (.ldx f) := fun _ => .inl (listed_packWord _ _ _ _ _ _ _ _ (by decide +kernel))

theorem Encoding.stx (f : FM) : Encoding.Statement (.stx f) := fun _ => .inl (listed_packWord _ _ _ _ _ _ _ _ (by decide +kernel))

theorem Encoding.prfL1 (f : FM) : Encoding.Statement (.prfL1 f) := fun _ => .inl (listed_packWord _ _ _ _ _ _ _ _ (by decide +kernel))

theorem Encoding.prfL2 (f : FM) : Encoding.Statement (.prfL2 f) := fun _ => .inl (listed_packWord _ _ _ _ _ _ _ _ (by decide +kernel))

theorem Encoding.flushWb (f : FM) : Encoding.Statement (.flushWb f) := fun _ => .inl (listed_packWord _ _ _ _ _ _ _ _ (by decide +kernel))

theorem Encoding.flushInv (f : FM) : Encoding.Statement (.flushInv f) := fun _ => .inl (listed_packWord _ _ _ _ _ _ _ _ (by decide +kernel))

theorem Encoding.fenceAcq (f : FR) : Encoding.Statement (.fenceAcq f) := fun _ => .inl (listed_packWord _ _ _ _ _ _ _ _ (by decide +kernel))

theorem Encoding.fenceRel (f : FR) : Encoding.Statement (.fenceRel f) := fun _ => .inl (listed_packWord _ _ _ _ _ _ _ _ (by decide +kernel))

theorem Encoding.fenceAr (f : FR) : Encoding.Statement (.fenceAr f) := fun _ => .inl (listed_packWord _ _ _ _ _ _ _ _ (by decide +kernel))

theorem Encoding.carve (f : FR) : Encoding.Statement (.carve f) := fun _ => .inl (listed_packWord _ _ _ _ _ _ _ _ (by decide +kernel))

theorem Encoding.tlbq (f : FM) : Encoding.Statement (.tlbq f) := fun _ => .inl (listed_packWord _ _ _ _ _ _ _ _ (by decide +kernel))

theorem Encoding.atom (op : AtomOp) (f : FM) : Encoding.Statement (.atom op f) :=
  fun _ => .inl (listed_packWord _ _ _ _ _ _ _ _ (by cases op <;> decide +kernel))

theorem Encoding.atomAcq (op : AtomOp) (f : FM) : Encoding.Statement (.atomAcq op f) :=
  fun _ => .inl (listed_packWord _ _ _ _ _ _ _ _ (by cases op <;> decide +kernel))

theorem Encoding.atomRel (op : AtomOp) (f : FM) : Encoding.Statement (.atomRel op f) :=
  fun _ => .inl (listed_packWord _ _ _ _ _ _ _ _ (by cases op <;> decide +kernel))

theorem Encoding.atomAr (op : AtomOp) (f : FM) : Encoding.Statement (.atomAr op f) :=
  fun _ => .inl (listed_packWord _ _ _ _ _ _ _ _ (by cases op <;> decide +kernel))

theorem Encoding.red (op : AtomOp) (f : FM) : Encoding.Statement (.red op f) := by
  intro h
  cases op
  case exch => change (_ && _ && _ && _ && false && _ && _) = true at h; simp at h
  case cas => change (_ && _ && _ && _ && _ && false && _) = true at h; simp at h
  all_goals exact .inl (listed_packWord _ _ _ _ _ _ _ _ (by decide +kernel))

theorem Encoding.redRel (op : AtomOp) (f : FM) : Encoding.Statement (.redRel op f) := by
  intro h
  cases op
  case exch => change (_ && _ && _ && _ && false && _ && _) = true at h; simp at h
  case cas => change (_ && _ && _ && _ && _ && false && _) = true at h; simp at h
  all_goals exact .inl (listed_packWord _ _ _ _ _ _ _ _ (by decide +kernel))

theorem Encoding.mxzero (f : FE) : Encoding.Statement (.mxzero f) := fun _ => .inl (listed_packWord _ _ _ _ _ _ _ _ (by decide +kernel))

theorem Encoding.mxloop (f : FE) : Encoding.Statement (.mxloop f) := fun _ => .inl (listed_packWord _ _ _ _ _ _ _ _ (by decide +kernel))

theorem Encoding.mxloopG (f : FE) : Encoding.Statement (.mxloopG f) := fun _ => .inl (listed_packWord _ _ _ _ _ _ _ _ (by decide +kernel))

theorem Encoding.mxwait (f : FE) : Encoding.Statement (.mxwait f) := fun _ => .inl (listed_packWord _ _ _ _ _ _ _ _ (by decide +kernel))

theorem Encoding.mxdrain (f : FE) : Encoding.Statement (.mxdrain f) := fun _ => .inl (listed_packWord _ _ _ _ _ _ _ _ (by decide +kernel))

theorem Encoding.mxdrainQ (f : FE) : Encoding.Statement (.mxdrainQ f) := fun _ => .inl (listed_packWord _ _ _ _ _ _ _ _ (by decide +kernel))

theorem Encoding.gxrows (f : FE) : Encoding.Statement (.gxrows f) := fun _ => .inl (listed_packWord _ _ _ _ _ _ _ _ (by decide +kernel))

theorem Encoding.cpyLd (f : FE) : Encoding.Statement (.cpyLd f) := fun _ => .inl (listed_packWord _ _ _ _ _ _ _ _ (by decide +kernel))

theorem Encoding.cpyLdNf (f : FE) : Encoding.Statement (.cpyLdNf f) := fun _ => .inl (listed_packWord _ _ _ _ _ _ _ _ (by decide +kernel))

theorem Encoding.cpySt (f : FE) : Encoding.Statement (.cpySt f) := fun _ => .inl (listed_packWord _ _ _ _ _ _ _ _ (by decide +kernel))

theorem Encoding.cpyRed (op : CpyOp) (f : FE) : Encoding.Statement (.cpyRed op f) :=
  fun _ => .inl (listed_packWord _ _ _ _ _ _ _ _ (by cases op <;> decide +kernel))

theorem Encoding.cpyMc (f : FE) : Encoding.Statement (.cpyMc f) := fun _ => .inl (listed_packWord _ _ _ _ _ _ _ _ (by decide +kernel))

theorem Encoding.cpyMcNf (f : FE) : Encoding.Statement (.cpyMcNf f) := fun _ => .inl (listed_packWord _ _ _ _ _ _ _ _ (by decide +kernel))

theorem Encoding.cpyPf (f : FE) : Encoding.Statement (.cpyPf f) := fun _ => .inl (listed_packWord _ _ _ _ _ _ _ _ (by decide +kernel))

theorem Encoding.eqfence (f : FR) : Encoding.Statement (.eqfence f) := fun _ => .inl (listed_packWord _ _ _ _ _ _ _ _ (by decide +kernel))

theorem Encoding.eqfenceW (f : FR) : Encoding.Statement (.eqfenceW f) := fun _ => .inl (listed_packWord _ _ _ _ _ _ _ _ (by decide +kernel))

theorem Encoding.tdset (f : FE) : Encoding.Statement (.tdset f) := fun _ => .inl (listed_packWord _ _ _ _ _ _ _ _ (by decide +kernel))

theorem Encoding.tdget (f : FE) : Encoding.Statement (.tdget f) := fun _ => .inl (listed_packWord _ _ _ _ _ _ _ _ (by decide +kernel))

theorem Encoding.tset (f : FR) : Encoding.Statement (.tset f) := fun _ => .inl (listed_packWord _ _ _ _ _ _ _ _ (by decide +kernel))

theorem Encoding.tget (f : FR) : Encoding.Statement (.tget f) := fun _ => .inl (listed_packWord _ _ _ _ _ _ _ _ (by decide +kernel))

theorem Encoding.tgetFill (f : FR) : Encoding.Statement (.tgetFill f) := fun _ => .inl (listed_packWord _ _ _ _ _ _ _ _ (by decide +kernel))

theorem Encoding.tgetFillc (f : FR) : Encoding.Statement (.tgetFillc f) := fun _ => .inl (listed_packWord _ _ _ _ _ _ _ _ (by decide +kernel))

theorem Encoding.barv (f : FR) : Encoding.Statement (.barv f) := fun _ => .inl (listed_packWord _ _ _ _ _ _ _ _ (by decide +kernel))

theorem Encoding.barvB (f : FR) : Encoding.Statement (.barvB f) := fun _ => .inl (listed_packWord _ _ _ _ _ _ _ _ (by decide +kernel))

theorem Encoding.barw (f : FR) : Encoding.Statement (.barw f) := fun _ => .inl (listed_packWord _ _ _ _ _ _ _ _ (by decide +kernel))

theorem Encoding.barvw (f : FR) : Encoding.Statement (.barvw f) := fun _ => .inl (listed_packWord _ _ _ _ _ _ _ _ (by decide +kernel))

theorem Encoding.barx (f : FR) : Encoding.Statement (.barx f) := fun _ => .inl (listed_packWord _ _ _ _ _ _ _ _ (by decide +kernel))

theorem Encoding.bars (f : FR) : Encoding.Statement (.bars f) := fun _ => .inl (listed_packWord _ _ _ _ _ _ _ _ (by decide +kernel))

theorem Encoding.barsClr (f : FR) : Encoding.Statement (.barsClr f) := fun _ => .inl (listed_packWord _ _ _ _ _ _ _ _ (by decide +kernel))

theorem Encoding.barsB (f : FR) : Encoding.Statement (.barsB f) := fun _ => .inl (listed_packWord _ _ _ _ _ _ _ _ (by decide +kernel))

theorem Encoding.cbarA (f : FR) : Encoding.Statement (.cbarA f) := fun _ => .inl (listed_packWord _ _ _ _ _ _ _ _ (by decide +kernel))

theorem Encoding.cbarW (f : FR) : Encoding.Statement (.cbarW f) := fun _ => .inl (listed_packWord _ _ _ _ _ _ _ _ (by decide +kernel))

theorem Encoding.cbarAw (f : FR) : Encoding.Statement (.cbarAw f) := fun _ => .inl (listed_packWord _ _ _ _ _ _ _ _ (by decide +kernel))

theorem Encoding.dbarA (f : FR) : Encoding.Statement (.dbarA f) := fun _ => .inl (listed_packWord _ _ _ _ _ _ _ _ (by decide +kernel))

theorem Encoding.dbarW (f : FR) : Encoding.Statement (.dbarW f) := fun _ => .inl (listed_packWord _ _ _ _ _ _ _ _ (by decide +kernel))

theorem Encoding.dbarAw (f : FR) : Encoding.Statement (.dbarAw f) := fun _ => .inl (listed_packWord _ _ _ _ _ _ _ _ (by decide +kernel))

theorem Encoding.pbarA (f : FR) : Encoding.Statement (.pbarA f) := fun _ => .inl (listed_packWord _ _ _ _ _ _ _ _ (by decide +kernel))

theorem Encoding.pbarW (f : FR) : Encoding.Statement (.pbarW f) := fun _ => .inl (listed_packWord _ _ _ _ _ _ _ _ (by decide +kernel))

theorem Encoding.pbarAw (f : FR) : Encoding.Statement (.pbarAw f) := fun _ => .inl (listed_packWord _ _ _ _ _ _ _ _ (by decide +kernel))

theorem Encoding.qinit (f : FM) : Encoding.Statement (.qinit f) := fun _ => .inl (listed_packWord _ _ _ _ _ _ _ _ (by decide +kernel))

theorem Encoding.qpush (f : FM) : Encoding.Statement (.qpush f) := fun _ => .inl (listed_packWord _ _ _ _ _ _ _ _ (by decide +kernel))

theorem Encoding.qpop (f : FM) : Encoding.Statement (.qpop f) := fun _ => .inl (listed_packWord _ _ _ _ _ _ _ _ (by decide +kernel))

theorem Encoding.qtpush (f : FM) : Encoding.Statement (.qtpush f) := fun _ => .inl (listed_packWord _ _ _ _ _ _ _ _ (by decide +kernel))

theorem Encoding.qtpop (f : FM) : Encoding.Statement (.qtpop f) := fun _ => .inl (listed_packWord _ _ _ _ _ _ _ _ (by decide +kernel))

theorem Encoding.qpeek (f : FM) : Encoding.Statement (.qpeek f) := fun _ => .inl (listed_packWord _ _ _ _ _ _ _ _ (by decide +kernel))

theorem Encoding.qstat (f : FM) : Encoding.Statement (.qstat f) := fun _ => .inl (listed_packWord _ _ _ _ _ _ _ _ (by decide +kernel))

theorem Encoding.qclose (f : FM) : Encoding.Statement (.qclose f) := fun _ => .inl (listed_packWord _ _ _ _ _ _ _ _ (by decide +kernel))

theorem Encoding.qdrain (f : FM) : Encoding.Statement (.qdrain f) := fun _ => .inl (listed_packWord _ _ _ _ _ _ _ _ (by decide +kernel))

theorem Encoding.launch (f : FM) : Encoding.Statement (.launch f) := fun _ => .inl (listed_packWord _ _ _ _ _ _ _ _ (by decide +kernel))

theorem Encoding.spawn (f : FM) : Encoding.Statement (.spawn f) := fun _ => .inl (listed_packWord _ _ _ _ _ _ _ _ (by decide +kernel))

theorem Encoding.spawnr (f : FM) : Encoding.Statement (.spawnr f) := fun _ => .inl (listed_packWord _ _ _ _ _ _ _ _ (by decide +kernel))

theorem Encoding.jdec (f : FM) : Encoding.Statement (.jdec f) := fun _ => .inl (listed_packWord _ _ _ _ _ _ _ _ (by decide +kernel))

theorem Encoding.lquery (f : FR) : Encoding.Statement (.lquery f) := fun _ => .inl (listed_packWord _ _ _ _ _ _ _ _ (by decide +kernel))

theorem Encoding.xsel (f : FR) : Encoding.Statement (.xsel f) := fun _ => .inl (listed_packWord _ _ _ _ _ _ _ _ (by decide +kernel))

theorem Encoding.xdisp (f : FE) : Encoding.Statement (.xdisp f) := fun _ => .inl (listed_packWord _ _ _ _ _ _ _ _ (by decide +kernel))

theorem Encoding.xcurRd (f : FR) : Encoding.Statement (.xcurRd f) := fun _ => .inl (listed_packWord _ _ _ _ _ _ _ _ (by decide +kernel))

theorem Encoding.xcurWr (f : FR) : Encoding.Statement (.xcurWr f) := fun _ => .inl (listed_packWord _ _ _ _ _ _ _ _ (by decide +kernel))

theorem Encoding.xhist (f : FM) : Encoding.Statement (.xhist f) := fun _ => .inl (listed_packWord _ _ _ _ _ _ _ _ (by decide +kernel))

theorem Encoding.regrp (f : FR) : Encoding.Statement (.regrp f) := fun _ => .inl (listed_packWord _ _ _ _ _ _ _ _ (by decide +kernel))

theorem Encoding.wwait (f : FM) : Encoding.Statement (.wwait f) := fun _ => .inl (listed_packWord _ _ _ _ _ _ _ _ (by decide +kernel))

theorem Encoding.wwake (f : FM) : Encoding.Statement (.wwake f) := fun _ => .inl (listed_packWord _ _ _ _ _ _ _ _ (by decide +kernel))

theorem Encoding.rmtOpen (f : FR) : Encoding.Statement (.rmtOpen f) := fun _ => .inl (listed_packWord _ _ _ _ _ _ _ _ (by decide +kernel))

theorem Encoding.rmtCommit (f : FR) : Encoding.Statement (.rmtCommit f) := fun _ => .inl (listed_packWord _ _ _ _ _ _ _ _ (by decide +kernel))

theorem Encoding.rmtAbort (f : FR) : Encoding.Statement (.rmtAbort f) := fun _ => .inl (listed_packWord _ _ _ _ _ _ _ _ (by decide +kernel))

theorem Encoding.sysrd (f : FR) : Encoding.Statement (.sysrd f) := fun _ => .inl (listed_packWord _ _ _ _ _ _ _ _ (by decide +kernel))

theorem Encoding.syswr (f : FR) : Encoding.Statement (.syswr f) := fun _ => .inl (listed_packWord _ _ _ _ _ _ _ _ (by decide +kernel))

theorem Encoding.fcancel (f : FR) : Encoding.Statement (.fcancel f) := fun _ => .inl (listed_packWord _ _ _ _ _ _ _ _ (by decide +kernel))

theorem Encoding.ctxsave (f : FM) : Encoding.Statement (.ctxsave f) := fun _ => .inl (listed_packWord _ _ _ _ _ _ _ _ (by decide +kernel))

theorem Encoding.ctxload (f : FM) : Encoding.Statement (.ctxload f) := fun _ => .inl (listed_packWord _ _ _ _ _ _ _ _ (by decide +kernel))

theorem Encoding.dbgrd (f : FR) : Encoding.Statement (.dbgrd f) := fun _ => .inl (listed_packWord _ _ _ _ _ _ _ _ (by decide +kernel))

theorem Encoding.bnop : Encoding.Statement .bnop := fun _ => .inl (packBoster_opc _ _ _ _ _ (by decide))

theorem Encoding.bli (d : BitVec 4) (i : BitVec 22) : Encoding.Statement (.bli d i) := fun _ => .inl (bli_opc d i)

theorem Encoding.badd (d a b : BitVec 4) : Encoding.Statement (.badd d a b) := fun _ => .inl (packBoster_opc _ _ _ _ _ (by decide))

theorem Encoding.baddi (d a : BitVec 4) (i : BitVec 14) : Encoding.Statement (.baddi d a i) := fun _ => .inl (packBoster_opc _ _ _ _ _ (by decide))

theorem Encoding.band (d a b : BitVec 4) : Encoding.Statement (.band d a b) := fun _ => .inl (packBoster_opc _ _ _ _ _ (by decide))

theorem Encoding.bshr (d a : BitVec 4) (n : BitVec 6) : Encoding.Statement (.bshr d a n) := fun _ => .inl (packBoster_opc _ _ _ _ _ (by decide))

theorem Encoding.bbeq (a b : BitVec 4) (i : BitVec 14) : Encoding.Statement (.bbeq a b i) := fun _ => .inl (packBoster_opc _ _ _ _ _ (by decide))

theorem Encoding.bbne (a b : BitVec 4) (i : BitVec 14) : Encoding.Statement (.bbne a b i) := fun _ => .inl (packBoster_opc _ _ _ _ _ (by decide))

theorem Encoding.bmatch : Encoding.Statement .bmatch := fun _ => .inl (packBoster_opc _ _ _ _ _ (by decide))

theorem Encoding.bfold (d : BitVec 4) : Encoding.Statement (.bfold d) := fun _ => .inl (packBoster_opc _ _ _ _ _ (by decide))

theorem Encoding.bfwdRes : Encoding.Statement .bfwdRes := fun _ => .inl (packBoster_opc _ _ _ _ _ (by decide))

theorem Encoding.bfwdUp : Encoding.Statement .bfwdUp := fun _ => .inl (packBoster_opc _ _ _ _ _ (by decide))

theorem Encoding.bfwdRaw : Encoding.Statement .bfwdRaw := fun _ => .inl (packBoster_opc _ _ _ _ _ (by decide))

theorem Encoding.bmcast : Encoding.Statement .bmcast := fun _ => .inl (packBoster_opc _ _ _ _ _ (by decide))

theorem Encoding.bgath : Encoding.Statement .bgath := fun _ => .inl (packBoster_opc _ _ _ _ _ (by decide))

theorem Encoding.bcmpl (d : BitVec 4) : Encoding.Statement (.bcmpl d) := fun _ => .inl (packBoster_opc _ _ _ _ _ (by decide))

theorem Encoding.bfree : Encoding.Statement .bfree := fun _ => .inl (packBoster_opc _ _ _ _ _ (by decide))

theorem Encoding.bend : Encoding.Statement .bend := fun _ => .inl (packBoster_opc _ _ _ _ _ (by decide))

theorem Encoding.unassignedOpcode (w : IWord) : Encoding.Statement (.unassignedOpcode w) := fun _ => .inr rfl

theorem Encoding.bosterReservedWord (w : BitVec 32) : Encoding.Statement (.bosterReservedWord w) := fun _ => .inr rfl

theorem Encoding.queueOpAtKeeper : Encoding.Statement (.queueOpAtKeeper) := fun _ => rfl

theorem Encoding.enginePush : Encoding.Statement (.enginePush) := fun _ => rfl

theorem Encoding.noticePush : Encoding.Statement (.noticePush) := fun _ => rfl

theorem Encoding.regroupComplete : Encoding.Statement (.regroupComplete) := fun _ => rfl

theorem Encoding.gangMerge : Encoding.Statement (.gangMerge) := fun _ => rfl

theorem Encoding.gangEntryFree : Encoding.Statement (.gangEntryFree) := fun _ => rfl

theorem Encoding.scratchpadBankServe : Encoding.Statement (.scratchpadBankServe) := fun _ => rfl

theorem Encoding.rangeEntryRetire : Encoding.Statement (.rangeEntryRetire) := fun _ => rfl

theorem Encoding.storeBufferDrain : Encoding.Statement (.storeBufferDrain) := fun _ => rfl

theorem Encoding.storeAck : Encoding.Statement (.storeAck) := fun _ => rfl

theorem Encoding.loadResponse : Encoding.Statement (.loadResponse) := fun _ => rfl

theorem Encoding.atomicResponse : Encoding.Statement (.atomicResponse) := fun _ => rfl

theorem Encoding.l1Writeback : Encoding.Statement (.l1Writeback) := fun _ => rfl

theorem Encoding.remoteScratchpadArrival : Encoding.Statement (.remoteScratchpadArrival) := fun _ => rfl

theorem Encoding.remoteScratchpadResponse : Encoding.Statement (.remoteScratchpadResponse) := fun _ => rfl

theorem Encoding.barrierNetworkArrival : Encoding.Statement (.barrierNetworkArrival) := fun _ => rfl

theorem Encoding.clusterBarrierReport : Encoding.Statement (.clusterBarrierReport) := fun _ => rfl

theorem Encoding.clusterBarrierRelease : Encoding.Statement (.clusterBarrierRelease) := fun _ => rfl

theorem Encoding.dieBarrierReport : Encoding.Statement (.dieBarrierReport) := fun _ => rfl

theorem Encoding.dieBarrierRelease : Encoding.Statement (.dieBarrierRelease) := fun _ => rfl

theorem Encoding.packageBarrierArrival : Encoding.Statement (.packageBarrierArrival) := fun _ => rfl

theorem Encoding.packageBarrierRelease : Encoding.Statement (.packageBarrierRelease) := fun _ => rfl

theorem Encoding.mxKstep : Encoding.Statement (.mxKstep) := fun _ => rfl

theorem Encoding.mxCommandComplete : Encoding.Statement (.mxCommandComplete) := fun _ => rfl

theorem Encoding.mxDrainRun : Encoding.Statement (.mxDrainRun) := fun _ => rfl

theorem Encoding.gatherRowsFetch : Encoding.Statement (.gatherRowsFetch) := fun _ => rfl

theorem Encoding.streamerCopyRun : Encoding.Statement (.streamerCopyRun) := fun _ => rfl

theorem Encoding.streamerCompletionAction : Encoding.Statement (.streamerCompletionAction) := fun _ => rfl

theorem Encoding.multicastDelivery : Encoding.Statement (.multicastDelivery) := fun _ => rfl

theorem Encoding.carveChangeComplete : Encoding.Statement (.carveChangeComplete) := fun _ => rfl

theorem Encoding.teamPlace : Encoding.Statement (.teamPlace) := fun _ => rfl

theorem Encoding.teamFree : Encoding.Statement (.teamFree) := fun _ => rfl

theorem Encoding.launchEnd : Encoding.Statement (.launchEnd) := fun _ => rfl

theorem Encoding.continuationTake : Encoding.Statement (.continuationTake) := fun _ => rfl

theorem Encoding.recordAging : Encoding.Statement (.recordAging) := fun _ => rfl

theorem Encoding.spareCoreRemap : Encoding.Statement (.spareCoreRemap) := fun _ => rfl

theorem Encoding.preemptRequest : Encoding.Statement (.preemptRequest) := fun _ => rfl

theorem Encoding.forcedStop : Encoding.Statement (.forcedStop) := fun _ => rfl

theorem Encoding.contextSave : Encoding.Statement (.contextSave) := fun _ => rfl

theorem Encoding.contextRestore : Encoding.Statement (.contextRestore) := fun _ => rfl

theorem Encoding.teamTerminate : Encoding.Statement (.teamTerminate) := fun _ => rfl

theorem Encoding.invalidateCommand : Encoding.Statement (.invalidateCommand) := fun _ => rfl

theorem Encoding.invalidationComplete : Encoding.Statement (.invalidationComplete) := fun _ => rfl

theorem Encoding.dbgHalt : Encoding.Statement (.dbgHalt) := fun _ => rfl

theorem Encoding.dbgStep : Encoding.Statement (.dbgStep) := fun _ => rfl

theorem Encoding.dbgRelease : Encoding.Statement (.dbgRelease) := fun _ => rfl

theorem Encoding.dbgReleaseAll : Encoding.Statement (.dbgReleaseAll) := fun _ => rfl

theorem Encoding.dispatchRun : Encoding.Statement (.dispatchRun) := fun _ => rfl

theorem Encoding.dispatchAck : Encoding.Statement (.dispatchAck) := fun _ => rfl

theorem Encoding.ingressArrival : Encoding.Statement (.ingressArrival) := fun _ => rfl

theorem Encoding.cxlMemAccess : Encoding.Statement (.cxlMemAccess) := fun _ => rfl

theorem Encoding.ownClaim : Encoding.Statement (.ownClaim) := fun _ => rfl

theorem Encoding.ownHandOver : Encoding.Statement (.ownHandOver) := fun _ => rfl

theorem Encoding.ownAccept : Encoding.Statement (.ownAccept) := fun _ => rfl

theorem Encoding.ownRelease : Encoding.Statement (.ownRelease) := fun _ => rfl

theorem Encoding.ownerLinkDown : Encoding.Statement (.ownerLinkDown) := fun _ => rfl

theorem Encoding.crierWait : Encoding.Statement (.crierWait) := fun _ => rfl

theorem Encoding.crierWake : Encoding.Statement (.crierWake) := fun _ => rfl

theorem Encoding.crierWithdraw : Encoding.Statement (.crierWithdraw) := fun _ => rfl

theorem Encoding.swdataRead : Encoding.Statement (.swdataRead) := fun _ => rfl

theorem Encoding.swdataWrite : Encoding.Statement (.swdataWrite) := fun _ => rfl

theorem Encoding.registerWrite : Encoding.Statement (.registerWrite) := fun _ => rfl

theorem Encoding.linkRetrain : Encoding.Statement (.linkRetrain) := fun _ => rfl

theorem Encoding.correctableError : Encoding.Statement (.correctableError) := fun _ => rfl

theorem Encoding.uncorrectableMemoryError : Encoding.Statement (.uncorrectableMemoryError) := fun _ => rfl

theorem Encoding.teamStateError : Encoding.Statement (.teamStateError) := fun _ => rfl

theorem Encoding.hostCacheError : Encoding.Statement (.hostCacheError) := fun _ => rfl

theorem Encoding.packageReset : Encoding.Statement (.packageReset) := fun _ => rfl

theorem Encoding.bootStageAdvance : Encoding.Statement (.bootStageAdvance) := fun _ => rfl

theorem Encoding.powerSample : Encoding.Statement (.powerSample) := fun _ => rfl

theorem Encoding.packetArrival : Encoding.Statement (.packetArrival) := fun _ => rfl

theorem Encoding.slotTimeout : Encoding.Statement (.slotTimeout) := fun _ => rfl

theorem Encoding.spillEndpointFold : Encoding.Statement (.spillEndpointFold) := fun _ => rfl

theorem Encoding.deliveryAck : Encoding.Statement (.deliveryAck) := fun _ => rfl

theorem Encoding.pctlRunStart : Encoding.Statement (.pctlRunStart) := fun _ => rfl

theorem Encoding.pctlRunStop : Encoding.Statement (.pctlRunStop) := fun _ => rfl

theorem Encoding.psdataWrite : Encoding.Statement (.psdataWrite) := fun _ => rfl

theorem Encoding.gtinvWrite : Encoding.Statement (.gtinvWrite) := fun _ => rfl

theorem Encoding.gtInvalidationComplete : Encoding.Statement (.gtInvalidationComplete) := fun _ => rfl

theorem Encoding.pbcfgReserve : Encoding.Statement (.pbcfgReserve) := fun _ => rfl

theorem Encoding.pbcfgFree : Encoding.Statement (.pbcfgFree) := fun _ => rfl

theorem Encoding.cadd : Encoding.Statement (.cadd) := fun _ => rfl

theorem Encoding.chunkComplete : Encoding.Statement (.chunkComplete) := fun _ => rfl

theorem Encoding.cgload : Encoding.Statement (.cgload) := fun _ => rfl

theorem Encoding.cgrunStart : Encoding.Statement (.cgrunStart) := fun _ => rfl

theorem Encoding.cgrunCancel : Encoding.Statement (.cgrunCancel) := fun _ => rfl

theorem Encoding.elcmd : Encoding.Statement (.elcmd) := fun _ => rfl

theorem Encoding.roundPrepare : Encoding.Statement (.roundPrepare) := fun _ => rfl

theorem Encoding.roundOldVersionTimeout : Encoding.Statement (.roundOldVersionTimeout) := fun _ => rfl

theorem Encoding.roundDecide : Encoding.Statement (.roundDecide) := fun _ => rfl

theorem Encoding.roundCommit : Encoding.Statement (.roundCommit) := fun _ => rfl

theorem Encoding.plmapMapWrite : Encoding.Statement (.plmapMapWrite) := fun _ => rfl

theorem Encoding.planeDeath : Encoding.Statement (.planeDeath) := fun _ => rfl

theorem Encoding.planeClose : Encoding.Statement (.planeClose) := fun _ => rfl

theorem Encoding.excWrite : Encoding.Statement (.excWrite) := fun _ => rfl

theorem Encoding.remoteRequestArrival : Encoding.Statement (.remoteRequestArrival) := fun _ => rfl

theorem Encoding.remoteResponse : Encoding.Statement (.remoteResponse) := fun _ => rfl

theorem Encoding.unreachableTimeout : Encoding.Statement (.unreachableTimeout) := fun _ => rfl

theorem Encoding.stagedWrite : Encoding.Statement (.stagedWrite) := fun _ => rfl

theorem Encoding.stagingDiscardTimeout : Encoding.Statement (.stagingDiscardTimeout) := fun _ => rfl

theorem Encoding.regionPrepare : Encoding.Statement (.regionPrepare) := fun _ => rfl

theorem Encoding.regionApply : Encoding.Statement (.regionApply) := fun _ => rfl

theorem Encoding.regionDiscard : Encoding.Statement (.regionDiscard) := fun _ => rfl

theorem Encoding.pbfwdWrite : Encoding.Statement (.pbfwdWrite) := fun _ => rfl

theorem Encoding.fabricBarrierForward : Encoding.Statement (.fabricBarrierForward) := fun _ => rfl

theorem Encoding.fabricBarrierRelease : Encoding.Statement (.fabricBarrierRelease) := fun _ => rfl

theorem Encoding.launchShare : Encoding.Statement (.launchShare) := fun _ => rfl

theorem Encoding.tableWalkEnd : Encoding.Statement (.tableWalkEnd) := fun _ => rfl

theorem Encoding.masterLinkUp : Encoding.Statement (.masterLinkUp) := fun _ => rfl

theorem Encoding.masterLinkDown : Encoding.Statement (.masterLinkDown) := fun _ => rfl

theorem Encoding.externalPortTraining : Encoding.Statement (.externalPortTraining) := fun _ => rfl

theorem Encoding.planeComesBack : Encoding.Statement (.planeComesBack) := fun _ => rfl

theorem Encoding.regionClearingComplete : Encoding.Statement (.regionClearingComplete) := fun _ => rfl

theorem Encoding.markForRetirement : Encoding.Statement (.markForRetirement) := fun _ => rfl

theorem Encoding.meshLinkFailure : Encoding.Statement (.meshLinkFailure) := fun _ => rfl

theorem Encoding.stackChannelFailure : Encoding.Statement (.stackChannelFailure) := fun _ => rfl

end Sys2Proof.Laws
end

