-- ==== Sys2Proof/Tests/Slice0.lean ====
section
/-!
SUPPORT. Tests: words written out from the spec, terms that WellFormed refuses, results that the spec gives, and for every statement a
state and operands that meet its hypotheses.
-/
namespace Sys2Proof.Tests

set_option Elab.async false

open Sys2Proof Sys2Proof.Machine Sys2Proof.Spec

-- small states

def h0 : Hints := ⟨0, false, 1, false, true⟩

/-- The registers of fibre `n`, and the uniform registers of every role: (v2, v3) and (k2, k3) are addresses of the first page. -/
def regs (n : Nat) : List (BitVec 32) :=
  [BitVec.ofNat 32 n, 3, BitVec.ofNat 32 (0x20000 + 64 * n), 0, 0, 5, 0x30040, 0, 0x3F800000, 0x40000000, BitVec.ofNat 32 (256 + 64 * n), 0, 0, 0, 0, 0]

def uregs : List (BitVec 32) := [0, 1, 0x20000, 0, 0, 5, 0x30000, 0, 0x3F800000, 0x40000000, 256, 0, 0x80100, 0, 0, 7]

def fibre (n : Nat) : Fibre := { Fibre.blank with fid := n, lane := n, role := .general, pc := 0x10000, wsize := 16, regs := regs n }

def team (n : Nat) : Team :=
  { Team.blank with
    ctx := 1, nextFid := n, fibres := (List.range n).map fibre, spadSize := 65536, frame := 0x40000,
    uregs := (List.replicate 4 (uregs ++ List.replicate 48 0)).flatten, tariff := List.replicate 48 0 }

def leaf (pa cp o : Nat) : Leaf := ⟨0, pa, 65536, cp, false, true, 0, o, false, false, true⟩

def page (va pa cp o : Nat) : TlbEnt := ⟨1, va, leaf pa cp o, false, []⟩

/-- One gang of `n` fibres on core 0, two pages of memory; no cycle has passed. -/
def gang (n : Nat) : State :=
  { State.reset with
    cores := [(0, { Core.reset with teams := [team n], gangs := [⟨0, List.range n, 0⟩], tlb := [page 0x20000 0x5550000 2 1, page 0x30000 0x7770000 2 1,
      page 0x40000 0x6660000 2 1] })],
    cur := ⟨0, 0, List.range n⟩ }

/-- Page tables of context 1 in memory (R194-R196): the pages of `gang`. -/
def tables : List Host.Cell :=
  [(0xA0000, 0xC0000 * 256 + 1), (0xC0000, 0xD0000 * 256 + 1), (0xD0000, 0xD8000 * 256 + 1), (0xD8010, 0x5559013), (0xD8018, 0x7779013),
    (0xD8020, 0x6669013)].foldl (fun m e => Memory.write m e.1 8 e.2) []

def walked (s : State) : State := { s with mem := tables, contexts := [⟨1, false, false, 0xA0000⟩] }

def withTeam (s : State) (f : Team → Team) : State := s.modTeam 0 0 f

def withFibres (s : State) (f : Fibre → Fibre) : State := withTeam s fun t => { t with fibres := t.fibres.map f }

/-- What a statement of form `Ends` asks. -/
def Meets (s : State) (i : Instr) (h : Hints) (pre : Ctx → State → Prop) : Prop :=
  wf i = true ∧ s.issues i h = true ∧ pre (s.issueCtx i h) (s.landed i h)

/-- Each of the instructions may issue in the state. -/
def mayAll (s : State) (l : List (Instr × Hints)) : Bool := l.all fun p => wf p.1 && s.issues p.1 p.2

/-- The next state, if there is one. -/
def after (o : Host.Outcome State Fault Refusal) : Option State := match o with | .next s => some s | _ => none

def goes (s : State) (i : Instr) : Bool := (after (exec i s)).isSome

theorem ex_of {α : Type} {o : Option α} {P : α → Prop} (a : α) (h : o = some a) (p : P a) : ∃ x, o = some x ∧ P x := ⟨a, h, p⟩

def fr : FR := ⟨h0, .v 4, .v 5, .v 1, .v 0, 0, 0, 0, 2⟩
def fi : FI := ⟨h0, .v 4, .v 5, .v 0, 7, 0, 2⟩
def fm : FM := ⟨h0, .v 4, .v 2, .v 0, 0, 0, 8⟩
def fc : FC := ⟨h0, .v 0, .v 0, .v 0, 12, 0⟩
def fe : FE := ⟨h0, .v 0, .v 0, .v 0, 0, 0, 0, 0, 0, 0, 0⟩

end Sys2Proof.Tests

namespace Sys2Proof.Tests

set_option Elab.async false

open Sys2Proof Sys2Proof.Spec

/-- A word reads as an instruction, from the fetch and from the numbering of the opcode table. -/
def reads (w : IWord) (i : Instr) : Bool :=
  (match decode w with | .ok j => decide (j = i) | .error _ => false) && decide (decodeTableWord 96 w.toNat = some i)

/-! Words written out from the fields of R40 and R46 and the OP and SUB of R64: one for each constructor. -/

def words0 : List (IWord × Instr) := [
  (0x05000000_0000000000001000, Instr.nop ⟨⟨1, false, 5, false, false⟩, .v 0, .v 0, .v 0, .v 0, 0, 0, 0, 0⟩),
  (0x0A210000_0000218070112001, .add ⟨⟨2, true, 10, false, false⟩, .v 8, .v 14, .k 12, .v 0, 0, 0, 1, 2⟩),
  (0x1F216D53_3689800870083101, .addI ⟨⟨3, false, 15, true, false⟩, .v 4, .k 14, .v 0, 3668339987, 1, 2⟩),
  (0x04220000_00000390900D4002, .sub ⟨⟨4, true, 4, false, false⟩, .v 6, .imm 18, .v 28, .v 0, 0, 0, 1, 4⟩),
  (0x29228B8A_B03A800050105102, .subI ⟨⟨5, false, 9, false, true⟩, .v 8, .v 10, .v 0, 387276917, 1, 5⟩),
  (0x1E230000_0000440860096003, .mul ⟨⟨6, true, 14, true, false⟩, .v 4, .k 12, .imm 32, .v 0, 0, 0, 1, 6⟩),
  (0x032129C2_29EB8010700C7103, .mulI ⟨⟨7, false, 3, false, false⟩, .v 6, .imm 14, .v 0, 1401181143, 1, 2⟩),
  (0x08000000_0000218080118004, .mulhi ⟨⟨8, true, 8, false, false⟩, .v 8, .v 16, .k 12, .v 0, 0, 0, 0, 0⟩),
  (0x1D00C7F9_A39C800850089104, .mulhiI ⟨⟨9, false, 13, true, false⟩, .v 4, .k 10, .v 0, 2415085369, 0, 1⟩),
  (0x22210000_00880350500DA005, .mad ⟨⟨10, true, 2, false, true⟩, .v 6, .imm 10, .v 26, .k 16, 0, 0, 1, 2⟩),
  (0x07210000_010F21806010B006, .madw ⟨⟨11, false, 7, false, false⟩, .v 8, .v 12, .k 12, .imm 30, 0, 0, 1, 2⟩),
  (0x1C020000_000043C84009C007, .min ⟨⟨12, true, 12, true, false⟩, .v 4, .k 8, .imm 30, .v 0, 0, 0, 0, 4⟩),
  (0x01028468_96FE8010800CD107, .minI ⟨⟨13, false, 1, false, false⟩, .v 6, .imm 16, .v 0, 147926525, 0, 5⟩),
  (0x06030000_000021809011E008, .max ⟨⟨14, true, 6, false, false⟩, .v 8, .v 18, .k 12, .v 0, 0, 0, 0, 6⟩),
  (0x3B0122A0_10AF80087008F108, .maxI ⟨⟨15, false, 11, true, true⟩, .v 4, .k 14, .v 0, 1161830751, 0, 2⟩),
  (0x00200000_00000010600D0009, .abs ⟨⟨0, true, 0, false, false⟩, .v 6, .imm 12, .v 0, .v 0, 0, 0, 1, 0⟩),
  (0x05208000_0000000070101109, .neg ⟨⟨1, false, 5, false, false⟩, .v 8, .v 14, .v 0, .v 0, 0, 0, 1, 1⟩),
  (0x1A010000_000043886009200A, .and ⟨⟨2, true, 10, true, false⟩, .v 4, .k 12, .imm 28, .v 0, 0, 0, 0, 2⟩),
  (0x0F01DF0F_04118010900C310A, .andI ⟨⟨3, false, 15, false, false⟩, .v 6, .imm 18, .v 0, 3189639203, 0, 3⟩),
  (0x24030000_000021805011400B, .or ⟨⟨4, true, 4, false, true⟩, .v 8, .v 10, .k 12, .v 0, 0, 0, 0, 6⟩),
  (0x1903FD46_7DC280085008510B, .orI ⟨⟨5, false, 9, true, false⟩, .v 4, .k 10, .v 0, 4203543429, 0, 7⟩),
  (0x0E040000_000002D0700D600C, .xor ⟨⟨6, true, 14, false, false⟩, .v 6, .imm 14, .v 22, .v 0, 0, 0, 0, 8⟩)]

def words1 : List (IWord × Instr) := [
  (0x03049B7D_F77380008010710C, Instr.xorI ⟨⟨7, false, 3, false, false⟩, .v 8, .v 16, .v 0, 922480359, 0, 9⟩),
  (0x18010000_000000084009800D, .not ⟨⟨8, true, 8, true, false⟩, .v 4, .k 8, .v 0, .v 0, 0, 0, 0, 2⟩),
  (0x2D018000_00000390500C900E, .shl ⟨⟨9, false, 13, false, true⟩, .v 6, .imm 10, .v 28, .v 0, 0, 0, 0, 3⟩),
  (0x020308D1_2DFD00006011A10E, .shlI ⟨⟨10, true, 2, false, false⟩, .v 8, .v 12, .v 0, 295853050, 0, 6⟩),
  (0x17038000_000044087008B00F, .shr ⟨⟨11, false, 7, true, false⟩, .v 4, .k 14, .imm 32, .v 0, 0, 0, 0, 7⟩),
  (0x0C042708_A7AE0010800DC10F, .shrI ⟨⟨12, true, 12, false, false⟩, .v 6, .imm 16, .v 0, 1309757276, 0, 8⟩),
  (0x01048000_000021809010D010, .sar ⟨⟨13, false, 1, false, false⟩, .v 8, .v 18, .k 12, .v 0, 0, 0, 0, 9⟩),
  (0x36014540_215F00086009E110, .sarI ⟨⟨14, true, 6, true, true⟩, .v 4, .k 12, .v 0, 2323661502, 0, 2⟩),
  (0x0B018000_00000350600CF011, .rot ⟨⟨15, false, 11, false, false⟩, .v 6, .imm 12, .v 26, .v 0, 0, 0, 0, 3⟩),
  (0x00036377_9B10000070110111, .rotI ⟨⟨0, true, 0, false, false⟩, .v 8, .v 14, .v 0, 3337565728, 0, 6⟩),
  (0x15038000_0000000850081012, .clz ⟨⟨1, false, 5, true, false⟩, .v 4, .k 10, .v 0, .v 0, 0, 0, 0, 7⟩),
  (0x0A040000_00000010900D2112, .popc ⟨⟨2, true, 10, false, false⟩, .v 6, .imm 18, .v 0, .v 0, 0, 0, 0, 8⟩),
  (0x2F048000_0000000050103212, .brev ⟨⟨3, false, 15, false, true⟩, .v 8, .v 10, .v 0, .v 0, 0, 0, 0, 9⟩),
  (0x14010000_001242C840094013, .bfx ⟨⟨4, true, 4, true, false⟩, .v 4, .k 8, .imm 22, .v 36, 0, 0, 0, 2⟩),
  (0x09048000_00880310700C5014, .bfi ⟨⟨5, false, 9, false, false⟩, .v 6, .imm 14, .v 24, .k 16, 0, 0, 0, 9⟩),
  (0x0E040000_0183A18080116015, .sel ⟨⟨6, true, 14, false, false⟩, .v 8, .v 16, .k 12, .p 7, 0, 0, 0, 8⟩),
  (0x13A48000_0000438876067016, .cmp ⟨⟨7, false, 3, true, false⟩, .p 3, .k 14, .imm 28, .v 0, 0, 0, 5, 9⟩),
  (0x28A4DC55_81D4001056078116, .cmpI ⟨⟨8, true, 8, false, true⟩, .p 3, .imm 10, .v 0, 3098215336, 5, 9⟩),
  (0x0D810000_0000218060109017, .lea ⟨⟨9, false, 13, false, false⟩, .v 8, .v 12, .k 12, .v 0, 0, 0, 4, 2⟩),
  (0x12817A8C_FB8500086009A117, .leaI ⟨⟨10, true, 2, true, false⟩, .v 4, .k 12, .v 0, 4112119562, 4, 2⟩),
  (0x07048000_00000010800CB018, .mov ⟨⟨11, false, 7, false, false⟩, .v 6, .imm 16, .v 0, .v 0, 0, 0, 0, 9⟩),
  (0x0C64D3F6_000000000011C019, .movk ⟨⟨12, true, 12, false, false⟩, .v 8, .v 0, .v 0, .v 0, 42988, 0, 3, 9⟩)]

def words2 : List (IWord × Instr) := [
  (0x3104E7E0_320E80000008D01A, Instr.ldi ⟨⟨13, false, 1, true, true⟩, .v 4, .v 0, .v 0, 3485492253, 0, 9⟩),
  (0x0624B6FB_EEE70000000DE01A, .ldiHi ⟨⟨14, true, 6, false, false⟩, .v 6, .v 0, .v 0, 1844960718, 1, 9⟩),
  (0x0B048000_0000000A8010F01B, .gets ⟨⟨15, false, 11, false, false⟩, .v 8, .sv .cycles, .v 0, .v 0, 0, 0, 0, 9⟩),
  (0x10000000_000060D82E07001C, .pand ⟨⟨0, true, 0, true, false⟩, .p 3, .p 5, .p 6, .v 0, 0, 0, 0, 0⟩),
  (0x05000000_000060D82E06111C, .por ⟨⟨1, false, 5, false, false⟩, .p 3, .p 5, .p 6, .v 0, 0, 0, 0, 0⟩),
  (0x2A000000_000060D82E07221C, .pxor ⟨⟨2, true, 10, false, true⟩, .p 3, .p 5, .p 6, .v 0, 0, 0, 0, 0⟩),
  (0x1F000000_000000182E06331C, .pnot ⟨⟨3, false, 15, true, false⟩, .p 3, .p 5, .v 0, .v 0, 0, 0, 0, 0⟩),
  (0x04000000_000000182E07441C, .pmov ⟨⟨4, true, 4, false, false⟩, .p 3, .p 5, .v 0, .v 0, 0, 0, 0, 0⟩),
  (0x09000000_800000180010541C, .pmovWRead ⟨⟨5, false, 9, false, false⟩, .v 8, .p 0, .v 0, .v 0, 1, 0, 0, 0⟩),
  (0x1E000000_800000086601641C, .pmovWWrite ⟨⟨6, true, 14, true, false⟩, .p 0, .k 12, .v 0, .v 0, 1, 0, 0, 0⟩),
  (0x238B0000_0C000400500C7020, .fadd ⟨⟨7, false, 3, false, true⟩, .v 6, .v 10, .v 32, .v 0, 0, 6, 4, 22⟩),
  (0x088B8000_0E00218840118120, .faddPk ⟨⟨8, true, 8, false, false⟩, .v 8, .k 8, .k 12, .v 0, 0, 7, 4, 23⟩),
  (0x1D8C0000_100002C070089021, .fsub ⟨⟨9, false, 13, true, false⟩, .v 4, .v 14, .v 22, .v 0, 0, 8, 4, 24⟩),
  (0x028C8000_12002188600DA121, .fsubPk ⟨⟨10, true, 2, false, false⟩, .v 6, .k 12, .k 12, .v 0, 0, 9, 4, 25⟩),
  (0x078D0000_140003409010B022, .fmul ⟨⟨11, false, 7, false, false⟩, .v 8, .v 18, .v 26, .v 0, 0, 10, 4, 26⟩),
  (0x3C8D8000_160021884009C122, .fmulPk ⟨⟨12, true, 12, true, true⟩, .v 4, .k 8, .k 12, .v 0, 0, 11, 4, 27⟩),
  (0x018E0000_181503C0600CD023, .ffma ⟨⟨13, false, 1, false, false⟩, .v 6, .v 12, .v 30, .v 42, 0, 12, 4, 28⟩),
  (0x068E8000_1A8821886011E123, .ffmaPk ⟨⟨14, true, 6, false, false⟩, .v 8, .k 12, .k 12, .k 16, 0, 13, 4, 29⟩),
  (0x1B8F0000_0A0002808008F024, .fmin ⟨⟨15, false, 11, true, false⟩, .v 4, .v 16, .v 20, .v 0, 0, 5, 4, 30⟩),
  (0x008F8000_0C002188400D0124, .fminPk ⟨⟨0, true, 0, false, false⟩, .v 6, .k 8, .k 12, .v 0, 0, 6, 4, 31⟩),
  (0x25900000_0E00030050101025, .fmax ⟨⟨1, false, 5, false, true⟩, .v 8, .v 10, .v 24, .v 0, 0, 7, 4, 32⟩),
  (0x1A908000_1000218860092125, .fmaxPk ⟨⟨2, true, 10, true, false⟩, .v 4, .k 12, .k 12, .v 0, 0, 8, 4, 33⟩)]

def words3 : List (IWord × Instr) := [
  (0x0F110003_8000038076063026, Instr.fcmp ⟨⟨3, false, 15, false, false⟩, .p 3, .v 14, .v 28, .v 0, 7, 0, 0, 34⟩),
  (0x04918000_1400000840114027, .frcp ⟨⟨4, true, 4, false, false⟩, .v 8, .k 8, .v 0, .v 0, 0, 10, 4, 35⟩),
  (0x19920000_1600000090085127, .frcpPk ⟨⟨5, false, 9, true, false⟩, .v 4, .v 18, .v 0, .v 0, 0, 11, 4, 36⟩),
  (0x2E928000_18000008600D6028, .frsq ⟨⟨6, true, 14, false, true⟩, .v 6, .k 12, .v 0, .v 0, 0, 12, 4, 37⟩),
  (0x03930000_1A00000060107128, .frsqPk ⟨⟨7, false, 3, false, false⟩, .v 8, .v 12, .v 0, .v 0, 0, 13, 4, 38⟩),
  (0x18938000_0A00000840098029, .fsqrt ⟨⟨8, true, 8, true, false⟩, .v 4, .k 8, .v 0, .v 0, 0, 5, 4, 39⟩),
  (0x0D940000_0C000000800C9129, .fsqrtPk ⟨⟨9, false, 13, false, false⟩, .v 6, .v 16, .v 0, .v 0, 0, 6, 4, 40⟩),
  (0x02948000_0E0000086011A02A, .fexp2 ⟨⟨10, true, 2, false, false⟩, .v 8, .k 12, .v 0, .v 0, 0, 7, 4, 41⟩),
  (0x37950000_100000005008B12A, .fexp2Pk ⟨⟨11, false, 7, true, true⟩, .v 4, .v 10, .v 0, .v 0, 0, 8, 4, 42⟩),
  (0x0C958000_12000008400DC02B, .flog2 ⟨⟨12, true, 12, false, false⟩, .v 6, .k 8, .v 0, .v 0, 0, 9, 4, 43⟩),
  (0x01960000_140000007010D12B, .flog2Pk ⟨⟨13, false, 1, false, false⟩, .v 8, .v 14, .v 0, .v 0, 0, 10, 4, 44⟩),
  (0x16968000_160000086009E02C, .fsin ⟨⟨14, true, 6, true, false⟩, .v 4, .k 12, .v 0, .v 0, 0, 11, 4, 45⟩),
  (0x0B970000_18000000900CF12C, .fsinPk ⟨⟨15, false, 11, false, false⟩, .v 6, .v 18, .v 0, .v 0, 0, 12, 4, 46⟩),
  (0x20838000_1A0000084011002D, .fcos ⟨⟨0, true, 0, false, true⟩, .v 8, .k 8, .v 0, .v 0, 0, 13, 4, 7⟩),
  (0x15840000_0A0000006008112D, .fcosPk ⟨⟨1, false, 5, true, false⟩, .v 4, .v 12, .v 0, .v 0, 0, 5, 4, 8⟩),
  (0x0A848000_0C000008600D202E, .ftanh ⟨⟨2, true, 10, false, false⟩, .v 6, .k 12, .v 0, .v 0, 0, 6, 4, 9⟩),
  (0x0F850000_0E0000008010312E, .ftanhPk ⟨⟨3, false, 15, false, false⟩, .v 8, .v 16, .v 0, .v 0, 0, 7, 4, 10⟩),
  (0x14858000_100000084009402F, .frnd ⟨⟨4, true, 4, true, false⟩, .v 4, .k 8, .v 0, .v 0, 0, 8, 4, 11⟩),
  (0x29860000_12000000500C512F, .frndPk ⟨⟨5, false, 9, false, true⟩, .v 6, .v 10, .v 0, .v 0, 0, 9, 4, 12⟩),
  (0x0E868000_1400000860116040, .cvt ⟨⟨6, true, 14, false, false⟩, .v 8, .k 12, .v 0, .v 0, 0, 10, 4, 13⟩),
  (0x13870000_1600000070087140, .cvtPk ⟨⟨7, false, 3, true, false⟩, .v 4, .v 14, .v 0, .v 0, 0, 11, 4, 14⟩),
  (0x08878000_18000388400D8041, .cvti ⟨⟨8, true, 8, false, false⟩, .v 6, .k 8, .v 28, .v 0, 0, 12, 4, 15⟩)]

def words4 : List (IWord × Instr) := [
  (0x0D880000_1B1003C090109042, Instr.pk ⟨⟨9, false, 13, false, false⟩, .v 8, .v 18, .v 30, .imm 32, 0, 13, 4, 16⟩),
  (0x32888000_0A0044086009A043, .upk ⟨⟨10, true, 2, true, true⟩, .v 4, .k 12, .imm 32, .v 0, 0, 5, 4, 17⟩),
  (0x07690000_0C120280600CB044, .sclq ⟨⟨11, false, 7, false, false⟩, .v 6, .v 12, .v 20, .v 36, 0, 6, 3, 18⟩),
  (0x0C000000_000000109811C045, .sclget ⟨⟨12, true, 12, false, false⟩, .v 8, .imm 19, .v 0, .v 0, 0, 0, 0, 0⟩),
  (0x11200000_000000109808D045, .sclgetClr ⟨⟨13, false, 1, true, false⟩, .v 4, .imm 19, .v 0, .v 0, 0, 0, 1, 0⟩),
  (0x06400000_00000350900DE046, .crng ⟨⟨14, true, 6, false, false⟩, .v 6, .imm 18, .v 26, .v 0, 0, 0, 2, 0⟩),
  (0x2B048000_000021805010F050, .shflPick ⟨⟨15, false, 11, false, true⟩, .v 8, .v 10, .k 12, .v 0, 0, 0, 0, 9⟩),
  (0x10040000_000043C060090150, .shflShift ⟨⟨0, true, 0, true, false⟩, .v 4, .v 12, .imm 30, .v 0, 0, 0, 0, 8⟩),
  (0x05048000_00000400700C1250, .shflRot ⟨⟨1, false, 5, false, false⟩, .v 6, .v 14, .v 32, .v 0, 0, 0, 0, 9⟩),
  (0x0A040000_0000218080112350, .shflMir ⟨⟨2, true, 10, false, false⟩, .v 8, .v 16, .k 12, .v 0, 0, 0, 0, 8⟩),
  (0x1F000000_000000182E063051, .voteEvery ⟨⟨3, false, 15, true, false⟩, .p 3, .p 5, .v 0, .v 0, 0, 0, 0, 0⟩),
  (0x24000000_000000182E074151, .voteSome ⟨⟨4, true, 4, false, true⟩, .p 3, .p 5, .v 0, .v 0, 0, 0, 0, 0⟩),
  (0x09000000_0000001828105251, .voteMask ⟨⟨5, false, 9, false, false⟩, .v 8, .p 5, .v 0, .v 0, 0, 0, 0, 0⟩),
  (0x1E000000_0000001828096351, .voteCount ⟨⟨6, true, 14, true, false⟩, .v 4, .p 5, .v 0, .v 0, 0, 0, 0, 0⟩),
  (0x03038000_00000010800C7152, .redux .min ⟨⟨7, false, 3, false, false⟩, .v 6, .imm 16, .v 0, .v 0, 0, 0, 0, 7⟩),
  (0x08010000_0000000090118253, .scan .max ⟨⟨8, true, 8, false, false⟩, .v 8, .v 18, .v 0, .v 0, 0, 0, 0, 2⟩),
  (0x3D048000_0000000850089B53, .scanEx .and ⟨⟨9, false, 13, true, true⟩, .v 4, .k 10, .v 0, .v 0, 0, 0, 0, 9⟩),
  (0x02040000_00000010600DA054, .matchPeers ⟨⟨10, true, 2, false, false⟩, .v 6, .imm 12, .v 0, .v 0, 0, 0, 0, 8⟩),
  (0x07048000_000000007010B154, .matchFirst ⟨⟨11, false, 7, false, false⟩, .v 8, .v 14, .v 0, .v 0, 0, 0, 0, 9⟩),
  (0x1C040000_000000084607C254, .matchSame ⟨⟨12, true, 12, true, false⟩, .p 3, .k 8, .v 0, .v 0, 0, 0, 0, 8⟩),
  (0x01000000_000000109000D055, .lsync ⟨⟨13, false, 1, false, false⟩, .v 0, .imm 18, .v 0, .v 0, 0, 0, 0, 0⟩),
  (0x26005463_6D6300000001E060, .bra ⟨⟨14, true, 6, false, true⟩, .v 0, .v 0, .v 0, 2831604422, 0⟩)]

def words5 : List (IWord × Instr) := [
  (0x1B000000_000000087000F061, Instr.brx ⟨⟨15, false, 11, true, false⟩, .v 0, .k 14, .v 0, .v 0, 0, 0, 0, 0⟩),
  (0x00001716_1B980000000D0062, .call ⟨⟨0, true, 0, false, false⟩, .v 6, .v 0, .v 0, 774649648, 0⟩),
  (0x05000000_0000000080101063, .calli ⟨⟨1, false, 5, false, false⟩, .v 8, .v 16, .v 0, .v 0, 0, 0, 0, 0⟩),
  (0x1A000000_0000000000092064, .ret ⟨⟨2, true, 10, true, false⟩, .v 4, .v 0, .v 0, .v 0, 0, 0, 0, 0⟩),
  (0x2F000000_0000000000003164, .retTrap ⟨⟨3, false, 15, false, true⟩, .v 0, .v 0, .v 0, .v 0, 0, 0, 0, 0⟩),
  (0x040F9C7B_7802218060114065, .fork ⟨⟨4, true, 4, false, false⟩, .v 8, .v 12, .k 12, 955707396, 31⟩),
  (0x19000000_0000000000005066, .exit ⟨⟨5, false, 9, true, false⟩, .v 0, .v 0, .v 0, .v 0, 0, 0, 0, 0⟩),
  (0x0E000000_0000000000016067, .yield ⟨⟨6, true, 14, false, false⟩, .v 0, .v 0, .v 0, .v 0, 0, 0, 0, 0⟩),
  (0x030045E4_C8A3800000007068, .trap ⟨⟨7, false, 3, false, false⟩, .v 0, .v 0, .v 0, 2345242951, 0, 0⟩),
  (0x38001500_857C000000018069, .brk ⟨⟨8, true, 8, true, true⟩, .v 0, .v 0, .v 0, 704711416, 0, 0⟩),
  (0x2F000081_7F020013F800006F, .rep ⟨⟨0, false, 15, false, true⟩, .v 0, .imm 127, .v 0, 1, 2, 254, 4, 0⟩),
  (0x0202692F_3B7F00086011A070, .ld ⟨⟨10, true, 2, false, false⟩, .v 8, .k 12, .v 0, 3529406206, 0, 4⟩),
  (0x17C2AC25_20B480008008B170, .ldAcq ⟨⟨11, false, 7, true, false⟩, .v 4, .v 16, .v 0, 1481261417, 6, 5⟩),
  (0x0C046F1B_05EA00084251C071, .st ⟨⟨12, true, 12, false, false⟩, .k 40, .k 8, .v 0, 3728083924, 0, 8⟩),
  (0x21C4B210_EB1F80005410D171, .stRel ⟨⟨13, false, 1, false, true⟩, .imm 8, .v 10, .v 0, 1679939135, 6, 9⟩),
  (0x16007506_D05500086009E072, .lds ⟨⟨14, true, 6, true, false⟩, .v 4, .k 12, .v 0, 3926761642, 0, 0⟩),
  (0x0B00B7FC_B58A80007250F073, .sts ⟨⟨15, false, 11, false, false⟩, .k 40, .v 14, .v 0, 1878616853, 0, 1⟩),
  (0x00027AF2_9AC0000840110074, .ldx ⟨⟨0, true, 0, false, false⟩, .v 8, .k 8, .v 0, 4125439360, 0, 4⟩),
  (0x1502BDE8_7FF5800090081075, .stx ⟨⟨1, false, 5, true, false⟩, .v 4, .v 18, .v 0, 2077294571, 0, 5⟩),
  (0x2A0000DE_652B000860012076, .prfL1 ⟨⟨2, true, 10, false, true⟩, .v 0, .k 12, .v 0, 29149782, 0, 0⟩),
  (0x0F0043D4_4A60800060003176, .prfL2 ⟨⟨3, false, 15, false, false⟩, .v 0, .v 12, .v 0, 2275972289, 0, 0⟩),
  (0x140006CA_2F96000840014077, .flushWb ⟨⟨4, true, 4, true, false⟩, .v 0, .k 8, .v 0, 227827500, 0, 0⟩)]

def words6 : List (IWord × Instr) := [
  (0x090049C0_14CB800080005177, Instr.flushInv ⟨⟨5, false, 9, false, false⟩, .v 0, .v 16, .v 0, 2474650007, 0, 0⟩),
  (0x0EC00000_0000000000016078, .fenceAcq ⟨⟨6, true, 14, false, false⟩, .v 0, .v 0, .v 0, .v 0, 0, 0, 6, 0⟩),
  (0x33C00000_0000000000007178, .fenceRel ⟨⟨7, false, 3, true, true⟩, .v 0, .v 0, .v 0, .v 0, 0, 0, 6, 0⟩),
  (0x08C00000_0000000000018278, .fenceAr ⟨⟨8, true, 8, false, false⟩, .v 0, .v 0, .v 0, .v 0, 0, 0, 6, 0⟩),
  (0x0D000000_0000000070109079, .carve ⟨⟨9, false, 13, false, false⟩, .v 8, .v 14, .v 0, .v 0, 0, 0, 0, 0⟩),
  (0x1204988D_8ED700086009A07A, .tlbq ⟨⟨10, true, 2, true, false⟩, .v 4, .k 12, .v 0, 823860654, 0, 9⟩),
  (0x0704DB83_740C8400900CB480, .atom .or ⟨⟨11, false, 7, false, false⟩, .v 6, .v 18, .v 32, 3070683161, 0, 9⟩),
  (0x2CC41E79_594221884011C581, .atomAcq .xor ⟨⟨12, true, 12, false, true⟩, .v 8, .k 8, .k 12, 1022538372, 6, 8⟩),
  (0x11C4E16F_3E77C2C06008D682, .atomRel .exch ⟨⟨13, false, 1, true, false⟩, .v 4, .v 12, .imm 22, 3269360879, 6, 9⟩),
  (0x06C42465_23AD0308600DE783, .atomAr .cas ⟨⟨14, true, 6, false, false⟩, .v 6, .k 12, .v 24, 1221216090, 6, 8⟩),
  (0x0B04E75B_08E280008410F384, .red .and ⟨⟨15, false, 11, false, false⟩, .imm 8, .v 16, .v 0, 3468038597, 0, 9⟩),
  (0x10C42A50_EE18000840090485, .redRel .or ⟨⟨0, true, 0, true, false⟩, .v 4, .k 8, .v 0, 1419893808, 6, 8⟩),
  (0x25000060_0000000000001090, .mxzero ⟨⟨1, false, 5, false, true⟩, .v 0, .v 0, .v 0, 0, 3, 0, 0, 0, 0, 0⟩),
  (0x0A70CD60_5AA7218064112091, .mxloop ⟨⟨2, true, 10, false, false⟩, .imm 8, .v 12, .k 12, 77, 3, 0, 181, 78, 3, 33⟩),
  (0x1F714D60_5AA7218870083191, .mxloopG ⟨⟨3, false, 15, true, false⟩, .v 4, .k 14, .k 12, 77, 3, 0, 181, 78, 3, 34⟩),
  (0x04200000_0000000000014092, .mxwait ⟨⟨4, true, 4, false, false⟩, .v 0, .v 0, .v 0, 0, 0, 0, 0, 0, 1, 0⟩),
  (0x09120060_002762A090005093, .mxdrain ⟨⟨5, false, 9, false, false⟩, .v 0, .v 18, .b 5, 0, 3, 0, 0, 78, 0, 36⟩),
  (0x3E928060_5AA762C862516193, .mxdrainQ ⟨⟨6, true, 14, true, true⟩, .k 40, .k 12, .b 6, 0, 3, 0, 181, 78, 4, 37⟩),
  (0x03000060_0000000060007094, .gxrows ⟨⟨7, false, 3, false, false⟩, .v 0, .v 12, .v 0, 0, 3, 0, 0, 0, 0, 0⟩),
  (0x08200000_5AA76228441180A0, .cpyLd ⟨⟨8, true, 8, false, false⟩, .imm 8, .k 8, .b 1, 0, 0, 0, 181, 78, 1, 0⟩),
  (0x1D200000_5AA76228500891A0, .cpyLdNf ⟨⟨9, false, 13, true, false⟩, .v 4, .k 10, .b 1, 0, 0, 0, 181, 78, 1, 0⟩),
  (0x02200000_5AA762286251A0A1, .cpySt ⟨⟨10, true, 2, false, false⟩, .k 40, .k 12, .b 1, 0, 0, 0, 181, 78, 1, 0⟩)]

def words7 : List (IWord × Instr) := [
  (0x27200000_5AA762287410B2A2, Instr.cpyRed .max ⟨⟨11, false, 7, false, true⟩, .imm 8, .k 14, .b 1, 0, 0, 0, 181, 78, 1, 0⟩),
  (0x1C200000_5AA762284251C0A3, .cpyMc ⟨⟨12, true, 12, true, false⟩, .k 40, .k 8, .b 1, 0, 0, 0, 181, 78, 1, 0⟩),
  (0x01200000_5AA762285250D1A3, .cpyMcNf ⟨⟨13, false, 1, false, false⟩, .k 40, .k 10, .b 1, 0, 0, 0, 181, 78, 1, 0⟩),
  (0x06000000_002700086001E0A4, .cpyPf ⟨⟨14, true, 6, false, false⟩, .v 0, .k 12, .v 0, 0, 0, 0, 0, 78, 0, 0⟩),
  (0x1B000000_000000103800F0A5, .eqfence ⟨⟨15, false, 11, true, false⟩, .v 0, .imm 7, .v 0, .v 0, 0, 0, 0, 0⟩),
  (0x20200000_00000010380100A5, .eqfenceW ⟨⟨0, true, 0, false, true⟩, .v 0, .imm 7, .v 0, .v 0, 0, 0, 1, 0⟩),
  (0x05000000_00270000600010A6, .tdset ⟨⟨1, false, 5, false, false⟩, .v 0, .v 12, .v 0, 0, 0, 0, 0, 78, 0, 0⟩),
  (0x1A000000_00270008600120A7, .tdget ⟨⟨2, true, 10, true, false⟩, .v 0, .k 12, .v 0, 0, 0, 0, 0, 78, 0, 0⟩),
  (0x0F000000_00000311F80030A8, .tset ⟨⟨3, false, 15, false, false⟩, .v 0, .imm 63, .v 24, .v 0, 0, 0, 0, 0⟩),
  (0x04000000_00000011F81140A9, .tget ⟨⟨4, true, 4, false, false⟩, .v 8, .imm 63, .v 0, .v 0, 0, 0, 0, 0⟩),
  (0x39200000_00000000000850A9, .tgetFill ⟨⟨5, false, 9, true, true⟩, .v 4, .v 0, .v 0, .v 0, 0, 0, 1, 0⟩),
  (0x0E400000_00000000000D60A9, .tgetFillc ⟨⟨6, true, 14, false, false⟩, .v 6, .v 0, .v 0, .v 0, 0, 0, 2, 0⟩),
  (0x03000000_00000018B80070B0, .barv ⟨⟨7, false, 3, false, false⟩, .v 0, .b 7, .v 0, .v 0, 0, 0, 0, 0⟩),
  (0x18000000_00004298C00181B0, .barvB ⟨⟨8, true, 8, true, false⟩, .v 0, .b 8, .imm 20, .v 0, 0, 0, 0, 0⟩),
  (0x0D000000_00000018C80090B1, .barw ⟨⟨9, false, 13, false, false⟩, .v 0, .b 9, .v 0, .v 0, 0, 0, 0, 0⟩),
  (0x22000000_00000018D001A0B2, .barvw ⟨⟨10, true, 2, false, true⟩, .v 0, .b 10, .v 0, .v 0, 0, 0, 0, 0⟩),
  (0x17000000_00000018D800B0B3, .barx ⟨⟨11, false, 7, true, false⟩, .v 0, .b 11, .v 0, .v 0, 0, 0, 0, 0⟩),
  (0x0C000000_00000018E00DC0B4, .bars ⟨⟨12, true, 12, false, false⟩, .v 6, .b 12, .v 0, .v 0, 0, 0, 0, 0⟩),
  (0x01200000_00000018E810D0B4, .barsClr ⟨⟨13, false, 1, false, false⟩, .v 8, .b 13, .v 0, .v 0, 0, 0, 1, 0⟩),
  (0x16400000_00000018F009E0B4, .barsB ⟨⟨14, true, 6, true, false⟩, .v 4, .b 14, .v 0, .v 0, 0, 0, 2, 0⟩),
  (0x2B000000_00000010500CF0B5, .cbarA ⟨⟨15, false, 11, false, true⟩, .v 6, .imm 10, .v 0, .v 0, 0, 0, 0, 0⟩),
  (0x00000000_00002180601101B5, .cbarW ⟨⟨0, true, 0, false, false⟩, .v 8, .v 12, .k 12, .v 0, 0, 0, 0, 0⟩)]

def words8 : List (IWord × Instr) := [
  (0x15000000_00000008500812B5, Instr.cbarAw ⟨⟨1, false, 5, true, false⟩, .v 4, .k 10, .v 0, .v 0, 0, 0, 0, 0⟩),
  (0x0A000000_00000010800D20B6, .dbarA ⟨⟨2, true, 10, false, false⟩, .v 6, .imm 16, .v 0, .v 0, 0, 0, 0, 0⟩),
  (0x0F000000_00002180901031B6, .dbarW ⟨⟨3, false, 15, false, false⟩, .v 8, .v 18, .k 12, .v 0, 0, 0, 0, 0⟩),
  (0x34000000_00000008400942B6, .dbarAw ⟨⟨4, true, 4, true, true⟩, .v 4, .k 8, .v 0, .v 0, 0, 0, 0, 0⟩),
  (0x09000000_00000010600C50B7, .pbarA ⟨⟨5, false, 9, false, false⟩, .v 6, .imm 12, .v 0, .v 0, 0, 0, 0, 0⟩),
  (0x0E000000_00002180701161B7, .pbarW ⟨⟨6, true, 14, false, false⟩, .v 8, .v 14, .k 12, .v 0, 0, 0, 0, 0⟩),
  (0x13000000_00000008700872B7, .pbarAw ⟨⟨7, false, 3, true, false⟩, .v 4, .k 14, .v 0, .v 0, 0, 0, 0, 0⟩),
  (0x0804A0BC_BE740308425180C0, .qinit ⟨⟨8, true, 8, false, false⟩, .k 40, .k 8, .v 24, 1098480872, 0, 9⟩),
  (0x2D04E3B2_A3A9E0C0501090C1, .qpush ⟨⟨9, false, 13, false, true⟩, .v 8, .v 10, .p 6, 3345303379, 0, 9⟩),
  (0x120426A8_88DF60C86009A0C2, .qpop ⟨⟨10, true, 2, true, false⟩, .v 4, .k 12, .p 6, 1297158590, 0, 8⟩),
  (0x0704E99E_6E14E0C0700CB0C3, .qtpush ⟨⟨11, false, 7, false, false⟩, .v 6, .v 14, .p 6, 3543981097, 0, 9⟩),
  (0x0C042C94_534A60C84011C0C4, .qtpop ⟨⟨12, true, 12, false, false⟩, .v 8, .k 8, .p 6, 1495836308, 0, 8⟩),
  (0x1104EF8A_387FE0C09008D0C5, .qpeek ⟨⟨13, false, 1, true, false⟩, .v 4, .v 18, .p 6, 3742658815, 0, 9⟩),
  (0x2604B280_1DB50008600DE0C6, .qstat ⟨⟨14, true, 6, false, true⟩, .v 6, .k 12, .v 0, 1694514026, 0, 9⟩),
  (0x0B047576_02EA80006000F0C7, .qclose ⟨⟨15, false, 11, false, false⟩, .v 0, .v 12, .v 0, 3941336533, 0, 8⟩),
  (0x1004386B_E8200008400100C8, .qdrain ⟨⟨0, true, 0, true, false⟩, .v 0, .k 8, .v 0, 1893191744, 0, 8⟩),
  (0x05007B61_CD558380800C10D3, .launch ⟨⟨1, false, 5, false, false⟩, .v 6, .v 16, .v 28, 4140014251, 0, 0⟩),
  (0x0A003E57_B28B2188601120D0, .spawn ⟨⟨2, true, 10, false, false⟩, .v 8, .k 12, .k 12, 2091869462, 0, 0⟩),
  (0x3F00014D_97C0C400500830D1, .spawnr ⟨⟨3, false, 15, true, true⟩, .v 4, .v 10, .imm 32, 43724673, 0, 0⟩),
  (0x04004443_7CF60288400D40D2, .jdec ⟨⟨4, true, 4, false, false⟩, .v 6, .k 8, .v 20, 2290547180, 0, 0⟩),
  (0x09000000_00004060701050D4, .lquery ⟨⟨5, false, 9, false, false⟩, .v 8, .v 14, .imm 3, .v 0, 0, 0, 0, 0⟩),
  (0x1E000000_00004308600960E0, .xsel ⟨⟨6, true, 14, true, false⟩, .v 4, .k 12, .imm 24, .v 0, 0, 0, 0, 0⟩)]

def words9 : List (IWord × Instr) := [
  (0x03200000_5AA762E8725070E1, Instr.xdisp ⟨⟨7, false, 3, false, false⟩, .k 40, .k 14, .b 7, 0, 0, 0, 181, 78, 1, 0⟩),
  (0x28000000_00000000500180E2, .xcurRd ⟨⟨8, true, 8, false, true⟩, .v 0, .v 10, .v 0, .v 0, 0, 0, 0, 0⟩),
  (0x1D000000_00000008500091E2, .xcurWr ⟨⟨9, false, 13, true, false⟩, .v 0, .k 10, .v 0, .v 0, 0, 0, 0, 0⟩),
  (0x02035606_DC3704086251A0E3, .xhist ⟨⟨10, true, 2, false, false⟩, .k 40, .k 12, .v 32, 2886580334, 0, 6⟩),
  (0x07000000_000000008010B0E4, .regrp ⟨⟨11, false, 7, false, false⟩, .v 8, .v 16, .v 0, .v 0, 0, 0, 0, 0⟩),
  (0x1C045BF2_A6A242C84009C0E5, .wwait ⟨⟨12, true, 12, true, false⟩, .v 4, .k 8, .imm 22, 3085258052, 0, 8⟩),
  (0x21041EE8_8BD78300500CD0E6, .wwake ⟨⟨13, false, 1, false, true⟩, .v 6, .v 10, .v 24, 1037113263, 0, 8⟩),
  (0x06000000_000000006607E0F0, .rmtOpen ⟨⟨14, true, 6, false, false⟩, .p 3, .v 12, .v 0, .v 0, 0, 0, 0, 0⟩),
  (0x1B000000_000000000000F0F1, .rmtCommit ⟨⟨15, false, 11, true, false⟩, .v 0, .v 0, .v 0, .v 0, 0, 0, 0, 0⟩),
  (0x00000000_00000000000100F2, .rmtAbort ⟨⟨0, true, 0, false, false⟩, .v 0, .v 0, .v 0, .v 0, 0, 0, 0, 0⟩),
  (0x0500040A_80000000001010F8, .sysrd ⟨⟨1, false, 5, false, false⟩, .v 8, .v 0, .v 0, .v 0, 2069, 0, 0, 0⟩),
  (0x3A00040A_80000008600120F9, .syswr ⟨⟨2, true, 10, true, true⟩, .v 0, .k 12, .v 0, .v 0, 2069, 0, 0, 0⟩),
  (0x0F000000_008802D0600C30FA, .fcancel ⟨⟨3, false, 15, false, false⟩, .v 6, .imm 12, .v 22, .k 16, 0, 0, 0, 0⟩),
  (0x0404F3A1_D04E2188401140FB, .ctxsave ⟨⟨4, true, 4, false, false⟩, .v 8, .k 8, .k 12, 3879968924, 0, 9⟩),
  (0x1904B697_B5838000800850FC, .ctxload ⟨⟨5, false, 9, true, false⟩, .v 4, .v 16, .v 0, 1831824135, 0, 9⟩),
  (0x0E000000_00000390900D60FD, .dbgrd ⟨⟨6, true, 14, false, false⟩, .v 6, .imm 18, .v 28, .v 0, 0, 0, 0, 0⟩)]

theorem test_decode_words0 : (words0.all fun x => reads x.1 x.2) = true := by decide +kernel

theorem test_decode_words1 : (words1.all fun x => reads x.1 x.2) = true := by decide +kernel

theorem test_decode_words2 : (words2.all fun x => reads x.1 x.2) = true := by decide +kernel

theorem test_decode_words3 : (words3.all fun x => reads x.1 x.2) = true := by decide +kernel

theorem test_decode_words4 : (words4.all fun x => reads x.1 x.2) = true := by decide +kernel

theorem test_decode_words5 : (words5.all fun x => reads x.1 x.2) = true := by decide +kernel

theorem test_decode_words6 : (words6.all fun x => reads x.1 x.2) = true := by decide +kernel

theorem test_decode_words7 : (words7.all fun x => reads x.1 x.2) = true := by decide +kernel

theorem test_decode_words8 : (words8.all fun x => reads x.1 x.2) = true := by decide +kernel

theorem test_decode_words9 : (words9.all fun x => reads x.1 x.2) = true := by decide +kernel

end Sys2Proof.Tests

namespace Sys2Proof.Tests

set_option Elab.async false

open Sys2Proof Sys2Proof.Spec

/-! Boster words from the fields OPC[31:26] D[25:22] A[21:18] B[17:14] IMM[13:0] of R420. -/

def bosterWords : List (BitVec 32 × Instr) := [
  (0x00000000, Instr.bnop), (0x07FFFFFF, .bli 15 0x3FFFFF), (0x08000000 + 0x00C00000 + 0x00100000 + 0x00014000, .badd 3 4 5),
  (0x0C000000 + 0x00C00000 + 0x00100000 + 0x3FFF, .baddi 3 4 0x3FFF), (0x10000000 + 0x00C00000 + 0x00100000 + 0x00014000, .band 3 4 5),
  (0x14000000 + 0x00C00000 + 0x00100000 + 0x3F, .bshr 3 4 63), (0x18000000 + 0x00100000 + 0x00014000 + 0x2001, .bbeq 4 5 0x2001),
  (0x1C000000 + 0x00100000 + 0x00014000 + 0x2001, .bbne 4 5 0x2001), (0x20000000, .bmatch), (0x24000000 + 0x02000000, .bfold 8),
  (0x28000000, .bfwdRes), (0x28000001, .bfwdUp), (0x28000002, .bfwdRaw), (0x2C000000, .bmcast), (0x30000000, .bgath),
  (0x34000000 + 0x02400000, .bcmpl 9), (0x38000000, .bfree), (0x3C000000, .bend), (0x40000000, .bosterReservedWord 0x40000000),
  (0x28000003, .bosterReservedWord 0x28000003), (0x20000001, .bosterReservedWord 0x20000001), (0x08000001, .bosterReservedWord 0x08000001),
  (0xFC000000, .bosterReservedWord 0xFC000000)]

theorem test_decode_boster : (bosterWords.all fun x => decide (decodeBoster x.1 = x.2) && decide (decodeTableWord 32 x.1.toNat = some x.2)) = true := by
  decide +kernel

def refuses (w : IWord) (r : Reject) : Bool := match decode w with | .ok _ => false | .error x => decide (x = r)

/-- R64, R68: a SUB that a row does not list, and nonzero bits of an unused field. -/
theorem test_refused : (refuses 0x2F000000_00000000_00000100 .illegalSub && refuses 0x2F000000_00000000_00000F00 .illegalSub &&
    refuses 0x6F000000_00000000_00000000 .reservedField && refuses 0x2F000000_00000000_00020000 .reservedField &&
    refuses 0x2F018000_00000000_500A0001 .reservedField && refuses 0x2F080000_00000000_000A0001 .reservedField &&
    reads 0x2F000000_00000000_0000001D (.unassignedOpcode 0x2F000000_00000000_0000001D)) = true := by decide +kernel

/-- `add.n32` with odd fields. -/
def addOk : FR := ⟨h0, .v 4, .v 6, .k 8, .v 0, 0, 0, 0, 2⟩
def ldOk : FM := ⟨h0, .v 4, .k 2, .v 0, 0, 0, 8⟩
def mxOk : FE := ⟨h0, .k 4, .k 5, .v 0, 2, 1, 0, 3, 2, 0, 6⟩
def cpyOk : FE := ⟨h0, .v 1, .k 8, .b 1, 0, 0, 0, 1, 0, 1, 0⟩

theorem test_wellFormed : ([Instr.add addOk, .ld ldOk, .mxloop mxOk, .cpyLd cpyOk, .sel { addOk with c := .p 1, t1 := 8 },
    .rep ⟨⟨0, false, 15, false, true⟩, .v 0, .imm 127, .v 0, 0, 0, 0, 0, 0⟩].all wf) = true := by decide +kernel

/-- One ill-formed term for each check of WellFormed. -/
theorem test_illFormed : ([
    Instr.add { addOk with c := .v 1 },                          -- an unused operand field (R43)
    .add { addOk with d := .v 5, t1 := 3 },                      -- an odd pair (R44)
    .add { addOk with d := .imm 4 },                             -- dst (R122)
    .add { addOk with a := .p 1 },                               -- isrc (R122)
    .fadd { addOk with a := .imm 1 },                            -- fsrc (R122)
    .add { addOk with rm := 2 },                                 -- RM
    .add { addOk with t1 := 8 },                                 -- integer types (R125)
    .and { addOk with t1 := 1 },                                 -- logical types (R128)
    .mov { addOk with b := .v 0, t1 := 2 },                      -- bit types (R132)
    .mov { addOk with a := .sv .lane, b := .v 0, t1 := 8 },      -- the source of mov (R132)
    .add { addOk with t2 := 1 }, .add { addOk with xf := 1 },    -- T2 and XF of format R (R46)
    .sel { addOk with t1 := 8 },                                 -- a predicate operand (R130)
    .pmovWRead { addOk with d := .v 4, a := .p 1, b := .v 0, t1 := 0, xf := 1 },  -- p0 (R133)
    .gets { addOk with b := .v 0, t1 := 8 },                     -- a special value (R132)
    .shflPick { addOk with a := .k 6, t1 := 8 },                 -- a vector register (R160)
    .redux .and { addOk with b := .v 0 }, .redux .add { addOk with b := .v 0, t1 := 8 },  -- the types of a fold (R161)
    .ld { ldOk with a := .imm 2 },                               -- the base of format M (R49)
    .ld { ldOk with t1 := 2 },                                   -- the types of memory (R206)
    .ld { ldOk with sc := 1 }, .ldAcq { ldOk with sc := 7 },     -- scopes (R48)
    .st { ldOk with d := .sv .lane },                            -- the data of a store (R208)
    .atom .add { ldOk with b := .v 7 }, .red .cas { ldOk with d := .v 4 },  -- the types and operations of atomics (R220)
    .barv { addOk with d := .v 0, b := .v 0, t1 := 0 },          -- a barrier operand (R41)
    .eqfence { addOk with d := .v 0, a := .imm 8, b := .v 0, t1 := 0 },  -- an immediate in its bounds (R246)
    .mxloop { mxOk with ks := 0 }, .mxloop { mxOk with ev := 1, b := .k 3 },  -- KS and an even pair (R234)
    .cpyLd { cpyOk with a := .k 60 }, .cpyLd { cpyOk with ev := 3 }, .cpyLd { cpyOk with b := .k 2 },  -- copies (R242, R243)
    .rep ⟨⟨0, false, 15, false, true⟩, .v 0, .imm 128, .v 0, 0, 0, 0, 0, 0⟩,  -- the count of a prefix (R61)
    .rep ⟨⟨1, false, 15, false, true⟩, .v 0, .imm 1, .v 0, 0, 0, 0, 0, 0⟩,    -- a prefix is not guarded (R61)
    .movk { addOk with a := .v 0, b := .v 0, rm := 2, t1 := 8 }, -- the halfword of a register (R132)
    .sysrd { addOk with d := .v 4, a := .v 0, b := .v 0, t1 := 0, xf := 9 }, .sysrd { addOk with d := .v 4, a := .v 0, b := .v 0, t1 := 0, xf := 0x820 },
    .unassignedOpcode 0, .bosterReservedWord 0x28000002].any wf) = false := by decide +kernel

end Sys2Proof.Tests

namespace Sys2Proof.Tests

set_option Elab.async false

open Sys2Proof Sys2Proof.Machine Sys2Proof.Spec

-- hypotheses: what computes in each lane

def meets (table : Instr → Option Calc) (s : State) (l : List Instr) : Bool :=
  l.all fun i => match table i with | some k => wf i && s.issues i k.h && outsAgree (outs k s i) | none => false

theorem witness_IntegerAndCompare :
    meets integer (gang 2) ([Instr.add, .sub, .mul, .mulhi, .min, .max].map (· fr) ++ [Instr.addI, .subI, .mulI, .mulhiI, .minI, .maxI].map (· fi) ++
      [Instr.abs, .neg].map (· { fr with b := .v 0 }) ++ [.mad { fr with c := .v 5 }, .madw { fr with d := .v 12, c := .v 2 },
        .add { fr with d := .k 4, a := .k 5, b := .imm 0xFF, t1 := 0, rm := 1 }, .add { fr with d := .v 12, a := .v 2, b := .v 6, t1 := 3 }]) = true ∧
    meets compare (gang 2) [.cmp { fr with d := .p 3 }, .cmpI { fi with d := .p 3 }, .sel { fr with c := .p 2, t1 := 8 },
      .lea { fr with d := .v 12, a := .v 2 }, .leaI { fi with d := .v 12, a := .v 2 }] = true := by decide +kernel

theorem witness_BitOperations :
    meets logic (gang 2) ([Instr.and, .or, .xor, .shl, .shr, .sar, .rot].map (· { fr with t1 := 8 }) ++
      [Instr.andI, .orI, .xorI, .shlI, .shrI, .sarI, .rotI].map (· { fi with t1 := 8 }) ++ [.not { fr with b := .v 0, t1 := 8 }]) = true ∧
    meets fields (gang 2) ([Instr.clz, .popc, .brev].map (· { fr with b := .v 0, t1 := 8 }) ++
      [.bfx { fr with c := .v 5 }, .bfi { fr with c := .v 5, t1 := 8 }]) = true := by decide +kernel

theorem witness_MovesAndPredicates :
    meets moves (gang 2) [.mov { fr with b := .v 0, t1 := 8 }, .movk { fr with a := .v 0, b := .v 0, t1 := 8, xf := 9, rm := 1 },
      .ldi { fi with a := .v 0, t1 := 9, d := .v 12 }, .ldiHi { fi with a := .v 0, t1 := 9, d := .v 12, rm := 1 },
      .gets { fr with a := .sv .lane, b := .v 0, t1 := 8 }] = true ∧
    meets predicates (gang 2) ([Instr.pand, .por, .pxor].map (· { fr with d := .p 1, a := .p 2, b := .p 3, t1 := 0 }) ++
      [Instr.pnot, .pmov].map (· { fr with d := .p 1, a := .p 2, b := .v 0, t1 := 0 }) ++
      [.pmovWRead { fr with a := .p 0, b := .v 0, t1 := 0, xf := 1 }, .pmovWWrite { fr with d := .p 0, b := .v 0, t1 := 0, xf := 1 }]) = true := by
  decide +kernel

-- results that the spec gives

/-- What a register of a fibre is owed by the instruction. -/
def owed (i : Instr) (s : State) (fid n : Nat) : Option (BitVec 32) :=
  (after (exec i s)).bind fun t => (t.fibre? 0 0 fid).bind fun f => (f.pend.find? fun w => w.loc == .v n).map (·.val)

/-- One fibre with values in `v1` to `v4`. -/
def vals (a b c d : BitVec 32) : State := withFibres (gang 1) fun f => { f with regs := [0, a, b, c, d] ++ List.replicate 11 0 }

/-- The example of R127. -/
theorem test_widths_and_saturation :
    let s := vals 0x64 0x32 0xFFFFFF9C 0
    let f : FR := { fr with a := .v 1, b := .v 2 }
    let g : FR := { fr with a := .v 3, b := .v 1 }
    [owed (.add { f with t1 := 0 }) s 0 4, owed (.add { f with t1 := 0, rm := 1 }) s 0 4, owed (.add { f with t1 := 4, rm := 1 }) s 0 4,
      owed (.add { g with t1 := 4 }) s 0 4, owed (.add { g with t1 := 4, rm := 1 }) s 0 4, owed (.mulhi { g with t1 := 6 }) s 0 4,
      owed (.mulhi { g with t1 := 2 }) s 0 4] =
    [some 0xFFFFFF96, some 0x7F, some 0x96, some 0, some 0xFF, some 0x63, some 0xFFFFFFFF] := by decide +kernel

/-- R125: `abs` of the least number, with and without `.sat`; R128: a shift by the width or more, and by a negative immediate. -/
theorem test_corners :
    let s := vals 0x80000000 32 31 0
    let f : FR := { fr with a := .v 1, b := .v 0 }
    [owed (.abs f) s 0 4, owed (.abs { f with rm := 1 }) s 0 4, owed (.shl { f with b := .v 2, t1 := 8 }) s 0 4, owed (.sar { f with b := .v 2, t1 := 8 }) s 0 4,
      owed (.shr { f with b := .v 3, t1 := 8 }) s 0 4, owed (.shrI { fi with a := .v 1, imm := 0xFFFFFFFF, t1 := 8 }) s 0 4,
      owed (.rot { f with b := .v 2, t1 := 8 }) s 0 4] =
    [some 0x80000000, some 0x7FFFFFFF, some 0, some 0xFFFFFFFF, some 1, some 0, some 0x80000000] := by decide +kernel

/-- R129: a signed field, and one that runs past the top. -/
theorem test_fields :
    let s := vals 0x0000ABC0 0xFFFFFFFF 0 0
    let f : FR := { fr with a := .v 1, b := .imm 4, c := .imm 12 }
    [owed (.bfx { f with t1 := 6 }) s 0 4, owed (.bfx { f with t1 := 2 }) s 0 4, owed (.bfx { f with b := .imm 12, c := .imm 63, t1 := 6 }) s 0 4,
      owed (.bfi { f with d := .v 2, a := .v 3, t1 := 8 }) s 0 2] =
    [some 0xABC, some 0xFFFFFABC, some 0xA, some 0xFFFF000F] := by decide +kernel

/-- R131, R132. -/
theorem test_moves :
    let s := vals 0x12345678 3 0x20 0
    [owed (.lea { fr with d := .v 4, a := .v 2, b := .imm 5, rm := 3, t1 := 2 }) s 0 4,
      owed (.movk { fr with d := .v 1, a := .v 0, b := .v 0, xf := 0xBEEF, rm := 1, t1 := 8 }) s 0 1,
      owed (.ldi { fi with d := .v 4, a := .v 0, imm := 0xFFFFFFFE, t1 := 9 }) s 0 5,
      owed (.ldiHi { fi with d := .v 4, a := .v 0, imm := 9, rm := 1, t1 := 9 }) s 0 5,
      owed (.ldiHi { fi with d := .v 4, a := .v 0, imm := 9, rm := 1, t1 := 9 }) s 0 4] =
    [some (3 + 40), some 0xBEEF5678, some 0xFFFFFFFF, some 9, none] := by decide +kernel

end Sys2Proof.Tests

namespace Sys2Proof.Tests

set_option Elab.async false

open Sys2Proof Sys2Proof.Machine Sys2Proof.Spec

def fmeets (table : Instr → Option FCalc) (s : State) (l : List Instr) : Bool :=
  l.all fun i => match table i with
    | some k => wf i && s.issues i k.f.h && (entry s i k.f.h k.f.t1).legal && (entry s i k.f.h k.f.t2).legal &&
        k.ok (entry s i k.f.h k.f.t1) (entry s i k.f.h k.f.t2) && pairBad (s.issueCtx i k.f.h) (s.landed i k.f.h) (entry s i k.f.h k.f.t2) k.f.d == [] &&
        pairBad (s.issueCtx i k.f.h) (s.landed i k.f.h) (entry s i k.f.h k.f.t1) k.f.a == [] && !(s.issueTeam i k.f.h).trapsNan &&
        outsAgree (fouts k s i)
    | none => false

def f1 : FR := { fr with a := .v 8, b := .v 0, t1 := 0 }
def f2 : FR := { f1 with b := .v 9 }
def p1 : FR := { f1 with t1 := 1, t2 := 1 }
def p2 : FR := { f2 with t1 := 1, t2 := 1 }

theorem witness_FloatArithmetic :
    fmeets float (gang 2) ([Instr.fadd, .fsub, .fmul, .fmin, .fmax].map (· f2) ++ [Instr.faddPk, .fsubPk, .fmulPk, .fminPk, .fmaxPk].map (· p2) ++
      [.ffma { f2 with c := .v 9 }, .ffmaPk { p2 with c := .v 9 }, .fadd { f2 with t2 := 9, rm := 4 }] ++
      [Instr.frcp, .frsq, .fsqrt, .fexp2, .flog2, .fsin, .fcos, .ftanh, .frnd].map (· f1)) = true ∧
    fmeets float (gang 1) ([Instr.frcpPk, .frsqPk, .fsqrtPk, .fexp2Pk, .flog2Pk, .fsinPk, .fcosPk, .ftanhPk, .frndPk].map (· p1)) = true := by
  decide +kernel

theorem witness_Conversions :
    fmeets convert (gang 2) [.cvt { f1 with t2 := 3 }, .cvt { f1 with d := .v 12, t2 := 15 }, .cvti { f1 with b := .imm 0xFF, t2 := 3 },
      .cvtPk { p1 with t2 := 9 }, .pk { f2 with c := .imm 1, t2 := 9 }, .upk { f1 with d := .v 12, b := .imm 1, t1 := 9 }] = true := by decide +kernel

def b16 : FR := { fr with a := .v 1, b := .v 2, c := .v 3, t1 := 1, t2 := 1 }

/-- The example of R140: one rounding against two. -/
theorem test_one_rounding_against_two :
    let s := vals 0x3F84 0x3F78 0xBF80 0x3F80
    [owed (.ffma b16) s 0 4, owed (.fmul { b16 with c := .v 0 }) s 0 4, owed (.fadd { b16 with a := .v 4, b := .v 3, c := .v 0 }) s 0 4] =
    [some 0xBA80, some 0x3F80, some 0] := by decide +kernel

/-- The example of R147: packing two binary8p4 values, one of which saturates and counts. -/
theorem test_packing :
    let s := vals 0x3F800000 0x43960000 0 0
    let i := Instr.pk { fr with a := .v 1, b := .v 2, c := .imm 1, t1 := 0, t2 := 9 }
    owed i s 0 4 = some 0x7F400000 ∧ ((after (exec i s)).bind fun t => (t.team? 0 0).map fun t => t.qadds.map (·.ovr)) = some [1] ∧
    let u := Instr.upk { fr with d := .v 6, a := .v 4, b := .imm 1, t1 := 9, t2 := 0 }
    let s := vals 0 0 0 0x7F400000
    [owed u s 0 6, owed u s 0 7] = [some 0x3F800000, some 0x43700000] := by decide +kernel

def e2m1 : Nat := 11

/-- The example of R86: a block of E2M1 elements with an E8M0 scale. -/
theorem test_quant_block :
    let v := [Val.fin false 10 1, .fin false 7 10, .fin false 2 10, .fin true 3 1] ++ List.replicate 28 (Val.fin false 0 1)
    let r := quantBlock (Fmt.of ((team 1).tar e2m1)) true v (.fin false 1 1) 0 (List.replicate 32 0)
    r.1 = 0x80 ∧ r.2.1.take 5 = [6, 1, 0, 0xB, 0] ∧ r.2.2.ufl = 1 := by decide +kernel

end Sys2Proof.Tests

namespace Sys2Proof.Tests

set_option Elab.async false

open Sys2Proof Sys2Proof.Machine Sys2Proof.Spec

def laneInstrs : List Instr :=
  [Instr.shflPick, .shflShift, .shflRot, .shflMir].map (· { fr with t1 := 8 }) ++
  [Instr.voteEvery, .voteSome].map (· { fr with d := .p 1, a := .p 2, b := .v 0, t1 := 0 }) ++
  [Instr.voteMask, .voteCount].map (· { fr with a := .p 2, b := .v 0, t1 := 0 }) ++
  [RedOp.add, .min, .max].flatMap (fun op => [Instr.redux op, .scan op, .scanEx op].map (· { fr with b := .v 0 })) ++
  [RedOp.and, .or, .xor].flatMap (fun op => [Instr.redux op, .scan op, .scanEx op].map (· { fr with b := .v 0, t1 := 8 })) ++
  [Instr.matchPeers, .matchFirst].map (· { fr with b := .v 0, t1 := 8 }) ++ [Instr.matchSame { fr with d := .p 1, b := .v 0, t1 := 8 }]

theorem witness_LaneInstructions :
    (laneInstrs.all fun i => match lanes i with
      | some k => wf i && (gang 3).issues i k.h && outsAgree (louts k (gang 3) i)
      | none => false) = true := by decide +kernel

theorem witness_NoEffectAndBranches :
    mayAll (gang 2) [(.nop { fr with d := .v 0, a := .v 0, b := .v 0, t1 := 0 }, h0), (.yield { fr with d := .v 0, a := .v 0, b := .v 0, t1 := 0 }, h0),
      (.prfL2 { fm with d := .v 0, t1 := 0 }, h0), (.bra fc, h0), (.brx { fr with d := .v 0, a := .v 2, b := .v 0, t1 := 0 }, h0)] = true := by decide +kernel

def callI : Instr := .call { fc with d := .v 2 }
def callS : State := withFibres (gang 1) fun f => { f with regs := regs 1 }

theorem witness_CallsAndReturns :
    (let x := callS.issueCtx callI h0
     let s' := callS.landed callI h0
     let a := x.rd s' 0 true (.v 2) - 8
     wf callI = true ∧ callS.issues callI h0 = true ∧ x.act = [0] ∧ (leaf 0x5550000 2 1).apt < 4 ∧
     (∃ t ∈ s'.team? x.core x.slot, s'.judgeRecord x.core t 0 a.toNat = .go (leaf 0x5550000 2 1)) ∧
     (s'.enterStores x.core x.slot x.pc none [⟨0, a.toNat, 8, (x.pc + 12).toNat, leaf 0x5550000 2 1⟩]).isSome = true) ∧
    (wf (.calli { fr with d := .v 2, a := .v 4, b := .v 0, t1 := 0 }) = true ∧ callS.issues (.calli { fr with d := .v 2, a := .v 4, b := .v 0, t1 := 0 }) h0 = true) ∧
    let r : FR := { fr with d := .v 2, a := .v 0, b := .v 0, t1 := 0 }
    let x := callS.issueCtx (.ret r) h0
    let s' := callS.landed (.ret r) h0
    let sp := (x.rd s' 0 true (.v 2)).toNat
    wf (.ret r) = true ∧ callS.issues (.ret r) h0 = true ∧ x.act = [0] ∧
    (∃ t ∈ s'.team? x.core x.slot, s'.judgeRead x.core t 0 sp 8 .read = .go (leaf 0x5550000 2 1)) ∧
    s'.readHeld x.core x.slot 0 sp 8 (leaf 0x5550000 2 1) = false := by decide +kernel

/-- A team whose handler takes every cause. -/
def handling (s : State) : State := withTeam s fun t => { t with tmask := 0xFFFFFFFFFFFFFFFF, tvec := 0x20000 }

def trapI : FI := { fi with d := .v 0, a := .v 0, imm := 0x99, t1 := 0 }

theorem witness_SoftwareTraps :
    let s := handling (gang 1)
    (∀ p ∈ [(Instr.trap trapI, Cause.softwareTrap), (Instr.brk trapI, Cause.breakpoint)], wf p.1 = true ∧ s.issues p.1 h0 = true ∧
      let x := s.issueCtx p.1 h0
      let s' := s.landed p.1 h0
      x.act = [0] ∧ ∃ t ∈ s'.team? x.core x.slot, ∃ f ∈ t.fibre? 0, f.inh = false ∧ f.region = none ∧ t.tmask.getLsbD p.2.code = true ∧
        t.dbg.ctl.getLsbD 0 = false) := by decide +kernel

theorem witness_TrapEntry :
    let s := handling (gang 2)
    ∃ t ∈ s.team? 0 0, ∃ f ∈ t.fibre? 1, f.inh = false ∧ f.region = none ∧ t.tmask.getLsbD Cause.pageFault.code = true ∧
      (Cause.pageFault.debugger && t.dbg.ctl.getLsbD 0) = false := by decide +kernel

def retI : Instr := .retTrap { fr with d := .v 0, a := .v 0, b := .v 0, t1 := 0 }

/-- A page of instructions at 0, or a walk there that has ended with nothing. -/
def inPage (k : Nat) (s : State) : State :=
  s.modCore 0 fun c => if k = 0 then { c with tlb := c.tlb ++ [⟨1, 0, { leaf 0x5550000 2 1 with ex := true }, false, []⟩] }
    else { c with walkFail := [(1, 0, 1)] }

theorem witness_ReturnFromHandler :
    let s := withFibres (gang 1) fun f => { f with inh := true }
    wf retI = true ∧ s.issues retI h0 = true ∧ (s.issueCtx retI h0).act = [0] ∧
    (∃ g ∈ (s.issueTeam retI h0).fibre? 0, g.inh = true) ∧
    (((s.landed retI h0).core 0).sb.any fun e => e.slot == 0 && e.kind.fids.contains 0) = false ∧
    (∀ g ∈ (s.fibre? 0 0 0), g.pend = [] ∧ g.pred.getLsbD 0 = true) ∧
    -- the word at RPC is there, or is not: with no page at it, and a walk of it that has failed
    ∀ k ∈ [0, 1],
      let s := inPage k s
      let s' := s.landed retI h0
      wf retI = true ∧ s.issues retI h0 = true ∧
      let t := s.issueTeam retI h0
      let r := s'.readOwn 0 t 0 (t.frbase + 0x1000) 2
      (match r.1.fetch 0 t (BitVec.ofNat 56 (field r.2 8 8)) with | .word .. => k == 0 | .fault .. => k == 1 | _ => false) = true := by decide +kernel

def exitI : Instr := .exit { fr with d := .v 0, a := .v 0, b := .v 0, t1 := 0 }
def forkI (n : BitVec 8) : Instr := .fork { fc with d := .v 4, a := .imm n, b := .v 5, cm := 1 }

/-- `fork` of no fibre, and of three in a gang of two, of which only one is active. -/
theorem witness_ExitAndFork :
    (wf exitI = true ∧ (gang 2).issues exitI h0 = true) ∧ (wf (forkI 0) = true ∧ (gang 1).issues (forkI 0) h0 = true ∧ ((gang 1).issueCtx (forkI 0) h0).act = [0]) ∧
    let s := gang 1
    let i := forkI 3
    let x := s.issueCtx i h0
    let s' := s.landed i h0
    wf i = true ∧ s.issues i h0 = true ∧ x.act = [0] ∧ (x.rd s' 0 false (.imm 3)).toNat % 2 ^ 32 = 3 ∧
    (∃ t ∈ s'.team? x.core x.slot, (∀ k ∈ x.gang, k < t.nextFid) ∧ (t.fibre? 0).isSome = true ∧ t.nextFid + 3 - 1 ≤ 32767) ∧
    s'.relReady x.core x.slot 0 = true ∧ (s'.core x.core).fibreCount + 3 ≤ 1024 ∧
    (placeAll (List.replicate 3 16) 0 (s'.core x.core).windows).isSome = true := by decide +kernel

def hP : Hints := ⟨0, false, 0, false, false⟩
def repI (n : BitVec 8) : Instr := .rep ⟨noHints, .v 0, .imm n, .v 0, 0, 0, 1, 1, 0⟩

/-- An `add` under the prefix, at the address that follows it. -/
def addWord : IWord := match encode (.add fr) with | .fibre w => w | _ => 0

def repS : State :=
  { gang 2 with
    mem := Memory.write [] 0x5550000 24 (addWord.toNat * 2 ^ 96), cores := [(0, { (gang 2).core 0 with tlb := [⟨1, 0x10000, { leaf 0x5550000 2 1 with ex := true }, false, []⟩] })] }

theorem fibres_all {s : State} {c slot : Nat} {P : Fibre → Prop} (h : ∀ t ∈ s.team? c slot, ∀ f ∈ t.fibres, P f) :
    ∀ fid g, s.fibre? c slot fid = some g → P g := by
  intro fid g hg
  cases ht : s.team? c slot with
  | none => simp [State.fibre?, ht] at hg
  | some t =>
    simp only [State.fibre?, ht, Option.bind_some, Team.fibre?] at hg
    exact h t ht g (List.mem_of_find?_eq_some hg)

theorem witness_RepeatPrefix :
    (wf (repI 0) = true ∧ repS.issues (repI 0) hP = true ∧ (∀ fid g, (repS.landed (repI 0) hP).fibre? 0 0 fid = some g → g.rep = none)) ∧
    (let x := repS.issueCtx (repI 5) hP
     let s' := repS.landed (repI 5) hP
     let t := repS.issueTeam (repI 5) hP
     wf (repI 5) = true ∧ repS.issues (repI 5) hP = true ∧ (∀ fid ∈ x.gang, ∃ g ∈ t.fibre? fid, g.rc.toNat < 5) ∧
     (match repS.fetch x.core t (x.pc + 12) with | .word w r => w == addWord && r == repS | _ => false) = true ∧
     pairCheck (s'.context t.ctx).supervisor t x.gang ⟨noHints, .v 0, .imm 5, .v 0, 0, 0, 1, 1, 0⟩ addWord = none ∧
     let r := withFibres repS fun f => { f with rc := 5 }
     r.issues (repI 5) hP = true ∧ ∀ fid ∈ x.gang, ∃ g ∈ (r.issueTeam (repI 5) hP).fibre? fid, 5 ≤ g.rc.toNat ∧ g.rep = none) :=
  ⟨⟨by decide +kernel, by decide +kernel, fibres_all (by decide +kernel)⟩, by decide +kernel⟩

theorem witness_MaskedSynchronisation :
    let i := Instr.lsync { fr with d := .v 0, a := .imm 1, b := .v 0, t1 := 0 }
    let j := Instr.lsync { fr with d := .v 0, a := .imm 2, b := .v 0, t1 := 0 }
    let s := { gang 2 with cur := ⟨0, 0, [0]⟩ }
    ∀ i' ∈ [i, j], wf i' = true ∧ s.issues i' h0 = true ∧ (s.issueCtx i' h0).act = [0] ∧
      ∃ t ∈ (s.landed i' h0).team? 0 0, (∃ g ∈ t.fibre? 0, g.msp = false ∧ ∃ k ∈ t.fibre? 1, k.role = g.role) ∧
        (t.fibres.all fun k => k.lsyncMask?.isNone) = true := by decide +kernel

end Sys2Proof.Tests

namespace Sys2Proof.Tests

set_option Elab.async false

open Sys2Proof Sys2Proof.Machine Sys2Proof.Spec

-- loads, stores and atomics

/-- Two lanes whose addresses are those of (v2, v3). -/
def memS : State := gang 2

def memLeaf : Leaf := leaf 0x5550000 2 1

def loads (f : FM) : List (Instr × Hints) := [(.ld f, h0), (.ldAcq { f with sc := 3 }, h0)]
def stores (f : FM) : List (Instr × Hints) := [(.st f, h0), (.stRel { f with sc := 3 }, h0)]

theorem witness_LoadAndStoreIssue :
    (∀ f ∈ [fm, { fm with d := .k 8 }, { fm with d := .v 12, t1 := 9 }, { fm with t1 := 0 }],
      mayAll memS (loads f) = true ∧
      let x := memS.issueCtx (.ld f) h0
      let s' := memS.landed (.ld f) h0
      x.act = [0, 1] ∧ ∃ t ∈ s'.team? 0 0, ∀ fid ∈ x.act,
        let va := address f x s' fid
        let n := width f.t1 / 8
        (va % n = 0 ∧ va < 2 ^ 56 ∧ s'.acqOpen x.core x.slot fid = false ∧ (s'.look x.core t.ctx t.world .read va = .ok memLeaf) ∧
          s'.logged x.core x.slot fid va = false ∧ memLeaf.apt < 4 ∧ s'.hostGone memLeaf va = false) ∧
        s'.poisoned (memLeaf.phys va) n = false ∧ t.watch? va n true false = none) ∧
    (∀ f ∈ [fm, { fm with d := .v 12, t1 := 9 }],
      mayAll memS (stores f) = true ∧
      let x := memS.issueCtx (.st f) h0
      let s' := memS.landed (.st f) h0
      (∃ t ∈ s'.team? 0 0, ∀ fid ∈ x.act,
        let va := address f x s' fid
        let n := width f.t1 / 8
        (va % n = 0 ∧ va < 2 ^ 56 ∧ s'.acqOpen x.core x.slot fid = false ∧ (s'.look x.core t.ctx t.world .write va = .ok memLeaf) ∧
          s'.logged x.core x.slot fid va = false ∧ memLeaf.apt < 4 ∧ s'.hostGone memLeaf va = false) ∧
        s'.relReady x.core x.slot fid = true ∧ s'.countFull x.core x.slot fid = false ∧ t.watch? va n false true = none) ∧
      (s'.bufferStores x none (puts f (fun _ => memLeaf) x s')).2 = []) := by decide +kernel

def load1 : Load := ⟨7, 0, 1, 8, 0x20044, memLeaf, none, none⟩
def entry1 : SBEntry := ⟨7, 0, 0x20040, memLeaf, .store [(1, 0xF)] 0xF 0x01020304, 0x10000, none, false, none, none⟩

def inCore (s : State) (f : Core → Core) : State := s.modCore 0 f

def withEntry (e : SBEntry) : State := { inCore (gang 2) fun k => { k with sb := [e] } with uid := 8, par := { (gang 2).par with core := 0, id := 7 } }

theorem witness_StoreBufferEntry :
    ((gang 2).core 0).sb.length < 256 ∧
    (let e := { entry1 with leaf := leaf 0x5550000 2 1 }
     let p : Put := ⟨1, 0x20048, 4, 9, e.leaf⟩
     ((((withEntry e).core 0).sb.filter fun o => o.slot == 0 && o.kind.fids.contains p.fid && o.va / p.leaf.size == p.va / p.leaf.size).getLast? = some e ∧
      e.kind = .store [(1, 0xF)] 0xF 0x01020304 ∧ e.va = p.va / 32 * 32 ∧ e.leaf = p.leaf ∧ e.sent = false ∧ e.leaf.ord ≠ 0 ∧ e.call = none ∧
      e.toLog = none) ∧ p.va % 32 + p.n ≤ 32 ∧
     let l := { load1 with id := 9, va := 0x20048, leaf := e.leaf }
     ((withEntry e).core 0).readsAfter 0 1 e.id (p.leaf.phys p.va) p.mask = false ∧ ((gang 2).core 0).mergeInto 0 p = none ∧
     ((inCore (withEntry e) fun k => { k with loads := [l] }).core 0).readsAfter 0 1 e.id (p.leaf.phys p.va) p.mask = true ∧
     e.id < l.id ∧ l.leaf.phys l.va / 32 = p.leaf.phys p.va / 32 ∧ (2 ^ (width l.t1 / 8) - 1) * 2 ^ (l.va % 32) &&& p.mask ≠ 0) ∧
    256 ≤ ((inCore (gang 2) fun k => { k with sb := List.replicate 256 entry1 }).core 0).sb.length := by decide +kernel

def atoms (f : FM) : List (Instr × Hints) :=
  [AtomOp.add, .min, .max, .and, .or, .xor, .exch, .cas].flatMap (fun op =>
    let f := { f with t1 := if op ∈ [.add, .min, .max] then 6 else 8 }
    [(.atom op f, h0), (.atomAcq op { f with sc := 3 }, h0), (.atomRel op { f with sc := 3 }, h0), (.atomAr op { f with sc := 3 }, h0)]) ++
  [(.atom .fadd { f with t1 := 0 }, h0), (.atomAcq .fadd { f with t1 := 1, sc := 3 }, h0)]

def reds (f : FM) : List (Instr × Hints) :=
  [AtomOp.add, .min, .max, .and, .or, .xor].flatMap (fun op =>
    let f := { f with d := .v 5, b := .v 0, t1 := if op ∈ [.add, .min, .max] then 6 else 8 }
    [(.red op f, h0), (.redRel op { f with sc := 3 }, h0)]) ++ [(.red .fadd { f with d := .v 5, b := .v 0, t1 := 1 }, h0)]

def am : FM := { fm with b := .v 5 }

theorem witness_AtomicIssue :
    mayAll (gang 1) (atoms am) = true ∧ mayAll (gang 1) (atoms { am with d := .k 8 }) = true ∧ mayAll (gang 1) (reds am) = true ∧
    (∀ p ∈ [(Instr.atom .add { am with t1 := 6 }, AtomOp.add, (6 : BitVec 6)), (.atom .fadd { am with t1 := 1 }, .fadd, 1)],
      let s := gang 1
      let x := s.issueCtx p.1 h0
      let s' := s.landed p.1 h0
      x.act = [0] ∧ atomCheck p.2.1 p.2.2 x s' = [] ∧ (s'.core 0).sb.length < 256 ∧ ∃ t ∈ s'.team? 0 0,
        let n := atomBytes p.2.1 p.2.2 (t.tar p.2.2.toNat)
        let va := address am x s' 0
        (va % n = 0 ∧ va < 2 ^ 56 ∧ s'.acqOpen x.core x.slot 0 = false ∧ s'.look x.core t.ctx t.world .atomic va = .ok memLeaf ∧
          s'.logged x.core x.slot 0 va = false ∧ memLeaf.apt < 4 ∧ s'.hostGone memLeaf va = false) ∧
        s'.poisoned (memLeaf.phys va) n = false ∧ s'.relReady x.core x.slot 0 = true ∧ s'.countFull x.core x.slot 0 = false ∧
        t.watch? va n true true = none) := by decide +kernel

/-- A state that an event reaches, with its inputs. -/
def event (s : State) (p : Params) : State := { s with par := p }

def cached : Leaf := leaf 0x5550000 0 1
def sector1 : L1Sector := ⟨0x5550040, 0x99887766, 0, [], false⟩

theorem witness_LoadResponse :
    let s := inCore (withEntry entry1) fun k => { k with sb := [], loads := [load1] }
    ((s.core 0).loads.find? (·.id == s.par.id) = some load1 ∧ s.loadHeld 0 load1 = false ∧ memLeaf.cached = false ∧
      (s.core (s.l1Slice 0 (memLeaf.phys 0x20044))).sector? (sectorOf (memLeaf.phys 0x20044)) = none ∧ memLeaf.phys 0x20044 % 4 = 0 ∧
      (s.core 0).forward 0 1 7 (sectorOf (memLeaf.phys 0x20044)) = (0, 0)) ∧
    let l := { load1 with leaf := cached }
    let s := inCore s fun k => { k with loads := [l], l1 := [sector1] }
    (s.core 0).loads.find? (·.id == s.par.id) = some l ∧ s.loadHeld 0 l = false ∧ cached.cached = true ∧
      (s.core (s.l1Slice 0 (sectorOf (cached.phys 0x20044)))).sector? (sectorOf (cached.phys 0x20044)) = some sector1 ∧
      (s.core 0).forward 0 1 7 (sectorOf (cached.phys 0x20044)) = (0, 0) ∧ (s.core 0).fused = false ∧ (2 : BitVec 3).toNat ≤ 2 ∧
    (∃ f ∈ s.fibre? 0 0 1, f.wait = none) ∧ ∃ f ∈ (withFibres s fun f => { f with wait := some (.remote 7) }).fibre? 0 0 1, f.wait = some (.remote 7) ∧
      f.stepping = false := by decide +kernel

theorem witness_StoreDrain :
    (let s := withEntry entry1
     (s.core 0).sb.find? (·.id == s.par.id) = some entry1 ∧ s.drainHeld 0 entry1 = false ∧ memLeaf.cached = false ∧ memLeaf.phys entry1.va % 32 = 0 ∧
       (s.core (s.l1Slice 0 (memLeaf.phys entry1.va))).sector? (sectorOf (memLeaf.phys entry1.va)) = none ∧ Memory.wf s.mem = true) ∧
    (let e := { entry1 with leaf := cached }
     let s := inCore (withEntry e) fun k => { k with l1 := [sector1] }
     (s.core 0).sb.find? (·.id == s.par.id) = some e ∧ s.drainHeld 0 e = false ∧ e.leaf.cached = true ∧
       (s.core (s.l1Slice 0 (e.leaf.phys e.va))).sector? (e.leaf.phys e.va) = some sector1) ∧
    (let e := { entry1 with leaf := leaf 0x5550000 2 2 }
     let s := withEntry e
     (s.core 0).sb.find? (·.id == s.par.id) = some e ∧ s.drainHeld 0 e = false ∧ e.leaf.ord = 2 ∧ e.leaf.phys e.va % 32 = 0 ∧
       (0xF : BitVec 32) &&& BitVec.ofNat 32 3 ≠ 0 ∧ (0xF : BitVec 32) &&& BitVec.ofNat 32 3 ≠ 0xF) ∧
    (let e := { entry1 with leaf := leaf 0x5550000 2 0 }
     let s := inCore (withEntry e) fun k => { k with sb := [{ e with id := 3 }, e] }
     (s.core 0).sb.find? (·.id == s.par.id) = some e ∧ s.drainHeld 0 e = true) := by decide +kernel

def atom1 : Atomic := ⟨7, 0, .add, 6, 0, 0x20048, memLeaf, 4, [(0, 3, 0), (1, 5, 0)], none, none, 7⟩

theorem witness_AtomicResponse :
    let s := inCore (withEntry entry1) fun k => { k with sb := [], atomics := [atom1] }
    (s.core 0).atomics.find? (·.id == s.par.id) = some atom1 ∧ s.atomHeld 0 atom1 = false ∧ atom1.op ≠ .fadd ∧ atom1.len = width atom1.t1 / 8 ∧
      (s.core (s.l1Slice 0 (memLeaf.phys 0x20048))).sector? (sectorOf (memLeaf.phys 0x20048)) = none ∧ Memory.wf s.mem = true ∧
      (atom1.lanes.map (·.1)).Nodup ∧ (s.fibre? 0 0 1).isSome = true ∧
    let s := inCore s fun k => { k with sb := [{ entry1 with id := 3, kind := .store [(1, 0xF00)] 0xF00 0 }] }
    s.atomHeld 0 atom1 = true := by decide +kernel

theorem witness_MemorySteps :
    let s := withEntry entry1
    ((inCore s fun k => { k with acks := [⟨7, [(0, 1)]⟩] }).core 0).acks.find? (·.id == 7) = some ⟨7, [(0, 1)]⟩ ∧
    ((inCore s fun k => { k with l1 := [{ sector1 with dirty := 3 }] }).core 0).sector? (0x5550047 / 32 * 32) = some { sector1 with dirty := 3 } ∧
    (s.core 0).tlb.any (·.covers 1 0x80000) = false ∧ (match s.walk 1 0x80000 with | .absent => true | _ => false) = true ∧ (s.core 0).tlb.length < 128 := by
  decide +kernel

/-- The example of R221: four lanes add 3, 5, 2 and 4 to a counter that holds 10. -/
theorem test_one_address_from_four_lanes :
    let a := { atom1 with lanes := [(0, 3, 0), (1, 5, 0), (2, 2, 0), (3, 4, 0)] }
    let s := { inCore (gang 4) fun k => { k with atomics := [a] } with mem := Memory.write [] 0x5550048 4 10 }
    let s := withFibres { s with par := { s.par with core := 0, id := 7 } } fun f => { f with pend := [⟨.v 6, false, 0, .out, 7⟩], unack := 1 }
    ((after (exec .atomicResponse s)).map fun t => (Memory.read t.mem 0x5550048 4, (List.range 4).map fun n => ((t.fibre? 0 0 n).bind (·.pend.head?)).map (·.val))) =
      some (24, [some 10, some 13, some 18, some 20]) := by decide +kernel

/-- The example of R222: two lanes of one gang add 2^-8 to a BF16 word of 1.0. -/
theorem test_fadd_composition :
    let tar := (team 1).tar 1
    (atomGroup .fadd 1 tar 2 0x3F80 [(0x3B80, 0), (0x3B80, 0)]).2 = 0x3F81 ∧ (atomGroup .fadd 1 tar 2 0x3F80 [(0x3B80, 0)]).2 = 0x3F80 := by decide +kernel

end Sys2Proof.Tests

namespace Sys2Proof.Tests

set_option Elab.async false

open Sys2Proof Sys2Proof.Machine Sys2Proof.Spec

-- scratchpads

/-- Addresses of the scratchpad stand in `v10`, those of the cluster's in `v12`. -/
def spS (n : Nat) : State :=
  withFibres (gang n) fun f => { f with regs := (f.regs.set 12 (BitVec.ofNat 32 (0x80000000 + 64 * f.fid))).set 2 (BitVec.ofNat 32 (0xFF000 + 12)) }

def sm : FM := { fm with a := .v 10 }

theorem witness_ScratchpadAccess :
    (∀ p ∈ [(Instr.lds sm, SpKind.load 8), (.lds { sm with d := .k 8 }, .load 8), (.sts sm, .store 8)],
      wf p.1 = true ∧ (spS 2).issues p.1 h0 = true ∧
      let x := (spS 2).issueCtx p.1 h0
      let s := (spS 2).landed p.1 h0
      x.act ≠ [] ∧ (∃ t ∈ s.team? 0 0, ∀ fid ∈ x.act,
        let a := spadAddress sm x s fid
        a % 4 = 0 ∧ a < 0xFF000 ∧ t.spadBase ≤ a ∧ a + 4 ≤ t.spadBase + t.spadSize ∧
        t.watch? (0xFE * 2 ^ 56 + a) 4 p.2.isLoad (!p.2.isLoad) = none ∧ s.acqOpen x.core x.slot fid = false ∧ s.countFull x.core x.slot fid = false) ∧
      s.spadRoom x p.2 false (spadLanes sm p.2.isLoad (fun fid => x.core * 2 ^ 20 + spadAddress sm x s fid) x s) = true) ∧
    let cm := { sm with a := .v 12 }
    (∀ p ∈ [(Instr.ldx cm, SpKind.load 8), (.ldx { cm with d := .k 8 }, .load 8), (.stx cm, .store 8)],
      wf p.1 = true ∧ (spS 2).issues p.1 h0 = true ∧
      let x := (spS 2).issueCtx p.1 h0
      let s := (spS 2).landed p.1 h0
      x.act ≠ [] ∧ (∃ t ∈ s.team? 0 0, ∀ fid ∈ x.act,
        let a := spadAddress cm x s fid
        a % 4 = 0 ∧ a / 2 ^ 28 = 8 ∧ a % 2 ^ 20 < 0xFF000 ∧
        (∃ u ∈ (s.core (256 * (x.core / 256) + bits a 20 8)).teams, u.ctx = t.ctx ∧ u.spadBase ≤ a % 2 ^ 20 ∧ a % 2 ^ 20 + 4 ≤ u.spadBase + u.spadSize) ∧
        s.acqOpen x.core x.slot fid = false ∧ s.countFull x.core x.slot fid = false) ∧
      s.spadRoom x p.2 true (spadLanes cm p.2.isLoad (clusterByte cm x s) x s) = true) := by decide +kernel

def lane1 (d : BitVec 64) : SpLane := ⟨1, 320, d, 0, 0, none⟩
def op1 (k : SpKind) (left : Nat) : SpOp := ⟨7, 0, 0, 1, 0x10000, k, [lane1 9], left, [], [], false, none, none⟩
def req1 : SpReq := ⟨7, 320, some 1, 7⟩
def spEvent (o : SpOp) (r : List SpReq) (p : Params) : State := { inCore (gang 2) fun k => { k with bankq := r } with spOps := [o], uid := 8, par := p }

/-- A bank with one request; the second clause's entry of the range scoreboard holds it. -/
theorem witness_BankServe :
    (∀ k ∈ [SpKind.load 8, .store 8, .atom .add 6 0 4 true],
      let s := spEvent (op1 k 2) [req1] { n := 320 / 4 % 32 }
      ((s.core 0).bankq.find? fun r => r.word / 4 % 32 == s.par.n && !(s.core 0).spHeld r.arr r.word) = some req1 ∧
      s.spOps.find? (·.id == req1.op) = some (op1 k 2) ∧ req1.lane = some 1 ∧ (op1 k 2).lanes.find? (·.fid == 1) = some (lane1 9) ∧
      (s.core 0).canonical = true) ∧
    let s := inCore (spEvent (op1 (.load 8) 1) [req1] { n := 320 / 4 % 32 }) fun k => { k with ranges := [⟨2, 2, 0, 65536⟩] }
    ((s.core 0).bankq.find? fun r => r.word / 4 % 32 == s.par.n && !(s.core 0).spHeld r.arr r.word) = none ∧ req1 ∈ (s.core 0).bankq := by
  decide +kernel

/-- A load from another core that comes to the bank queues of core 1, and its answer. -/
theorem witness_BankServe_remote :
    (let o := { op1 (.load 8) 1 with remote := true, lanes := [⟨1, 2 ^ 20 + 320, 0, 0, 0, none⟩], toArrive := [1] }
     let s := { spEvent o [] { id := 7, k := 1 } with cores := [(0, (gang 2).core 0), (1, { Core.reset with teams := [{ team 0 with slot := 3 }] })] }
     s.spOps = [o] ∧ o.core ≠ 1 ∧ 0 < o.left ∧ s.clusterHolds o.ctx 1 o.kind 320 = true ∧ (s.core 1).portq = [] ∧ (s.core 1).bankRoom (o.requests 1) = true ∧
     (after (exec .remoteScratchpadArrival s)).map (fun t => (t.core 1).bankq) = some [⟨7, 320, none, 8⟩]) ∧
    let o := { op1 (.load 8) 0 with remote := true, words := [(320, 9)] }
    let s := withFibres (spEvent o [] { id := 7 }) fun f => { f with pend := [⟨.v 4, false, 0, .out, 7⟩] }
    (after (exec .remoteScratchpadResponse s)).map (fun t => (t.spOps.length, (t.fibre? 0 0 1).map (·.pend))) =
      some (0, some [⟨.v 4, false, 9, .at 0, 7⟩]) := by decide +kernel

/-- `ldx` and `stx` of one lane, and of none; the answer to an `stx`. -/
theorem witness_ScratchpadResults_cluster :
    (∀ i ∈ [Instr.ldx { sm with a := .v 12 }, .stx { sm with a := .v 12 }],
      (wf i = true ∧ (spS 1).issues i h0 = true ∧ ((spS 1).issueCtx i h0).act = [0]) ∧
      let h : Hints := { h0 with g := 1 }
      let j := match i with | .ldx f => Instr.ldx { f with h := h } | .stx f => .stx { f with h := h } | i => i
      wf j = true ∧ (spS 1).issues j h = true ∧ ((spS 1).issueCtx j h).act = []) ∧
    let o := { op1 (.store 8) 0 with remote := true }
    let s := withFibres (spEvent o [] { id := 7 }) fun f => { f with wait := some (.scratch 7), unack := 3 }
    (∃ f ∈ s.fibre? 0 0 1, f.stepping = false ∧ f.rep = none) ∧
    (after (exec .remoteScratchpadResponse s)).map (fun t => (t.fibre? 0 0 1).map fun f => (f.pc, f.wait, f.unack)) =
      some (some (0x1000C, none, 2)) := by decide +kernel

theorem witness_ScratchpadResults :
    let o := { op1 (.load 8) 0 with remote := true }
    let s := spEvent o [] { id := 7 }
    (s.spOps.find? (·.id == s.par.id) = some o ∧ o.remote = true ∧ o.left = 0 ∧ o.toArrive = []) ∧
    (spEvent (op1 (.load 8) 2) [] {}).spOps.find? (·.id == 7) = some (op1 (.load 8) 2) ∧
    (∃ f ∈ s.fibre? o.core o.slot (lane1 9).fid, f.wait = none) ∧ (lane1 9).off % 2 ^ 20 < 0xFF000 ∧ width 8 = 32 := by decide +kernel

theorem witness_ScratchpadArrival :
    (let o := { op1 (.load 8) 2 with remote := true, toArrive := [0] }
     let s := spEvent o [] { id := 7, k := 0 }
     ((s.spOps.find? fun o => o.id == s.par.id && o.toArrive.contains 0) = some o) ∧
     (∀ l ∈ o.lanes, l.off / 2 ^ 20 = 0 → l.off % 2 ^ 20 < 0xFF000 → s.clusterHolds o.ctx 0 o.kind (l.off % 2 ^ 20) = true) ∧
     (s.spOps.any fun p => p.core == o.core && decide (p.id < o.id) && p.toArrive.contains 0) = false ∧ (s.core 0).bankRoom (o.requests 0) = true ∧
     (s.core 0).portq = [] ∧ 1 < o.left ∧ (∀ p ∈ s.spOps, p.id = o.id → p = o) ∧ s.spOps.Nodup ∧
     let t := { s with spOps := [{ o with id := 3 }, o] }
     (t.spOps.any fun p => p.core == o.core && decide (p.id < o.id) && p.toArrive.contains 0) = true) ∧
    (let l : SpLane := { lane1 9 with fault := some (memTrap .permitDenied 0 false) }
     let o := { op1 (.load 8) 1 with remote := true, lanes := [l] }
     let s := withFibres (spEvent o [] {}) fun f => { f with wait := some (.scratch 7) }
     l ∈ o.lanes ∧ l.fault.isSome = true ∧ ∃ f ∈ s.fibre? o.core o.slot l.fid, f.wait = some (.scratch o.id)) ∧
    let o := { op1 (.store 8) 1 with remote := true, lanes := [⟨1, 0xFF00C, 5, 0, 0, none⟩] }
    let a : NetArr := ⟨7, 0, 0, 0, 0xFF00C, [(1, 5)], true⟩
    let s := { spEvent o [] { id := 7, k := 0, off := 0xFF00C } with netArr := [a] }
    (s.netArr.find? fun a => a.id == s.par.id && a.tgt == s.par.k && a.off == s.par.off) = some a ∧ s.spOps.find? (·.id == a.id) = some o ∧
      s.clusterHolds o.ctx a.tgt o.kind a.off = true := by decide +kernel

theorem witness_BarrierPage :
    (∀ p ∈ [(Instr.lds { sm with a := .v 8, off := 0 }, SpKind.load 8, 0), (.lds { sm with a := .v 8, off := 0, d := .v 12, t1 := 9 }, .load 9, 0),
        (.sts { sm with a := .v 8, off := 12 }, .store 8, 12)],
      let s := withFibres (gang 1) fun f => { f with regs := f.regs.set 8 0xFF010 }
      wf p.1 = true ∧ s.issues p.1 h0 = true ∧
      let x := s.issueCtx p.1 h0
      let s := s.landed p.1 h0
      x.act = [0] ∧ (∃ t ∈ s.team? 0 0, ∃ g ∈ t.fibre? 0, g.wait = none ∧ 0xFF000 + 256 * t.slot ≤ 0xFF010 ∧
        t.watch? (0xFE * 2 ^ 56 + 0xFF010 + p.2.2) p.2.1.len p.2.1.isLoad (!p.2.1.isLoad) = none) ∧
      (∀ o ∈ s.spOps, o.id < s.uid) ∧ s.acqOpen x.core x.slot 0 = false ∧ s.countFull x.core x.slot 0 = false) ∧
    ∃ t ∈ (gang 1).team? 0 ((0xFF010 - 0xFF000) / 256), ∃ b ∈ t.bars[(0xFF010 - 0xFF000) % 256 / 16]?, b.exp < 2048 ∧ b.cnt < 2048 ∧ b.dec < 2048 := by
  decide +kernel

end Sys2Proof.Tests

namespace Sys2Proof.Tests

set_option Elab.async false

open Sys2Proof Sys2Proof.Machine Sys2Proof.Spec

/-- One gang on a core whose pages the L1 may hold, or may not. -/
def cpS (n cp : Nat) : State := inCore (gang n) fun k => { k with tlb := [page 0x20000 0x5550000 cp 1] }

def line : FM := { fm with d := .v 0, t1 := 0 }

theorem witness_PrefetchAndFlush :
    (∀ i ∈ [Instr.prfL1 line, .flushWb line, .flushInv line], ∀ cp ∈ [0, 2],
      let s := cpS 1 cp
      wf i = true ∧ s.issues i h0 = true ∧
      let x := s.issueCtx i h0
      let s := s.landed i h0
      x.act = [0] ∧ address line x s 0 < 2 ^ 56 ∧ (∃ t ∈ s.team? 0 0, s.lookWalk t.ctx t.world .read (address line x s 0) = .ok (leaf 0x5550000 cp 1) ∨
        s.look 0 t.ctx t.world .flush (address line x s 0) = .ok (leaf 0x5550000 cp 1)) ∧
      (leaf 0x5550000 cp 1).cached = (cp == 0) ∧ ∃ g ∈ s.fibre? 0 0 0, g.unack < 65534) ∧
    let s := inCore (gang 1) fun k => { k with l1 := [{ sector1 with dirty := 3 }] }
    (s.core 0).fused = false ∧ (s.core 0).sector? 0x5550040 = some { sector1 with dirty := 3 } ∧ Memory.wf s.mem = true := by decide +kernel

def fenceR (n : BitVec 3) : FR := { fr with d := .v 0, a := .v 0, b := .v 0, t1 := 0, rm := n }

theorem witness_Fences :
    (∀ n ∈ ([0, 2, 3, 6] : List (BitVec 3)), ∀ i ∈ [Instr.fenceRel (fenceR n), .fenceAcq (fenceR n), .fenceAr (fenceR n)],
      wf i = true ∧ (gang 1).issues i h0 = true ∧
      let x := (gang 1).issueCtx i h0
      let s := (gang 1).landed i h0
      x.act = [0] ∧ s.relReady x.core x.slot 0 = true ∧ s.loadsOpen x.core x.slot 0 = false ∧ (s.core x.core).fused = false) := by decide +kernel

/-- The forms of `carve`: a size that is none, the size there is, one that the allotment leaves no room for, and one that it does. -/
def carveI (k : BitVec 6) : FR := { fr with a := .k k, b := .v 0, t1 := 0 }

def carveS (spad : Nat) (fused : Bool) : State :=
  inCore (withTeam (gang 2) fun t => { t with spadSize := spad, uregs := (List.replicate 4 ([63, 64, 256, 128] ++ List.replicate 60 0)).flatten })
    fun k => { k with fused := fused }

theorem witness_CarveOutAndTranslation :
    (∀ p ∈ [((0 : BitVec 6), 65536, false, 63), (1, 65536, true, 64), (2, 0x9C000, false, 256), (1, 65536, false, 64), (2, 0x60000, false, 256)],
      let s := carveS p.2.1 p.2.2.1
      let i := Instr.carve (carveI p.1)
      wf i = true ∧ s.issues i h0 = true ∧
      let x := s.issueCtx i h0
      let s := s.landed i h0
      x.act ≠ [] ∧ kib (carveI p.1) x s = p.2.2.2 ∧ (s.core 0).fused = p.2.2.1 ∧ (s.core 0).l1kib = 64 ∧
      ∃ t ∈ s.team? 0 0, t.spadBase + t.spadSize = p.2.1) ∧
    (let s := inCore (carveS 0 false) fun k => { k with carve := [(7, 0, 256)] }
     (s.core 0).carve = (7, 0, 256) :: [] ∧ (∀ t ∈ (s.core 0).teams, t.spadSize = 0) ∧ (∀ t ∈ s.team? 0 0, ∀ g ∈ t.fibres, g.stepping = false) ∧
       (s.core 0).canonical = true) ∧
    (∀ f ∈ [{ fm with d := .v 12, t1 := 9 }, { fm with d := .v 12, a := .v 14, t1 := 9 }, { fm with d := .k 12, a := .k 2, t1 := 9 }],
      let s := withFibres (gang 2) fun f => { f with regs := f.regs.set 15 0xFE000000 }
      let i := Instr.tlbq f
      wf i = true ∧ s.issues i h0 = true ∧
      let x := s.issueCtx i h0
      let s := s.landed i h0
      (∀ fid ∈ x.act, 2 ^ 56 ≤ address f x s fid ∨ ∃ e ∈ (s.core 0).tlb.find? (·.covers 1 (address f x s fid)), e.revoking = false ∧ e.leaf = memLeaf) ∧
      (s.core 0).walkFail = []) := by decide +kernel

end Sys2Proof.Tests

namespace Sys2Proof.Tests

set_option Elab.async false

open Sys2Proof Sys2Proof.Machine Sys2Proof.Spec

-- the engines

/-- A descriptor (R202): base, size 64 x 8, rows 256 bytes apart, box 32 x 8, element entry, rank 2. -/
def descBits (base etar : Nat) (spc : Bool) : BitVec 512 :=
  BitVec.ofNat 512 (base + 64 * 2 ^ 64 + 8 * 2 ^ 96 + 2 ^ 128 + 2 ^ 160 + 2 ^ 192 + 256 * 2 ^ 224 + 31 * 2 ^ 384 + 7 * 2 ^ 392 + etar * 2 ^ 424 +
    2 * 2 ^ 438 + if spc then 2 ^ 442 else 0)

/-- One fibre of a role: tensors 0 and 2 lie in the scratchpad, 1 and 3 in memory; elements INT8, of 3 and 4 FP32. -/
def engS (r : Role) : State :=
  withFibres (withTeam (gang 1) fun t => { t with
    launch := 9, matrix := true, rowLists := List.replicate 8 (List.replicate 32 5),
    uregs := (List.replicate 4 ([0, 0, 0x20000, 0, 0, 0, 0x100, 0, 1, 0] ++ List.replicate 54 0)).flatten,
    tdesc := [(0, descBits 0x100 3 true), (1, descBits 0x20000 3 false), (2, descBits 0x1100 3 true), (3, descBits 0x20000 0 false), (4, descBits 0x2100 0 true)] })
    fun f => { f with role := r }

def loopI : FE := { fe with d := .k 0, a := .k 0, ks := 2, tdb := 2, t1 := 6 }
def drainI : FE := { fe with a := .k 0, tda := 0, t1 := 6 }
def copyI : FE := { fe with d := .k 0, a := .k 0, tda := 1, tdb := 0 }
def fenceQ (rm : BitVec 3) : FR := { fr with d := .v 0, a := .imm 7, b := .v 0, t1 := 0, rm := rm }

theorem witness_EngineIssue :
    (∀ p ∈ [(Instr.mxzero fe, false, noCheck, []), (.mxloop loopI, false, mxloopCheck loopI, [0, 2]), (.mxloopG loopI, true, mxloopCheck loopI, [0, 2]),
        (.mxdrain { drainI with tda := 4 }, false, drainCheck { drainI with tda := 4 } false, [4]),
        (.mxdrainQ { drainI with d := .k 8, tdb := 4, ev := 4 }, false, drainCheck { drainI with d := .k 8, tdb := 4, ev := 4 } true, [0, 4]),
        (.gxrows { fe with a := .v 5 }, false, noCheck, [])],
      let s := engS .matrix
      wf p.1 = true ∧ s.issues p.1 h0 = true ∧
      let x := s.issueCtx p.1 h0
      let s := s.landed p.1 h0
      x.act ≠ [] ∧ (s.team? 0 0).isSome = true ∧ p.2.2.1 x s = [] ∧ s.tdHeld x.core x.slot p.2.2.2 = false ∧
      ((s.core 0).eqmx.filter fun e => !e.moved).length < 16 ∧ ((s.core 0).eqgx.filter fun e => !e.moved).length < 16) ∧
    (wf (.mxwait { fe with ev := 1 }) = true ∧ (engS .matrix).issues (.mxwait { fe with ev := 1 }) h0 = true ∧
      (((engS .matrix).landed (.mxwait { fe with ev := 1 }) h0).core 0).eqmx = []) ∧
    (∀ p ∈ [(Instr.cpyLd copyI, CopyKind.ld, false, 0), (.cpyLdNf copyI, .ld, true, 1), (.cpySt copyI, .st, false, 0),
        (.cpyMc { copyI with d := .k 8 }, .mc, false, 0), (.cpyMcNf { copyI with d := .k 8 }, .mc, true, 1), (.cpyPf { copyI with d := .v 0, tdb := 0 }, .pf, false, 0)],
      let f := if p.2.1 = .mc then { copyI with d := .k 8 } else if p.2.1 = .pf then { copyI with d := .v 0, tdb := 0 } else copyI
      let s := withTeam (engS .copy) fun t => { t with uregs := t.uregs.set 9 1 }
      wf p.1 = true ∧ s.issues p.1 h0 = true ∧
      let x := s.issueCtx p.1 h0
      let s := s.landed p.1 h0
      let c := (copied f p.2.1 p.2.2.1 p.2.2.2 x s).1
      x.act ≠ [] ∧ copyCheck f false (p.2.1 == .pf) x s = [] ∧ s.tdHeld x.core x.slot [0, 1] = false ∧
      (∃ t ∈ s.team? 0 0, s.copyTrap x.core t c = none ∧ (s.copyTargets x.core t c).isSome = true) ∧ (s.core 0).ranges.length < 64 ∧ (s.core 0).eqcp = []) ∧
    (∀ op ∈ [CpyOp.add, .min, .max],
      let f := { copyI with tda := 3, tdb := 4 }
      let s := engS .copy
      wf (.cpyRed op f) = true ∧ s.issues (.cpyRed op f) h0 = true ∧
      let x := s.issueCtx (.cpyRed op f) h0
      let s := s.landed (.cpyRed op f) h0
      let c := (copied f (.red op) false (match op with | .add => 0 | .min => 1 | .max => 2) x s).1
      copyCheck f true false x s = [] ∧ (∃ t ∈ s.team? 0 0, s.copyTrap x.core t c = none ∧ (s.copyTargets x.core t c).isSome = true)) ∧
    (∀ i ∈ [Instr.eqfence (fenceQ 0), .eqfenceW (fenceQ 1)], ∀ q ∈ [[], [command (.mxzero 0) ((engS .copy).issueCtx i h0) (engS .copy)]],
      let s := { inCore (engS .copy) fun k => { k with eqmx := q } with uid := 3 }
      wf i = true ∧ s.issues i h0 = true ∧ (s.issueCtx i h0).act ≠ [] ∧ ((s.landed i h0).core 0).eqmx = q) := by decide +kernel

theorem witness_MatrixStepArithmetic :
    [2147483647, -3].length = [1, (5 : Int)].length ∧ (fmtF32.decode (0x3F800000 : BitVec 32).toNat).isNan = false ∧
    ((engS .matrix).team? 0 0).isSome = true ∧ ((engS .matrix).core 0).canonical = true ∧ ((engS .matrix).team? 0 0).map (·.nantrap) = some false := by
  decide +kernel

/-- Commands as they stand in their queues. -/
def loopC (rows : Option (List (BitVec 32))) : EngCmd :=
  { command ((loopOf loopI false ((engS .matrix).issueCtx (.mxloop loopI) h0) (engS .matrix)))
      ((engS .matrix).issueCtx (.mxloop loopI) h0) (engS .matrix) with id := 7, kind := match loopOf loopI false ((engS .matrix).issueCtx (.mxloop loopI) h0) (engS .matrix) with
        | .mxloop n f sat da db ta tb sa sb k0 mn ks ts tt _ => .mxloop n f sat da db ta tb sa sb k0 mn ks ts tt rows
        | k => k }

def drainC (q moved : Bool) (bar : Option Nat) : EngCmd :=
  let d := Desc.of (descBits 0x2100 0 true)
  { loopC none with kind := .mxdrain 0 false q 0 d (Desc.of 0) ((team 1).tar 0) ((team 1).tar 0) 0 0 0 bar, moved := moved }

def mxS (e : EngCmd) (n : Nat) : State :=
  { inCore (engS .matrix) fun k => { k with eqmx := [e], eqgx := if n = 2 then [e] else [] } with uid := 9, par := { id := 7 } }

theorem witness_MatrixSteps :
    (let e := loopC none
     let s := mxS e 0
     (s.core 0).cmd? 0 s.par.id = some e ∧ e.readAll = false ∧ (s.core 0).mxReady e = true ∧ (kstepBytes e).any (fun b => s.engHeld 0 e.id e.id b.1 b.2) = false ∧
       e.prog + 1 < 2 ∧ (∀ t ∈ (s.core 0).teams, ∀ g ∈ t.fibres, g.wait = none ∧ g.stepping = false) ∧ (0 : Nat) ∈ s.coreNums) ∧
    (let e := loopC (some (List.replicate 32 5))
     let s := mxS e 2
     (s.core 0).cmd? 2 s.par.id = some e ∧ (s.core 0).cmd? 0 s.par.id = some e ∧ e.latch = none ∧ (s.core 0).mayBegin 2 e.id = true) ∧
    (let e := { loopC none with kind := .mxzero 0 }
     let s := mxS e 0
     (s.core 0).cmd? 0 s.par.id = some e ∧ (s.core 0).mxReady e = true ∧ (s.core 0).canonical = true) ∧
    (let e := { loopC none with readAll := true }
     (( mxS e 0).core 0).cmd? 0 7 = some e) ∧
    (let e := drainC false false none
     let s := mxS e 0
     (s.core 0).cmd? 0 7 = some e ∧ (s.core 0).mxReady e = true ∧
       (drainBytes false (Desc.of (descBits 0x2100 0 true)) (Desc.of 0) ((team 1).tar 0) 0).any (fun b => s.engHeld 0 e.id e.id b.1 b.2) = false) ∧
    (((mxS (drainC false true (some 3)) 0).core 0).cmd? 0 7 = some (drainC false true (some 3))) ∧
    (let i := Instr.mxwait { fe with ev := 1 }
     let s := (mxS (loopC none) 0)
     s.issues i h0 = true ∧ loopC none ∈ ((s.landed i h0).core 0).eqmx ∧ (loopC none).id < (s.landed i h0).uid ∧ (loopC none).kind.acc? = some 0 ∧
       (loopC none).moved = false) := by decide +kernel

end Sys2Proof.Tests

namespace Sys2Proof.Tests

set_option Elab.async false

open Sys2Proof Sys2Proof.Machine Sys2Proof.Spec

def tdI : FE := { fe with a := .k 6, tda := 1 }

theorem witness_TariffAndDescriptors :
    (∀ i ∈ [Instr.tset { fr with d := .v 0, a := .imm 16, b := .v 2, t1 := 0 }, .tget { fr with d := .v 12, a := .imm 63, b := .v 0, t1 := 0 },
        .tgetFill { fr with a := .v 0, b := .v 0, t1 := 0, rm := 1 }, .tgetFillc { fr with a := .v 0, b := .v 0, t1 := 0, rm := 2 }],
      wf i = true ∧ (gang 1).issues i h0 = true ∧ ((gang 1).issueCtx i h0).act ≠ []) ∧
    (∀ i ∈ [Instr.tdset tdI, .tdget tdI],
      let s := engS .copy
      wf i = true ∧ s.issues i h0 = true ∧
      let x := s.issueCtx i h0
      let s := s.landed i h0
      let a := ((x.rd s 0 false (.k 6)).setWidth 32).toNat
      x.act = [0] ∧ a = 0x100 ∧ s.tdHeld x.core x.slot [1] = false ∧ s.acqOpen x.core x.slot 0 = false ∧
      (∃ t ∈ s.team? 0 0, t.spadBase ≤ a ∧ a + 64 ≤ t.spadBase + t.spadSize) ∧ (s.core 0).bankRoom ((List.range 16).map fun i => ⟨s.uid, a + 4 * i, none, s.uid⟩) = true ∧
      s.spOps = [] ∧ ∃ g ∈ s.fibre? 0 0 0, g.unack < 65527) ∧
    (let o := op1 (.desc 3) 0
     o.lanes = [lane1 9] ∧ (lane1 9).refused = false ∧ ∀ fid g, (gang 2).fibre? 0 0 fid = some g → g.wait = none) :=
  ⟨by decide +kernel, by decide +kernel, rfl, rfl, fibres_all (by decide +kernel)⟩

/-- The copies of an element, in and out of the tensor. -/
def copyC (k : CopyKind) (org : List Int) : Copy :=
  ⟨k, false, Desc.of (descBits 0x20000 3 false), Desc.of (descBits 0x100 3 true), (team 1).tar 3, 0, org, 0, none, none, 0⟩

def copyE (p : Copy) (moved acted readAll : Bool) : EngCmd :=
  { loopC none with
    kind := .copy p.kind p.nofill p.da p.db p.ta p.ta p.off p.org p.ev p.bar p.ring p.mcm 0, moved := moved, acted := acted, readAll := readAll, prog := 255, targets := [0] }

def cpyS (e : EngCmd) : State :=
  { walked (inCore (engS .copy) fun k => { k with eqcp := [e], ranges := [⟨7, 7, 0x100, 0x900⟩] }) with uid := 9, par := { id := 7 } }

theorem witness_CopyElements :
    (copyC .ld [0, 0, 0, 0, 0]).tensor 0 = some [0, 0, 0, 0, 0] ∧ (copyC .st [0, 0, 0, 0, 0]).tensor 255 = some [31, 7, 0, 0, 0] ∧
    (match (cpyS (copyE (copyC .ld [0, 0, 0, 0, 0]) false false false)).elemAt 0 (((engS .copy).team? 0 0).getD Team.blank) 7 .read 0x20000 1 with
      | .home pa => pa 0 == 0x5550000 | _ => false) = true ∧
    (match (cpyS (copyE (copyC .st [0, 0, 0, 0, 0]) false false false)).elemAt 0 (((engS .copy).team? 0 0).getD Team.blank) 7 .write 0x2071F 1 with
      | .home pa => pa 0 == 0x555071F | _ => false) = true ∧
    (copyC .ld [-1, 0, 0, 0, 0]).tensor 0 = none ∧ (copyC .st [40, 0, 0, 0, 0]).tensor 31 = none ∧ (copyC (.red .add) [0, 1, 0, 0, 0]).tensor 255 = none ∧
    Memory.wf tables = true := by decide +kernel

theorem witness_CopySteps :
    (∀ p ∈ [copyC .ld [0, 0, 0, 0, 0], copyC .st [0, 0, 0, 0, 0]],
      let e := copyE p false false false
      let s := cpyS e
      (s.core 0).cmd? 1 s.par.id = some e ∧ e.kind.copy?.isSome = true ∧ e.stopped = false ∧ e.asked = false ∧ (s.core 0).mayBegin 1 e.id = true ∧
      s.engHeld 0 e.id e.id p.range.1 p.range.2 = false ∧
      let r := s.copyRun 0 ((s.team? 0 0).getD Team.blank) e p (p.count - e.prog) e.prog
      (match r.2.2 with | .next => true | _ => false) = true ∧ ∃ q ∈ (r.1.core 0).cmd? 1 e.id, q.sectors = []) ∧
    (let p := { copyC .ld [0, 0, 0, 0, 0] with da := Desc.of (descBits 0x80000 3 false) }
     let e := copyE p false false false
     let s := cpyS e
     let r := s.copyRun 0 ((s.team? 0 0).getD Team.blank) e p (p.count - e.prog) e.prog
     (match r.2.2 with | .stop _ _ => true | _ => false) = true ∧ (r.1.core 0).logRoom 4 = true) ∧
    (let e := copyE (copyC .pf [0, 0, 0, 0, 0]) false false false
     ((cpyS e).core 0).cmd? 1 7 = some e ∧ ((cpyS e).core 0).mayBegin 1 e.id = true) ∧
    (∀ p ∈ [{ copyC .ld [0, 0, 0, 0, 0] with bar := some 15 }, { copyC .st [0, 0, 0, 0, 0] with ring := some 0x8000 }, copyC .ld [0, 0, 0, 0, 0]],
      let e := copyE p true false true
      let s := cpyS e
      (s.core 0).cmd? 1 7 = some e ∧ e.kind.copy?.isSome = true ∧ s.pushing 0 e.id = false ∧ ∃ t ∈ s.team? 0 0, t.spadBase ≤ 0x8000) ∧
    (let p := { copyC .mc [0, 0, 0, 0, 0] with mcm := 1 }
     let e := copyE p false false true
     let s := cpyS e
     (s.core 0).cmd? 1 7 = some e ∧ e.kind.copy?.isSome = true ∧ e.targets.find? (· / 16 == 0) = some 0 ∧ 0 ∉ e.delivered ∧
       (s.core 0).ranges.find? (·.cmd == e.id) = some ⟨7, 7, 0x100, 0x900⟩ ∧ s.engHeld 0 7 e.id p.range.1 p.range.2 = false) ∧
    (let e := copyE (copyC .ld [0, 0, 0, 0, 0]) true true true
     let s := cpyS e
     (s.core 0).cmd? 1 7 = some e ∧ 0 ∈ s.coreNums ∧ ∀ t ∈ (s.core 0).teams, ∀ g ∈ t.fibres, g.stepping = false) := by decide +kernel

end Sys2Proof.Tests

namespace Sys2Proof.Tests

set_option Elab.async false

open Sys2Proof Sys2Proof.Machine Sys2Proof.Spec

-- barriers

/-- The team's launch has three cluster and four die barriers; all are of its context. -/
def launch9 : Launch :=
  { num := 9, die := 0, ctx := 1, world := false, prio := 0, record := { LaunchRec.parse (List.replicate 288 0) with l1 := 64, cbn := 3, dbn := 4, join := 77 },
    va := 0x20400, cbase := 2, dbase := 5, next := List.replicate 8 0, opened := [], generated := List.replicate 8 3, ended := List.replicate 8 2, images := [],
    share := none, shares := [], done := false }

def cb (vis : BitVec 16) (msk rpt : List Nat) : ClusBar := ⟨vis, vis, msk, rpt, false, some 1⟩

def barS (n : Nat) : State :=
  let s := withTeam (gang n) fun t => { t with launch := 9, teamNo := 3, uregs := (List.replicate 4 ([3, 7, 0, 0x80000000, 0] ++ List.replicate 59 0)).flatten,
                                               bars := List.replicate 16 ⟨4, n, 0, 0, 0, 0, false⟩ }
  let s := { withFibres s fun f => { f with bmem := 0xFFFF } with launches := [launch9], uid := 8 }
  let s := s.setClusBar 0 3 (cb 4 [0, 1] [])
  let s := s.setDieBar 0 7 ⟨4, 4, [(9, 0x40000)], [], false, some 1⟩
  s.setPkgBar 255 ⟨4, 4, 2, none, 0, false, some 1, none, false, []⟩

def barI : FR := { fr with d := .v 0, a := .b 3, b := .v 0, t1 := 0 }

theorem witness_BarrierPhases :
    let t := ((barS 3).team? 0 0).getD Team.blank
    (∃ b ∈ t.bars[3]?, b.cnt + 1 < 2048 ∧ b.cnt + 1 < b.exp ∧ b.cnt < b.exp - 1) ∧ (∃ f ∈ t.fibre? 0, f.bmem.getLsbD 3 = true ∧ f.barr.getLsbD 3 = false) ∧
    (∃ b ∈ (((barS 1).team? 0 0).getD Team.blank).bars[15]?, b.exp ≤ b.cnt + 1) ∧ (∀ f ∈ (((barS 1).team? 0 0).getD Team.blank).fibres, f.stepping = false) ∧
    ∃ f ∈ (((withFibres (barS 3) fun f => { f with barr := 8 }).team? 0 0).getD Team.blank).fibre? 0, f.barr.getLsbD 3 = true := by decide +kernel

theorem witness_TeamBarriers :
    (∀ i ∈ [Instr.barv barI, .barw barI, .barvw barI, .barx barI, .bars { barI with d := .v 12 }, .barsClr { barI with d := .v 12, rm := 1 },
        .barsB { barI with d := .v 12, rm := 2 }],
      let s := barS 2
      wf i = true ∧ s.issues i h0 = true ∧
      let x := s.issueCtx i h0
      let s := s.landed i h0
      x.act = [0, 1] ∧ eachReady x (arriveStep 3 x) x.act s = true ∧
      eachReady x (arriveWaitStep 3 x) x.act s = true ∧
      ∀ fid ∈ x.act, ∃ g ∈ s.fibre? 0 0 fid, g.bwait = false ∧ g.wait = none) ∧
    let i := Instr.barvB { barI with b := .imm 9 }
    wf i = true ∧ (barS 1).issues i h0 = true ∧ ((barS 1).issueCtx i h0).act = [0] ∧ ((barS 1).landed i h0).relReady 0 0 0 = true := by decide +kernel

/-- `pbar` 255 takes its number from a register; its base has 255 in `v1`. -/
def wideS : State := withFibres (barS 1) fun f => { f with regs := (f.regs.set 1 255).set 4 0x80000003 }

def numbers (level : Nat) : Operand := if level = 0 then .k 0 else if level = 1 then .k 1 else .v 1

theorem witness_WideBarriers :
    ∀ l ∈ [(0, Instr.cbarA, Instr.cbarW, Instr.cbarAw), (1, .dbarA, .dbarW, .dbarAw), (2, .pbarA, .pbarW, .pbarAw)],
      let n := numbers l.1
      ∀ p ∈ [(l.2.1 { barI with d := .v 4, a := n }, true), (l.2.2.1 { barI with d := .v 4, a := n, b := .imm 3 }, false),
          (l.2.2.2 { barI with d := .v 5, a := n }, true), (l.2.2.2 { barI with d := .v 4, a := n }, false)],
        wf p.1 = true ∧ wideS.issues p.1 h0 = true ∧
        let x := wideS.issueCtx p.1 h0
        let s := wideS.landed p.1 h0
        x.act = [0] ∧ ∃ t ∈ s.team? 0 0,
          let k := if l.1 = 0 then 3 else if l.1 = 1 then 7 else 255
          ((x.rdU s false n).setWidth 32 : BitVec 32).toNat = k ∧ (s.barView l.1 x.core k).own = some t.ctx ∧
          (l.1 < 2 → k ∈ (if l.1 = 0 then (s.teamBarriers x.core t).1 else (s.teamBarriers x.core t).2)) ∧ s.relReady 0 0 0 = true ∧
          (x.rdU s false (.v 5)).getLsbD 31 = false ∧ (x.rdU s false (.v 4)).getLsbD 31 = true ∧
          1 ≤ ((s.barView l.1 x.core k).vis - 3#16).toNat ∧ ((s.barView l.1 x.core k).vis - 3#16).toNat ≤ 0x7FFF := by decide +kernel

def report (level num : Nat) : Report := ⟨7, level, 0, num, 0, 0, [0], .v 4, false, false⟩

def reportS (level num : Nat) : State :=
  { withFibres (barS 1) fun f => { f with wait := some (.report 7) } with reports := [report level num], par := { id := 7 } }

theorem witness_BarrierReports :
    (∀ p ∈ [(0, 3), (1, 7), (2, 255)],
      let s := reportS p.1 p.2
      (s.reports.find? fun r => r.id == s.par.id && r.level == p.1) = some (report p.1 p.2) ∧ ∃ g ∈ s.fibre? 0 0 0, g.stepping = false ∧ g.rep = none ∧ g.wait = some (.report 7)) ∧
    0 ∈ ((reportS 0 3).clusBar 0 3).msk ∧ 0 ∉ ((reportS 0 3).clusBar 0 3).rpt ∧ (9, 0x40000) ∈ ((reportS 1 7).dieBar 0 7).memb ∧ (9, 0x40000) ∉ ((reportS 1 7).dieBar 0 7).rep ∧
    0 < (reportS 1 7).dies.length ∧ ((reportS 2 255).pkgBar 255).parent = none ∧ ((reportS 2 255).pkgBar 255).children = [] ∧
    ((reportS 1 7).team? 0 0).map Team.member = some (9, 0x40000) := by decide +kernel

def twoGangs : State :=
  { inCore (gang 2) fun k => { k with gangs := [⟨0, [1], 4⟩, ⟨0, [0], 9⟩] } with par := { core := 0, n := 0, k := 1 } }

theorem witness_GangTable :
    (twoGangs.core 0).gangs[0]? = some ⟨0, [1], 4⟩ ∧ (twoGangs.core 0).gangs[1]? = some ⟨0, [0], 9⟩ ∧ (twoGangs.core 0).mergeable ⟨0, [1], 4⟩ ⟨0, [0], 9⟩ = true ∧
    ((twoGangs.core 0).team? 0).isSome = true ∧
    let s := inCore (gang 2) fun k => { k with gangs := (List.replicate 63 ⟨0, [1], 4⟩) ++ [⟨0, [1], 4⟩] }
    64 ≤ (s.core 0).gangs.length ∧
    let s := withFibres (inCore s fun k => { k with gangs := k.gangs.map fun g => { g with readyAt := 9 } }) fun f => { f with ready := if f.fid = 1 then 9 else 3 }
    ∃ l ∈ (s.core 0).loose (s.core 0).gangs, ∀ h ∈ (s.core 0).gangs, l.readyAt < (s.core 0).readySince h := by decide +kernel

theorem witness_ComparisonQuantisationAndCounters :
    (∀ i ∈ [Instr.fcmp { fr with d := .p 3, a := .v 8, b := .v 9, t1 := 0 }, .sclget { fr with a := .imm 19, b := .v 0, t1 := 0 },
        .sclgetClr { fr with a := .imm 0, b := .v 0, t1 := 0, rm := 1 }, .crng { fr with a := .v 2, t1 := 0, rm := 2 }, .crng { fr with d := .k 8, a := .k 2, b := .imm 9, t1 := 0 }],
      wf i = true ∧ (gang 2).issues i h0 = true ∧ ((gang 2).issueCtx i h0).act ≠ []) ∧
    let f : FR := { fr with d := .v 32, a := .v 0, b := .v 40, c := .v 8, t1 := 0, t2 := 11 }
    let s := withFibres (gang 2) fun g => { g with wsize := 64, regs := (List.replicate 8 (regs g.fid)).flatten.take 64 }
    wf (.sclq f) = true ∧ s.issues (.sclq f) h0 = true ∧ (entry s (.sclq f) h0 0).legal = true ∧ (entry s (.sclq f) h0 11).legal = true ∧
    (quantising f).ok (entry s (.sclq f) h0 0) (entry s (.sclq f) h0 11) = true ∧
    (∀ fid ∈ (s.issueCtx (.sclq f) h0).act, ∃ g ∈ (s.landed (.sclq f) h0).fibre? 0 0 fid, 0 + 32 ≤ g.wsize ∧ 32 + 32 * 4 / 32 ≤ g.wsize) ∧
    (s.issueTeam (.sclq f) h0).trapsNan = false ∧ outsAgree (fouts (quantising f) s (.sclq f)) = true := by decide +kernel

/-- The example of R277: a killed member. -/
theorem test_killed_member :
    let t := ((barS 4).team? 0 0).getD Team.blank
    let t := (t.arrive 3 0 (some 0)).1
    let t := (t.arrive 3 0 (some 1)).1
    let k := (t.memberEnds 2 3 true).1
    let e := (k.arrive 3 0 (some 3)).1
    k.bars[3]? = some ⟨4, 3, 2, 0, 0, 0, true⟩ ∧ e.bars[3]? = some ⟨5, 3, 0, 0, 0, 0, true⟩ ∧
    ((t.arrive 3 0 (some 2)).1.memberEnds 2 3 true).1.bars[3]?.map (·.exp) = some 4 := by decide +kernel

end Sys2Proof.Tests

namespace Sys2Proof.Tests

set_option Elab.async false

open Sys2Proof Sys2Proof.Machine Sys2Proof.Spec

-- queues

/-- (k2, k3) and (k4, k5) are addresses of a global block and its slots, (k10, k11) and (k6, k7) of a ring's. -/
def qS : State :=
  withTeam (gang 1) fun t => { t with
    uregs := (List.replicate 4 ([0, 0, 0x20000, 0, 0x20400, 0, 0x600, 0xFE000000, 1, 0, 256, 0xFE000000] ++ List.replicate 52 0)).flatten }

def onQueue (ring : Bool) : FM := if ring then { fm with a := .k 10, b := .p 3 } else { fm with a := .k 2, b := .p 3 }
def queueAt (ring : Bool) : QTgt := if ring then .ring 0 256 else .global 0x5550000 0x20000 1

def queueForms (f : FM) (base : BitVec 6) : List Instr :=
  [.qinit { f with d := .k base, b := .imm 66, t1 := 9 }, .qpush f, .qpush { f with d := .v 2, t1 := 9 }, .qpush { f with d := .k 8 }, .qpop f, .qpop { f with d := .k 8 },
    .qtpush f, .qtpop f, .qpeek f, .qstat { f with d := .k 8, b := .v 0, t1 := 9 }, .qclose { f with d := .v 0, b := .v 0 }, .qdrain { f with d := .v 0, b := .v 0 }]

theorem witness_QueueIssue :
    ∀ ring ∈ [false, true], ∀ i ∈ queueForms (onQueue ring) (if ring then 6 else 4),
      ∃ q ∈ asks i, wf i = true ∧ qS.issues i q.h = true ∧
        let x := qS.issueCtx i q.h
        let s := qS.landed i q.h
        q.groups x = [[0]] ∧ (s.judgeQueue x.core (teamOf x s) (address q.f x s 0)).toOption = some (queueAt ring) ∧
        (teamOf x s).watch? (address q.f x s 0) 64 true true = none ∧
        (match q.kind x s 0 with | .init b c => s.initOk x.core (teamOf x s) (queueAt ring) b c | _ => true) = true ∧
        s.acqOpen x.core x.slot 0 = false ∧ s.relReady x.core x.slot 0 = true ∧
        State.sendsBefore { s with uid := s.uid + 1 } x.core x.slot x.pc 0 = false := by decide +kernel

/-- A fresh block of four 4-byte slots, or of 8-byte ones. -/
def fresh (ring wide : Bool) : List Byte := Block.init ring (List.replicate 64 0) (if ring then 0xFE00000000000600 else 0x20400) (if wide then 98 else 66)

/-- An operation and the block that it finds. -/
def atKeeper (ring : Bool) (b : List Byte) (k : QKind) : State :=
  let o : QOp := ⟨7, .fibres 0 0 [0], queueAt ring, k, .v 2, .p 3, false, 7, 0⟩
  let s := withFibres qS fun f => { f with wait := some (.queue 7) }
  { stored s (queueAt ring) (Memory.putBytes (store s (queueAt ring)) (blockAt (queueAt ring)) (Block.sealed b)) with qops := [o], uid := 9, par := { id := 7 } }

def pushOp (ring wide : Bool) : QOp := ⟨7, .fibres 0 0 [0], queueAt ring, .push 0x123456789 wide false, .v 2, .p 3, false, 7, 0⟩

/-- What `received` asks, for the fibres of every core. -/
def receives (s : State) (o : QOp) : Bool :=
  decide (s.qops = [o]) && decide (o.id = s.par.id) && !o.parked && s.queueNext o && !s.ringHeld o && o.tgt.same o.tgt &&
    s.cores.all fun e => e.2.teams.all fun t => t.fibres.all fun f => match f.wait with | some (.answered ..) => false | _ => true

theorem witness_QueueKeeper_push :
    ∀ ring ∈ [false, true], ∀ wide ∈ [false, true],
      let b := fresh ring wide
      let o := pushOp ring wide
      let s := atKeeper ring b o.kind
      let c := block s o.tgt
      receives s o = true ∧ s.parkedOn o.tgt = [] ∧ Memory.wf (store s o.tgt) = true ∧
      Block.inconsistent ring c = false ∧ Block.state c = 0 ∧ (wide = true ↔ Block.esz c = 1) ∧ Block.free c = 4 ∧
      (ring = true → Block.phase c / 2 ^ (Block.tail c % 2 ^ Block.log2 c) % 2 = (Block.tail c / 2 ^ Block.log2 c + 1) % 2) := by decide +kernel

/-- Blocks with one element, with four, and draining; and the register of `qinit`. -/
theorem witness_QueueKeeper_waits :
    ∀ ring ∈ [false, true],
      let b := fresh ring false
      let o := pushOp ring false
      let one := block (atKeeper ring (afterPush ring b) (.pop false false)) o.tgt
      let full := block (atKeeper ring ((List.range 4).foldl (fun b _ => afterPush ring b) b) o.kind) o.tgt
      let closing := block (atKeeper ring (putField b 0x17 1 2) o.kind) o.tgt
      Block.inconsistent ring one = false ∧ Block.occ one = 1 ∧
      (ring = true → Block.phase one / 2 ^ (Block.head one % 2 ^ Block.log2 one) % 2 = Block.head one / 2 ^ Block.log2 one % 2) ∧
      Block.inconsistent ring full = false ∧ Block.free full = 0 ∧ Block.state full = 0 ∧
      Block.inconsistent ring closing = false ∧ Block.state closing = 2 ∧
      (if ring then (102 : BitVec 32) else 88).toNat % 32 ≤ (if ring then 6 else 24) ∧ (88 : BitVec 32).toNat < 2 ^ 9 := by decide +kernel

theorem witness_QueueKeeper_engine :
    let o : QOp := { pushOp true false with who := .engine 0 3 0 0 }
    let s := { atKeeper true (putField (fresh true false) 0x17 1 1) o.kind with qops := [o] }
    receives s o = true ∧ s.parkedOn o.tgt = [] ∧ Block.inconsistent true (block s o.tgt) = false ∧ Block.state (block s o.tgt) = 1 ∧
    let s := { atKeeper true (fresh true false) o.kind with qops := [o] }
    receives s o = true ∧ s.parkedOn o.tgt = [] ∧ Block.inconsistent true (block s o.tgt) = false ∧ Block.state (block s o.tgt) = 0 ∧
      Block.free (block s o.tgt) ≠ 0 ∧ Block.phase (block s o.tgt) % 2 = (Block.tail (block s o.tgt) / 4 + 1) % 2 ∧
    (after (exec .enginePush s)).map (fun t => (Block.occ (block t o.tgt), Memory.read (t.core 0).spad 0x600 4, t.qops)) = some (1, 0x23456789, []) := by
  decide +kernel

/-- A `qclose` at the keeper of an open block. -/
theorem witness_QueueIssue_close :
    ∀ ring ∈ [false, true],
      let s := atKeeper ring (fresh ring false) .close
      let o : QOp := { pushOp ring false with kind := .close }
      receives s o = true ∧ s.parkedOn o.tgt = [] ∧ (∃ g ∈ s.fibre? 0 0 0, g.stepping = false) ∧ Block.inconsistent ring (block s o.tgt) = false ∧
      Block.state (block s o.tgt) = 0 ∧ (after (exec .queueOpAtKeeper s)).map (fun t => (Block.state (block t o.tgt), t.qops)) = some (1, []) := by
  decide +kernel

/-- A pop answers its fibre with the oldest element. -/
theorem witness_QueueKeeper_pop :
    let b := afterPush false (fresh false false)
    let s := { atKeeper false b (.pop false false) with mem := Memory.write (atKeeper false b (.pop false false)).mem 0x5550400 4 77 }
    let o : QOp := { pushOp false false with kind := .pop false false }
    receives s o = true ∧ s.parkedOn o.tgt = [] ∧ Block.inconsistent false (block s o.tgt) = false ∧ Block.state (block s o.tgt) = 0 ∧
    Block.esz (block s o.tgt) = 0 ∧ Block.occ (block s o.tgt) = 1 ∧
    (after (exec .queueOpAtKeeper s)).map (fun t => (t.fibre? 0 0 0).map fun h => (h.pc, h.wait, h.pend.map (·.val))) =
      some (some (0x1000C, none, [77, 1])) := by decide +kernel

theorem witness_QueueKeeper_notice :
    let o : QOp := ⟨7, .notice 0, queueAt false, .push 77 true false, .imm 0, .imm 0, false, 7, 0x20000⟩
    (let s : State := { inCore (atKeeper false (fresh false true) .stat) fun c => { c with notices := [(1, 0x20000, 77)] } with qops := [o] }
     receives s o = true ∧ s.parkedOn o.tgt = [] ∧ Memory.wf s.mem = true ∧ Block.inconsistent false (block s o.tgt) = false ∧
      Block.state (block s o.tgt) = 0 ∧ Block.free (block s o.tgt) ≠ 0 ∧ Block.esz (block s o.tgt) = 1 ∧
      (after (exec .noticePush s)).map (fun t => (Block.occ (block t o.tgt), Memory.read t.mem 0x5550400 8, (t.core 0).notices.length, t.qops.length)) =
        some (1, 77, 0, 0)) := by decide +kernel

theorem witness_QueueKeeper_notice_sent :
    let s := { inCore (atKeeper false (fresh false true) .stat) fun c => { c with notices := [(1, 0x20000, 77)] } with
      qops := [], mem := Memory.putBytes tables 0x5550000 (Block.sealed (fresh false true)), contexts := [⟨1, false, false, 0xA0000⟩] }
    let b := block s (.global 0x5550000 0x20000 1)
    (∃ l ∈ (match s.lookWalk 1 (s.context 1).world .atomic 0x20000 with | .ok l => some l | _ => none), l.apt < 2 ∧ l.phys 0x20000 = 0x5550000) ∧
      Block.inconsistent false b = false ∧ Block.state b = 0 ∧ Block.free b ≠ 0 ∧ Block.esz b = 1 := by decide +kernel

theorem witness_QueueKeeper_answer :
    (∃ p ∈ (atKeeper false (fresh false false) .stat).qops, p.grp = 7) ∧ ∃ g ∈ (atKeeper false (fresh false false) .stat).fibre? 0 0 0, g.wait = some (.queue 7) ∧ g.stepping = false ∧ g.rep = none := by decide +kernel

end Sys2Proof.Tests

namespace Sys2Proof.Tests

set_option Elab.async false

open Sys2Proof Sys2Proof.Machine Sys2Proof.Spec

-- scheduling

/-- Memory: the page tables of `tables` with a pinned page of 512 MiB at 0x20000000. From 0x5550000: records of continuations (R357), the second with
a range block at +0x100 (R362); join counters at +0x200 and +0x220 (R365); at +0x400 a launch record (R348): two instances of a core with one
team of two fibres each. In the pinned page the mailbox of R281. -/
def schedMem : List Host.Cell :=
  [(655360, 1), (655363, 12), (786432, 1), (786435, 13), (786440, 19), (786441, 148), (786443, 64), (851968, 1), (851970, 128), (851971, 13), (884752, 19),
    (884753, 144), (884754, 85), (884755, 5), (884760, 19), (884761, 144), (884762, 119), (884763, 7), (884768, 19), (884769, 144), (884770, 102), (884771, 6),
    (0x5550002, 4), (0x555000A, 2), (0x5550018, 2), (0x555001D, 16), (0x5550042, 4), (0x5550047, 1), (0x5550049, 1), (0x555004A, 2), (0x5550058, 2),
    (0x555005D, 16), (0x5550100, 1), (0x5550110, 64), (0x5550118, 64), (0x5550200, 1), (0x555020A, 2), (0x5550220, 5), (0x5550400, 1), (0x5550402, 1),
    (0x5550404, 16), (0x5550406, 64), (0x555040C, 1), (0x5550412, 1), (0x555041C, 2), (0x5550452, 48), (0x5550453, 32), (0x555045B, 32), (0x5550460, 1),
    (0x5550464, 1), (0x5550465, 1)] ++
  (List.range 16).map (fun i => (0x55504A0 + 4 * i, 1)) ++ [(0x55504E0, 1), (0x55504E4, 2), (0x40300015, 1)]

/-- (k2, k3), (k4, k5) .. hold the addresses of the records. -/
def schS (mem : List Host.Cell) : State :=
  let s := withTeam (gang 1) fun t => { t with
    launch := 9, uregs := (List.replicate 4 ([0, 0, 0x20000, 0, 0x20040, 0, 0x20080, 0, 0x20200, 0, 0x20220, 0, 0x20400, 0] ++ List.replicate 50 0)).flatten }
  { s.modForum (fun g => { g with pkgstate := 4 }) with
    mem := mem, contexts := [⟨1, false, false, 0xA0000⟩], launches := [launch9],
    dies := s.dies.map fun d => { d with cqlog := 10 } }

def spawnI (a : BitVec 6) : FM := { fm with d := .v 4, a := .k a, b := .imm 1, t1 := 0 }

/-- Queued, malformed, with and without ranges. -/
theorem witness_SpawnAndJoin_spawn :
    ∀ p ∈ [(Instr.spawn (spawnI 2), spawnI 2, false, (0 : BitVec 64)), (.spawn (spawnI 4), spawnI 4, false, 0xFFFFFFFF), (.spawn (spawnI 6), spawnI 6, false, 0xFFFFFFFF),
        (.spawnr (spawnI 4), spawnI 4, true, 0), (.spawnr (spawnI 2), spawnI 2, true, 0xFFFFFFFF)],
      let f := p.2.1
      let ranged := p.2.2.1
      let s := schS schedMem
      wf p.1 = true ∧ s.issues p.1 h0 = true ∧
      let x := s.issueCtx p.1 h0
      let s := s.landed p.1 h0
      let a := address f x s 0
      x.act = [0] ∧ s.launchesWait (teamOf x s).world = false ∧ s.relReady x.core x.slot 0 = true ∧ a % 32 = 0 ∧ a < 2 ^ 56 ∧
      s.logged x.core x.slot 0 a = false ∧ (x.team s).isSome = true ∧ spawnCode f ranged x s 0 = p.2.2.2 ∧
      ∃ q ∈ spawned f ranged x s 0, (ranged = true → q.1.roff ≠ 0 → rangeBlock q.1 % 16 = 0 ∧ rangeBlock q.1 < 2 ^ 56) ∧
        (spawnCode f ranged x s 0 = 0 → (s.die (spawnDie f x s 0)).queueFull q.1.prio = false) := by decide +kernel

theorem witness_SpawnAndJoin_jdec :
    ∀ a ∈ [(8 : BitVec 6), 10],
      let f := spawnI a
      let s := schS schedMem
      wf (.jdec f) = true ∧ s.issues (.jdec f) h0 = true ∧
      let x := s.issueCtx (.jdec f) h0
      let s := s.landed (.jdec f) h0
      let ea := address f x s 0
      x.act = [0] ∧ ea % 32 = 0 ∧ ea < 2 ^ 56 ∧ (x.team s).isSome = true ∧
      s.look x.core (teamOf x s).ctx (teamOf x s).world .atomic ea = .ok (leaf 0x5550000 2 1) ∧
      s.relReady x.core x.slot 0 = true ∧ joinMalformed (counterHome f (leaf 0x5550000 2 1) x s 0) ((leaf 0x5550000 2 1).phys ea) = false := by
  decide +kernel

def isBytes (r : Machine.Rd) : Bool := match r with | .bytes _ => true | _ => false
def bytesOf (r : Machine.Rd) : List Byte := match r with | .bytes b => b | _ => []

/-- A table of no pointers names no descriptor (R349). -/
theorem field_zeros (n o k : Nat) : field (List.replicate n 0#8) o k = 0 := by
  have h : ∀ l : List Byte, (∀ b ∈ l, b = 0) → leNat l = 0 := by
    intro l hl
    induction l with
    | nil => rfl
    | cons a r ih =>
      rw [leNat, ih fun b hb => hl b (List.mem_cons_of_mem _ hb), hl a List.mem_cons_self]
      rfl
  exact h _ fun b hb => (List.mem_replicate.mp (List.mem_of_mem_drop (List.mem_of_mem_take hb))).2

theorem reads_zero (rd : Nat → Nat → Machine.Rd) (r : LaunchRec) (h : r.tdimg = 0) (u : r.unimg = 0) :
    ∀ d ∈ (launchReads rd r).1, isBytes d = true := by
  simp [launchReads, h, u, field_zeros, isBytes, -List.reduceReplicate]

theorem pointers_zero (s : State) (l : Launch) (n : Nat) : s.descImages l (List.replicate n 0#8) = .ok [] := by
  unfold State.descImages
  simp only [field_zeros]
  induction List.range 256 with
  | nil => rfl
  | cons i r ih => exact ih

theorem images_ok (s : State) (l : Launch) (a b c : List Byte) (d : List (Nat × BitVec 512)) (ha : s.image l l.record.tarimg 384 = .ok a)
    (hb : s.image l l.record.tdimg 2048 = .ok b) (hc : s.image l l.record.unimg 1024 = .ok c) (hd : s.descImages l b = .ok d) :
    ∃ im, s.images l = .ok im := by
  simp only [State.images, ha, hb, hc, hd, Except.ok.injEq, exists_eq']

theorem images_zero (s : State) (l : Launch) (a : l.record.tarimg = 0) (b : l.record.tdimg = 0) (c : l.record.unimg = 0) :
    ∃ im, s.images l = .ok im := by
  have h (n va : Nat) (e : va = 0) : s.image l va n = .ok (List.replicate n 0#8) := by
    rw [State.image, if_pos e]
    rfl
  exact images_ok s l _ _ _ _ (h _ _ a) (h _ _ b) (h _ _ c) (pointers_zero s l _)

/-- A good record; a record of another version; a priority above 3; a tariff image with an illegal entry. -/
theorem witness_LaunchAndQuery_launch :
    ∀ p ∈ [((0 : Fin 4), schedMem, (0 : BitVec 8)), (1, Memory.write schedMem 0x5550400 2 2, 0), (2, schedMem, 4),
        (3, Memory.write (Memory.write schedMem 0x5550470 8 0x20800) 0x5550808 8 3, 0)],
      let f : FM := { spawnI 12 with b := .imm p.2.2 }
      let s := schS p.2.1
      wf (.launch f) = true ∧ s.issues (.launch f) h0 = true ∧
      let x := s.issueCtx (.launch f) h0
      let s := s.landed (.launch f) h0
      x.act = [0] ∧ ∃ t ∈ x.team s, s.launchesWait t.world = false ∧ s.relReady x.core x.slot 0 = true ∧ address f x s 0 % 64 = 0 ∧ address f x s 0 < 2 ^ 56 ∧
        isBytes (s.fibreRead x.core t 0 (address f x s 0) 288) = true ∧
        (s.launches.filter fun l => l.die == dieOf x.core && l.share.isNone && !l.done).length < 64 ∧
        let r := LaunchRec.parse (bytesOf (s.fibreRead x.core t 0 (address f x s 0) 288))
        let im := launchReads (s.schedRead t.ctx t.world ((s.core x.core).received x.slot 0)) r
        isBytes im.2.1 = true ∧ isBytes im.2.2 = true ∧ r.tdimg = 0 ∧ r.unimg = 0 ∧
        (r.wellFormed = true ↔ p.1 ≠ 1) ∧ ((x.rdU s false f.b).toNat % 2 ^ 32 < 4 ↔ p.1 ≠ 2) ∧
        ((∀ i < 48, BitVec.ofNat 64 (field (bytesOf im.2.1) (8 * i) 8) = 0 ∨ (Fmt.of (BitVec.ofNat 64 (field (bytesOf im.2.1) (8 * i) 8))).legal = true) ↔ p.1 ≠ 3) ∧
        s.pinnedRange t.ctx t.world (r.pinpool + 0x210000 * r.pincnt) (33 * r.pincnt + 1) r.pinpool = true ∧
        s.mailboxOk t.ctx t.world r.fmbox.toNat = true ∧ sideTableOk r.win (bytesOf im.2.2) r.pptn none = true ∧ (r.shape.place []).isSome = true ∧
        r.spad ≤ spadBytes r.l1 ∧ (s.barrierBases r (dieOf x.core)).isSome = true := by decide +kernel

/-- Shares of launches of package 3: the good record, and the end of one. -/
theorem witness_LaunchAndQuery_share :
    (let p : Params := { src := 3, n := 9, ctx := 1, bytes := some (Memory.bytes schedMem 0x5550400 288) }
     let s := { schS schedMem with par := p }
     (∃ c ∈ s.contexts, c.num = p.ctx ∧ (c.world = true ↔ p.k = 1)) ∧ p.die < 8 ∧ (∀ l ∈ s.launches, l.num ≠ p.n % 2 ^ 32 + 2 ^ 32 * (p.src + 1)) ∧
     ∃ b ∈ p.bytes, (LaunchRec.parse b).wellFormed = true ∧ (s.barrierBases (LaunchRec.parse b) p.die).isSome = true) ∧
    (let l := { launch9 with shares := [3, 4] }
     let s := { schS schedMem with launches := [l], par := { src := 3, n := 9, flag := true } }
     l.num = s.par.n ∧ (after (exec .launchShare s)).map (fun t => t.launches.map (·.shares)) = some [[4]]) := by decide +kernel

def lqueryI (n k : BitVec 8) : FR := { fr with a := .imm n, b := .imm k, c := .v 0, t1 := 0, t2 := 0 }

theorem witness_LaunchAndQuery_query :
    ∀ n ∈ [(9 : BitVec 8), 8], ∀ k ∈ [(0 : BitVec 8), 1, 2, 3],
      let i := Instr.lquery (lqueryI n k)
      let s := schS schedMem
      wf i = true ∧ s.issues i h0 = true ∧ (s.issueCtx i h0).act ≠ [] ∧
      (if n = 9 then (s.landed i h0).launchOf? (launchAsked (lqueryI n k) (s.issueCtx i h0) (s.landed i h0)) = some launch9
       else (s.landed i h0).launchOf? (launchAsked (lqueryI n k) (s.issueCtx i h0) (s.landed i h0)) = none) := by decide +kernel

/-- The launch of the record as it stands in its table. -/
def launched : Launch :=
  { launch9 with record := LaunchRec.parse (Memory.bytes (schS schedMem).mem 0x5550400 288), generated := List.replicate 8 0, ended := List.replicate 8 0 }

/-- A die with a launch and records in its queues, and no team; its cores but the first are of the secure world. -/
def dieS (l : Launch) (q : List ContRec) (par : Params) : State :=
  { schS schedMem with
    cores := [], launches := [l], par := par,
    dies := (schS schedMem).dies.modify 0 fun d => { d with queues := [q, [], [], []], cycle := 70000, wmcore := (2 ^ 64 - 2) :: List.replicate 7 (2 ^ 64 - 1) } }

def contRec : ContRec := { ContRec.parse (Memory.bytes (schS schedMem).mem 0x5550000 32) 1 9 0 0 with cycle := 1 }

/-- The frames of what stands ready on a core. -/
def readyOn (s : State) (c : Nat) (l : Launch) (h : Shape) : Bool :=
  (s.core c).fused == l.record.flags.getLsbD 0 && (s.core c).l1kib == l.record.l1 && (h.place (s.core c).windows).isSome &&
  ((s.core c).spadRun h.spad (spadBytes l.record.l1)).isSome && (s.freeFrame l).isSome &&
  ((List.range 16).find? fun n => !((s.core c).teams.any (·.slot == n))).isSome &&
  (match s.recordNow l with | .ok r => r.tarimg == 0 && r.tdimg == 0 && r.unimg == 0 | _ => false)

theorem witness_SchedulerSteps_team :
    (match (dieS launched [] { n := 9 }).nextItem 0 with
     | some (.team n (_, _, c, _)) => n == 9 && readyOn (dieS launched [] { n := 9 }) c launched launched.record.shape
     | _ => false) = true ∧
    ((dieS launched [] { n := 9 }).launchOf? 9) = some launched := by decide +kernel

theorem witness_SchedulerSteps_record :
    let l := { launched with done := true }
    let s := dieS l [contRec] {}
    (match s.nextItem 0 with
     | some (.record p i c) => p == 0 && i == 0 && readyOn s c l contRec.form
     | _ => false) = true ∧ (s.die 0).firing = [] ∧ s.launchOf? contRec.launch = some l ∧
    ((dieS l [] {}).nextItem 0).isNone = true ∧ s.par.die < s.dies.length ∧ contRec.cycle + 65536 ≤ (s.die 0).cycle := by decide +kernel

theorem witness_SchedulerSteps_ends :
    (let s := { withTeam (gang 1) (fun t => { t with fibres := [], launch := 9 }) with launches := [launch9] }
     ∃ u ∈ s.team? 0 0, u.fibres = [] ∧ s.teamSettled 0 0 = true ∧ u.cont = false ∧ s.launchOf? u.launch = some launch9) ∧
    (let l := { launched with next := List.replicate 8 2 }
     let s := dieS l [] { n := 9 }
     s.launchOf? 9 = some l ∧ s.launchOver l = true ∧ l.share = none ∧ l.record.join = 0) ∧
    (let s := { State.reset with cores := [(0, { Core.reset with marked := true })], forum := { State.reset.forum with boundary := true } }
     s.forum.boundary = true ∧ ({ s.forum with boundary := false } : Forum).boundary = false ∧ (s.core 0).marked = true ∧ (s.core 0).teams = [] ∧ assocGet 0 s.forum.sparesUsed (0 / 256) < 8) := by decide +kernel

end Sys2Proof.Tests

namespace Sys2Proof.Tests

set_option Elab.async false

open Sys2Proof Sys2Proof.Machine Sys2Proof.Spec

-- routing

/-- A route descriptor (R371) at 0x5550000: two groups of two on die 0, the best of each, one 64-byte unit a token, four slots. -/
def routeMem : List Host.Cell :=
  [(0x5550002, 3), (0x5550010, 4), (0x5550012, 2), (0x5550013, 2), (0x5550014, 1), (0x5550015, 1), (0x5550016, 1)]

/-- Tokens of 64 INT8 elements stand in memory (1), score rows of 4 FP32 in the scratchpad (5); k0 and k1 hold the descriptor's address, k2 the number
of tokens, k3 the round, k4 the choice address, (k6, k7) and (k8, k9) addresses of the histogram. -/
def routeS (n : Nat) : State :=
  let s := withTeam (gang n) fun t => { t with
    tdesc := [(1, descBits 0x20000 3 false), (5, descBits 0x2000 0 true - BitVec.ofNat 512 (60 * 2 ^ 64))],
    uregs := (List.replicate 4 ([0x20000, 0, 2, 7, 0x1000, 0, 0x20400, 0, 0x30000, 0] ++ List.replicate 54 0)).flatten }
  { s with mem := routeMem, uid := 8 }

def xselI : FR := { fr with a := .v 10, b := .k 0, c := .v 0, t1 := 0, t2 := 0 }
def xdispI : FE := { fe with d := .k 4, a := .k 0, tda := 1, tdb := 5 }
def xcurI : FR := { fr with d := .v 0, a := .imm 64, b := .v 0, c := .v 0, t1 := 0, t2 := 0 }
def xhistI : FM := { fm with d := .k 8, a := .k 6, b := .imm 4, t1 := 6 }
def regrpI : FR := { xcurI with d := .v 4, a := .v 1 }

/-- What a read of the descriptor gives. -/
def routeOf (va : Nat) (x : Ctx) (s : State) : Option (State × Route) :=
  (x.team s).bind fun t => match s.readRoute x t (x.act.headD 0) va with | (e, .ok r) => some (e, r) | _ => none

theorem witness_RoutingInstructions_route :
    (let s := routeS 2
     wf (.xsel xselI) = true ∧ s.issues (.xsel xselI) h0 = true ∧
     let x := s.issueCtx (.xsel xselI) h0
     let s' := s.landed (.xsel xselI) h0
     x.act ≠ [] ∧ (x.team s').isSome = true ∧ (∀ fid ∈ x.act, s'.acqOpen x.core x.slot fid = false) ∧ ∃ q ∈ routeOf (x.rdU s' true xselI.b).toNat x s',
       (∀ fid ∈ x.act, scoreRow xselI x s' fid % 4 = 0 ∧ (teamOf x s').allots (scoreRow xselI x s' fid) (4 * (q.2.ngrp * q.2.epg)) = true ∧
         q.1.engHeld x.core q.1.uid q.1.uid (scoreRow xselI x s' fid) (scoreRow xselI x s' fid + 4 * (q.2.ngrp * q.2.epg)) = false) ∧
       outsAgree (choices xselI q.2 q.1 x s') = true ∧ q.2.wellFormed = true ∧ q.2.topg = 1) ∧
    (let s := routeS 1
     wf (.xdisp xdispI) = true ∧ s.issues (.xdisp xdispI) h0 = true ∧
     let x := s.issueCtx (.xdisp xdispI) h0
     let s' := s.landed (.xdisp xdispI) h0
     x.act ≠ [] ∧ xdispCheck xdispI x s' = [] ∧ s'.tdHeld x.core x.slot [1, 5] = false ∧
     ∃ q ∈ routeOf (uniformAt xdispI 1 x s' ++ uniformAt xdispI 0 x s').toNat x s',
       let d := q.1.readThrough x.core (teamOf x s') (x.act.headD 0) (uniformAt xdispI 1 x s' ++ uniformAt xdispI 0 x s').toNat 2
       d.1.xdispTrap x.core (teamOf x s') xdispI (dispatched xdispI d.2 x d.1) = none ∧ (∀ fid ∈ x.act, d.1.relReady x.core x.slot fid = true) ∧
       (d.1.die (dieOf x.core)).dispq.length < 64) := by decide +kernel

theorem witness_RoutingInstructions_rest :
    (∀ i ∈ [Instr.xcurRd xcurI, .xcurWr xcurI],
      let s := routeS 1
      wf i = true ∧ s.issues i h0 = true ∧
      let x := s.issueCtx i h0
      let s := s.landed i h0
      let a := cursorAt xcurI x s
      x.act ≠ [] ∧ (∃ t ∈ x.team s, t.spadBase ≤ a ∧ a + 64 ≤ t.spadBase + t.spadSize) ∧ a % 64 = 0 ∧ (s.die 0).dispq = [] ∧
      s.acqOpen x.core x.slot (x.act.headD 0) = false ∧ a + 64 ≤ 0xFF000 ∧ (∃ g ∈ s.fibre? x.core x.slot (x.act.headD 0), g.unack < 65527) ∧
      (s.core x.core).bankRoom ((List.range 16).map fun i => ⟨s.uid, a + 4 * i, none, s.uid⟩) = true ∧
      s.engHeld x.core s.uid s.uid a (a + 64) = false ∧
      let b := Memory.bytes (s.core x.core).spad a 64
      field b 6 1 % 2 = 0 ∧ field b 6 1 < 4 ∧ field b 0x38 8 = 0) ∧
    (let s := routeS 2
     wf (.xhist xhistI) = true ∧ s.issues (.xhist xhistI) h0 = true ∧
     let x := s.issueCtx (.xhist xhistI) h0
     let s := s.landed (.xhist xhistI) h0
     let blk := address xhistI x s (x.act.headD 0)
     let n := (x.rdU s false xhistI.b).toNat % 2 ^ 32
     let area := (x.rdU s true xhistI.d).toNat
     x.act ≠ [] ∧ blk % 8 = 0 ∧ area % 2 ^ 16 = 0 ∧ 1 ≤ n ∧ n ≤ 2048 ∧
     (∃ t ∈ x.team s, (s.histCause x.core t .atomic blk (8 + 4 * n)).isNone = true ∧ (s.histCause x.core t .read area (2 * n)).isNone = true) ∧
     ∀ fid ∈ x.act, s.acqOpen x.core x.slot fid = false ∧ s.countFull x.core x.slot fid = false) ∧
    (wf (.regrp regrpI) = true ∧ (routeS 2).issues (.regrp regrpI) h0 = true ∧ ((routeS 2).issueCtx (.regrp regrpI) h0).act ≠ []) := by
  decide +kernel

/-- The command of the `xdisp` above, as it stands in its queue. -/
def dispC : DispCmd :=
  let x := (routeS 1).issueCtx (.xdisp xdispI) h0
  { dispatched xdispI (Memory.bytes routeMem 0x5550000 64) x (routeS 1) with id := 5 }

def dispS (q : DispCmd) (f : Die → Die) (p : Params) : State :=
  { (walked (routeS 1)).modDie 0 fun d => f { d with dispq := [q] } with par := p }

theorem witness_RoutingSteps_command :
    (let s := dispS dispC (fun d => d) {}
     (s.die s.par.die).dispq = [dispC] ∧ dispC.started = false ∧ ∃ t ∈ s.team? dispC.core dispC.slot, t.preempt = none) ∧
    (let q := { dispC with started := true }
     let s := dispS q (fun d => d) {}
     let k := Route.parse q.desc
     let d := s.par.die
     let p := k.dieOf 0
     (s.die d).dispq = [q] ∧ d < s.dies.length ∧ p < s.dies.length ∧ p < q.due.length ∧ p < q.bytes.length ∧ q.abort = none ∧ q.next < q.n ∧
     s.choiceOf q q.next = [0] ∧ 0 < k.ngrp ∧ (∀ l ∈ q.due, l.length < 64) ∧
     s.engHeld q.core q.id q.id (q.choice + 8 * q.next) (q.choice + 8 * q.next + 8) = false ∧
     s.engHeld q.core q.id q.id (q.scoreAddr q.next) (q.scoreAddr q.next + 4 * k.ngrp * k.epg) = false ∧
     ∃ t ∈ s.team? q.core q.slot, t.preempt = none ∧ t.cursor.tok ≤ q.next ∧ nth 0 t.cursor.bytes p < nth 0 q.bytes p + 64 * k.tokb ∧
       (match s.tokenRow t q with | .row bs => bs.length == 64 | _ => false) = true) ∧
    (let q := { dispC with started := true }
     let s := (dispS q (fun d => d) {}).modCore 0 fun k => { k with spad := Memory.putBytes k.spad q.choice (leBytes (2 ^ 64 - 1) 8) }
     s.choiceOf q q.next = [0xFF] ∧ (s.die s.par.die).dispq = [q] ∧ (∃ t ∈ s.team? q.core q.slot, t.preempt = none) ∧
     q.abort = none ∧ q.asked = false ∧ q.next < q.n ∧ (∀ l ∈ q.due, l.length ≤ 64) ∧
     s.engHeld q.core q.id q.id (q.choice + 8 * q.next) (q.choice + 8 * q.next + 8) = false ∧
     s.engHeld q.core q.id q.id (q.scoreAddr q.next) (q.scoreAddr q.next + 4 * (Route.parse q.desc).ngrp * (Route.parse q.desc).epg) = false) ∧
    (let q := { dispC with started := true, due := [0] :: List.replicate 7 [] }
     let s := dispS q (fun d => { d with tokAcks := [⟨3, 5, 0, 0, 1, none⟩] }) { id := 3 }
     (s.die s.par.die).tokAcks.find? (·.id == s.par.id) = some ⟨3, 5, 0, 0, 1, none⟩ ∧ q.id = 5 ∧ q.next < q.n ∧ q.abort = none ∧
       (s.team? q.core q.slot).isSome = true) := by decide +kernel

/-- A token that its die has not had: two experts to choose the better from, whose slots lie in the second page. -/
theorem witness_RoutingSteps_offer :
    let m : Token := ⟨3, 5, 0, 1, 7, 2, 0, Memory.bytes routeMem 0x5550000 64, [0, 0x3F800000], List.replicate 64 9⟩
    let s := dispS dispC (fun d => { d with tokens := [m], marks := [(0, 1, 7, 1)] }) { id := 3 }
    let k := Route.parse m.desc
    let es := (byRank (m.scores.map rankOf)).take k.tope
    let s1 := s.modDie 0 fun y => { y with tokens := [] }
    es = [1] ∧ k.sbase = 0x30000 ∧ 0 < k.cap ∧ (∀ k ∈ (s.die 0).marks, ¬ (k.1 = m.src ∧ k.2.1 = m.ctx ∧ k.2.2.1 = m.round ∧ m.t ≤ k.2.2.2)) ∧
    (∀ v ∈ s1.ingressRanges m k 0x30000 es, s1.ingressCause 0 m.ctx v.1 v.2 = none) ∧
    (∀ v ∈ [(0x31000, 4), (0x30002, 2)], s1.poisoned (s1.physOf m.ctx v.1) v.2 = false) ∧
    (after (exec .ingressArrival s)).map (fun t => (Memory.read t.mem 0x7770002 2, Memory.read t.mem (0x7772000 + 4 * 128) 16,
      Memory.read t.mem (0x7772000 + 4 * 128 + 64) 2, (t.die 0).tokAcks.map (·.refused))) =
      some (1, 2 + 7 * 2 ^ 48 + 0x3F800000 * 2 ^ 64, 0x909, [0]) := by decide +kernel

/-- The only fibre of a role, at a regroup. -/
theorem witness_RoutingInstructions_regroup :
    let s := { withFibres (routeS 1) fun f => { f with wait := some (.regrp 5 (.v 4)) } with par := { role := .general } }
    (∃ t ∈ s.team? 0 0, t.fibres.length = 1 ∧ (∀ f ∈ t.fibres, f.role = s.par.role ∧ f.stepping = false ∧ f.rep = none) ∧
      t.regroupSet s.par.role = some t.fibres) ∧
    (after (exec .regroupComplete s)).map (fun t => (t.fibre? 0 0 0).map fun f => (f.pc, f.wait, f.pend.map (·.val))) = some (some (0x1000C, none, [0])) := by
  decide +kernel

theorem witness_RoutingSteps_arrival :
    (let m : Token := ⟨3, 5, 0, 1, 7, 2, 0, [], [], []⟩
     let s := dispS dispC (fun d => { d with tokens := [m], marks := [(0, 1, 7, 2)] }) { id := 3 }
     (s.die s.par.die).tokens = [m] ∧ m.id = s.par.id ∧ s.par.die < s.dies.length ∧
       ((s.die 0).marks.any fun k => k.1 == m.src && k.2.1 == m.ctx && k.2.2.1 == m.round && decide (m.t ≤ k.2.2.2)) = true ∧
       (∃ k ∈ (s.die 0).marks, k.1 = m.src ∧ k.2.1 = m.ctx ∧ k.2.2.1 = m.round ∧ m.t ≤ k.2.2.2) ∧ m.src < s.dies.length) ∧
    (let k := Route.parse (Memory.bytes routeMem 0x5550000 64)
     let s := { walked (routeS 1) with mem := Memory.write tables 0x7770000 2 4 }
     let cnt := s.physOf 1 0x30000
     let refc := s.physOf 1 0x31000
     k.cap ≤ Memory.read s.mem cnt 2 ∧ cnt = 0x7770000 ∧ (s.homeWrite cnt 2 5).physOf 1 0x31000 = refc) ∧
    (let s := { withFibres (routeS 3) fun f => { f with wait := some (.regrp (BitVec.ofNat 32 (f.fid % 2)) (.v 4)) } with par := { role := .general } }
     ∃ t ∈ s.team? s.par.core s.par.slot, (t.fibres.map (·.fid)).Nodup ∧ ∃ fs ∈ t.regroupSet s.par.role, fs.length = 3 ∧
       ∀ g ∈ fs, g.stepping = false ∧ g.rep = none ∧ (g.regrp?.map (·.2)) = some (.v 4)) ∧
    (∃ t ∈ (routeS 2).team? 0 0, (t.regroupSet .general).isNone = true) := by decide +kernel

end Sys2Proof.Tests

namespace Sys2Proof.Tests

set_option Elab.async false

open Sys2Proof Sys2Proof.Machine Sys2Proof.Spec

-- waits on memory, remote regions, system registers, saved contexts, debugging


/-- A pinned page of 512 MiB at 0x20000000 with the start of an image of 192 bytes; its `FRBASE` is 0x4000 (R297). -/
def sysMem : List Host.Cell :=
  tables.take 3 ++ [(0xC0003, 13), (0xC0008, 19), (0xC0009, 148), (0xC000B, 64)] ++ tables.drop 4 ++
    [(0x40000000, 0x43), (0x40000001, 0x4D), (0x40000002, 0x4F), (0x40000003, 0x4E), (0x40000004, 1), (0x40000040, 192), (0x400000A1, 0x40)]

/-- Another team in slot 3, with a stopped fibre and an entry of the side log. -/
def sysS (n : Nat) (f : Fibre → Fibre) (g : Team → Team) : State :=
  let s := withFibres (withTeam (gang n) fun t => { t with
    uregs := (List.replicate 4 ([1, 0, 0x20000, 0, 0, 0x444, 1, 0, 0x30000, 0x100, 0x20000000, 0, 5, 9] ++ List.replicate 50 0)).flatten }) f
  let other : Team := g { team 1 with slot := 3, frame := 0x60000, spadSize := 0, fibres := [{ fibre 0 with lane := 8, run := .stopped }] }
  { inCore s fun k => { k with teams := k.teams ++ [other], sidelog := [⟨0, 3, 0, 0x4440000, 0, .store 8 4 7, 11, none, 0, false⟩] } with
    mem := sysMem, contexts := [⟨1, true, false, 0xA0000⟩], uid := 8,
    forum := { (gang n).forum with graphs := [⟨5, 1, 0, [], List.replicate 8 7, none⟩] } }

def sys1 : State := sysS 1 (fun f => f) fun t => t

def waitI (t : BitVec 6) (b : BitVec 8) : FM := { fm with d := .v 4, a := .k 2, b := .imm b, t1 := t }

theorem witness_SystemInstructions_waits :
    (∀ p ∈ [(Instr.wwait (waitI 8 1), waitI 8 1, 4), (.wwait (waitI 9 1), waitI 9 1, 8), (.wwait (waitI 8 0), waitI 8 0, 4), (.wwake (waitI 8 1), waitI 8 1, 4)],
      let f := p.2.1
      wf p.1 = true ∧ sys1.issues p.1 h0 = true ∧
      let x := sys1.issueCtx p.1 h0
      let s := sys1.landed p.1 h0
      let va := address f x s 0
      let l := leaf 0x5550000 2 1
      x.act = [0] ∧ (x.team s).isSome = true ∧
      (va % p.2.2 = 0 ∧ va < 2 ^ 56 ∧ s.acqOpen x.core x.slot 0 = false ∧ (s.look x.core 1 false .read va = .ok l) ∧
          s.logged x.core x.slot 0 va = false ∧ l.apt < 4 ∧ s.hostGone l va = false) ∧ l.apt < 2 ∧ s.poisoned (l.phys va) p.2.2 = false ∧
      s.relReady x.core x.slot 0 = true ∧ differs f (fun _ _ => l) x s 0 = (f.b != .imm 0) ∧ s.forum.crier.length < 65536) := by decide +kernel

def region (st : List (Nat × Nat × Nat × Nat)) : Region := ⟨0, 0, [1, 2, 3], 0x10040, 3, 4, 2, st, 0, false, [], false, []⟩

def plainI : FR := { fr with d := .v 0, a := .v 0, b := .v 0, c := .v 0, t1 := 0, t2 := 0 }
def openI : FR := { plainI with d := .p 3, a := .v 4 }

theorem witness_SystemInstructions_regions :
    (let s := sys1
     wf (.rmtOpen openI) = true ∧ s.issues (.rmtOpen openI) h0 = true ∧
     let x := s.issueCtx (.rmtOpen openI) h0
     let s := s.landed (.rmtOpen openI) h0
     x.act = [0] ∧ (s.freeRegion x.core).isSome = true ∧ ∃ g ∈ s.fibre? x.core x.slot 0, g.region = none ∧ ∀ w ∈ g.pend, w.due ≠ .out) ∧
    (∀ st ∈ [[], [(2, 64, 3, 4), (5, 0, 1, 1)]], ∀ i ∈ [Instr.rmtCommit plainI, .rmtAbort plainI],
      let s := sysS 1 (fun f => { f with region := some (region st) }) fun t => t
      wf i = true ∧ s.issues i h0 = true ∧
      let x := s.issueCtx i h0
      let s := s.landed i h0
      x.act = [0] ∧ s.relReady x.core x.slot 0 = true ∧ ∃ r ∈ Spec.regionOf s x 0, r.staged = st) := by decide +kernel

def sysrdI (n : BitVec 16) : FR := { plainI with d := .v 4, xf := n }
def syswrI (n : BitVec 16) (k : BitVec 6) : FR := { plainI with a := .k k, xf := n }

/-- Every selector; with bit 11, another slot: 3, and 2 in which no team is. -/
theorem witness_SystemInstructions_registers :
    (∀ n ∈ (List.range 256).filter (fun n => Wf.sysRegOk (BitVec.ofNat 16 n)), wf (.sysrd (sysrdI (BitVec.ofNat 16 n))) = true ∧
      wf (.syswr (syswrI (BitVec.ofNat 16 n) 2)) = true ∧ selected (BitVec.ofNat 16 n) = n) ∧
    (∀ i ∈ [Instr.sysrd (sysrdI 0x20), .sysrd (sysrdI 0x22), .sysrd (sysrdI 0x4F), .sysrd (sysrdI 0x00), .sysrd (sysrdI 0x1E), .sysrd (sysrdI 0x381E), .sysrd (sysrdI 0x2800),
        .syswr (syswrI 0x00 2), .syswr (syswrI 0x3805 2), .syswr (syswrI 0x10 2), .syswr (syswrI 0x1E 2), .syswr (syswrI 0x06 2), .syswr (syswrI 0x08 0),
        .syswr (syswrI 0x1D 0), .syswr (syswrI 0x3808 0), .syswr (syswrI 0x381D 2), .syswr (syswrI 0x20 2), .syswr (syswrI 0x4F 2), .syswr (syswrI 0x74 12)],
      wf i = true ∧ sys1.issues i h0 = true ∧ (sys1.issueCtx i h0).act = [0] ∧ ((sys1.issueCtx i h0).team (sys1.landed i h0)).isSome = true ∧
      (sys1.landed i h0).relReady 0 0 0 = true) ∧
    (reached 0x381D (sys1.issueCtx (.sysrd (sysrdI 0)) h0) = 3 ∧ (sys1.team? 0 3).isSome = true ∧ reached 0x2800 (sys1.issueCtx (.sysrd (sysrdI 0)) h0) = 2 ∧
      (sys1.team? 0 2).isNone = true ∧
      (sys1.forum.graphs.find? (·.slot == ((sys1.issueCtx (.syswr (syswrI 0x74 12)) h0).rdU sys1 true (.k 12)).toNat % 64)).isSome = true) := by decide +kernel

def cancelI : FR := { plainI with d := .v 4, a := .k 4, b := .imm 0, c := .k 6 }

theorem witness_SystemInstructions_fcancel :
    let i := Instr.fcancel cancelI
    let s := sysS 1 (fun f => f) fun t => { t with ctx := 1 }
    wf i = true ∧ s.issues i h0 = true ∧
    let x := s.issueCtx i h0
    let s := s.landed i h0
    let d := cancelling ((x.rdU s true cancelI.a).toNat / 2 ^ 16) ((x.rdU s false cancelI.c).toNat % 2 ^ 16) ((x.rdU s false cancelI.b).setWidth 32) s
    x.act ≠ [] ∧ ((x.rdU s false cancelI.b).setWidth 32).toNat < 2 ^ 17 ∧ ∀ fid ∈ x.gang, s.fibre? x.core x.slot fid = d.fibre? x.core x.slot fid := by
  decide +kernel

def saveI (a : BitVec 6) (slot : BitVec 8) : FM := { fm with d := .v 4, a := .k a, b := .imm slot, t1 := 9 }

/-- The state and the slot's team as `ctxsave` finds them: no team; its own slot; no pinned pages; ready to be saved. -/
theorem witness_SystemInstructions_ctxsave :
    ∀ p ∈ [((0 : Fin 4), saveI 10 2), (1, saveI 10 0), (2, saveI 2 3), (3, saveI 10 3)],
      let i := Instr.ctxsave p.2
      let s := sysS 1 (fun f => f) fun t => { t with preempt := if p.1 = 3 then some (0, true) else none }
      wf i = true ∧ s.issues i h0 = true ∧
      let x := s.issueCtx i h0
      let s := s.landed i h0
      let a := address p.2 x s 0
      x.act = [0] ∧ a % 64 = 0 ∧ (x.team s).isSome = true ∧ (p.1 = 0 ↔ (s.team? x.core (slotNamed p.2 x s)).isNone = true) ∧
      (p.1 = 1 ↔ slotNamed p.2 x s = x.slot) ∧
      let me := teamOf x s
      let t := (s.team? x.core (slotNamed p.2 x s)).getD Team.blank
      (p.1 = 2 → s.pinnedFor me.ctx me.world .write a (imageRoom t) = false) ∧
      (p.1 = 3 → s.pinnedFor me.ctx me.world .write a (imageRoom t) = true ∧ t.preempt = some (0, true) ∧ s.saveReady x.core t = true) := by decide +kernel

def loadI (a : BitVec 6) : FM := { fm with d := .v 4, a := .k a, b := .v 0, t1 := 9 }

theorem witness_SystemInstructions_ctxload :
    (let i := Instr.ctxload (loadI 2)
     wf i = true ∧ sys1.issues i h0 = true ∧
     let x := sys1.issueCtx i h0
     let s := sys1.landed i h0
     x.act = [0] ∧ address (loadI 2) x s 0 % 64 = 0 ∧ ∃ me ∈ x.team s, s.pinnedFor me.ctx me.world .read (address (loadI 2) x s 0) 0xC40 = false) ∧
    (let i := Instr.ctxload (loadI 10)
     let y : SavedTeam := ⟨4, [], true, { Team.blank with ctx := 0 }, 0, 64, false, [], [], [], [], []⟩
     let s := { sys1 with saved := [y] }
     wf i = true ∧ s.issues i h0 = true ∧
     let x := s.issueCtx i h0
     let s := s.landed i h0
     let a := address (loadI 10) x s 0
     let me := teamOf x s
     let h := (s.readVirtLong me.ctx me.world (0xC40 / 2 ^ 16 + 2) a 0xC40).getD []
     let b := (s.readVirtLong me.ctx me.world (192 / 2 ^ 16 + 2) a 192).getD []
     x.act = [0] ∧ a % 64 = 0 ∧ (x.team s).isSome = true ∧ s.pinnedFor me.ctx me.world .read a 0xC40 = true ∧ h.length = 0xC40 ∧ b.length = 192 ∧
     headerOk h = true ∧ imageOk b = true ∧ (field h 8 4).testBit 16 = false ∧ field h 0x040 8 + 64 * field h 0x014 4 = 192 ∧ s.pinnedFor me.ctx me.world .read a 192 = true ∧
     s.saved.find? (fun z => z.inMemory && z.team.ctxid == field h 8 4 && z.team.frbase == field b 0x0A0 8) = some y) := by decide +kernel

def dbgI (a b : Operand) : FR := { plainI with d := .v 4, a := a, b := b }

/-- A stopped fibre of slot 3 and what is not there; a register and an item not listed. -/
theorem witness_SystemInstructions_dbgrd :
    ∀ i ∈ [Instr.dbgrd (dbgI (.k 8) (.imm 4)), .dbgrd (dbgI (.k 8) (.k 9)), .dbgrd (dbgI (.imm 0) (.imm 4))],
      wf i = true ∧ sys1.issues i h0 = true ∧ (sys1.issueCtx i h0).act = [0] ∧
      (named 0x30000 (sys1.issueCtx i h0) (sys1.landed i h0)).isSome = true ∧ (named 0 (sys1.issueCtx i h0) (sys1.landed i h0)).isNone = true := by
  decide +kernel

end Sys2Proof.Tests

namespace Sys2Proof.Tests

set_option Elab.async false

open Sys2Proof Sys2Proof.Machine Sys2Proof.Spec

-- the Boster set

/-- A reduction group of two members, and a packet of its second member. -/
def grp (kind : Nat) (pv : Bool) : Group :=
  { nmem := 2, kind := kind, efmt := 0, ver := 0, ctx := 1, prog := 0, home := 0, tmo := 0, rbase := 0x5550000, gstr := 0, nsec := 1, pgrp := 0, pv := pv, pmem := 0,
    ppkg := 0, cmpl := 0, rsvZero := true, members := [1, 2] }

def pkt (kind : Nat) : Packet := { grp := 3, member := 1, off := 64, kind := kind, ver := 0, srcPkg := 0, srcPort := 0, mask := 0xF, data := List.replicate 8 0x3F800000, poison := 0 }

def handler (gk pk : Nat) (sl : Bool) : Handler := { taken (grp gk false) (pkt pk) with bpc := 5, sl := sl }

/-- Porter 50 with one handler. -/
def portS (h : Handler) (f : Porter → Porter) : State :=
  { State.reset.modPorter 50 fun q => f { q with running := true, handlers := [h] } with curPorter := (50, 0), uid := 9 }

/-- The slot of the packet's key: `n` members folded, contributions in its buffer. -/
def slotOf (h : Handler) (n : Nat) (bmp : List Nat) (raw : List Raw) : Slot := { newSlot h with nxt := n, bmp := bmp, raw := raw }

def otherSlot : Slot := { newSlot (handler 2 0 false) with off := 96 }

theorem witness_BosterInstructions_turn :
    (∀ n ∈ [0, 63], let h := { handler 2 0 false with count := n }
      ((portS h id).porter 50).handlers[0]? = some h ∧ h.count < 64) ∧
    (let h := { handler 2 0 false with count := 64 }
     ((portS h id).porter 50).handlers[0]? = some h ∧ 64 ≤ h.count) ∧
    (∀ i ∈ [Instr.bli 1 5, .badd 1 2 3, .baddi 1 2 5, .band 1 2 3, .bshr 1 2 3], (computes i).isSome = true) ∧
    (∀ n ∈ [(-6 : Int), 1019, -5, 1018], (n = -6 ∨ n = 1019) ↔ ((handler 2 0 false).bpc + n < 0 ∨ 1024 ≤ (handler 2 0 false).bpc + n)) ∧
    (branches (.bbeq 0 0 (-5))).isSome = true ∧ gpr (handler 2 0 false) 0 = gpr (handler 2 0 false) 0 ∧ gpr (handler 2 0 false) 0 ≠ gpr (handler 2 0 false) 1 := by
  decide +kernel

theorem witness_BosterInstructions_bmatch :
    (2 ≤ (handler 2 2 false).pkt.kind ∧ (handler 3 0 false).group.kind ≠ 2) ∧
    (∀ sl ∈ [false, true], (handler 2 1 sl).pkt.kind < 2 ∧ (handler 2 1 sl).group.kind = 2 ∧ (handler 2 1 sl).sl = sl) ∧
    (let h := handler 2 0 false
     key h ∈ ((portS h fun q => { q with marks := [(3, 0, 64)] }).porter 50).marks ∧ key h ∉ ((portS h id).porter 50).marks ∧
     (slotAtPorter (portS h fun q => { q with slots := [slotOf h 0 [] []] }) 50 (key h)).isSome = true ∧
     slotAtPorter (portS h id) 50 (key h) = none ∧ ((portS h id).porter 50).slots.length < porterSlots 50 ∧
     let s := portS h fun q => { q with slots := List.replicate 64 otherSlot }
     slotAtPorter s 50 (key h) = none ∧ porterSlots 50 ≤ (s.porter 50).slots.length ∧ s.slotHeld 50 (3, 0, 96) = false ∧ s.forum.spills.length < 1024 ∧
     1024 ≤ (List.replicate 1024 (50, otherSlot)).length) := by decide +kernel

theorem witness_BosterInstructions_bfold :
    (let h := handler 2 0 true
     h.pkt.kind < 2 ∧ (slotAtPorter (portS h id) 50 (key h) = none) ∧
     ∀ x ∈ [slotOf h 0 [1] [], slotOf h 0 [] [], slotOf h 0 [] (List.replicate 16 ⟨0, [], []⟩)],
       slotAtPorter (portS h fun q => { q with slots := [x] }) 50 (key h) = some x ∧ (h.pkt.member ∈ x.bmp ↔ x.bmp = [1])) ∧
    ((grp 2 false).nmem = 2 ∧ mAbs (((grp 2 false).members).getD 0 0) = false ∧ mAbs (0x20000 : BitVec 32) = true ∧
      ((slotOf (handler 2 0 true) 0 [] [⟨0, [some 1], [false]⟩]).raw.find? (·.m == 0)).isSome = true) := by decide +kernel

theorem witness_BosterInstructions_results :
    (let h := handler 2 0 true
     let x := slotOf h 2 [] []
     h.sl = true ∧ slotAtPorter (portS h fun q => { q with slots := [x] }) 50 (key h) = some x ∧ x.nxt = h.group.nmem ∧ (grp 2 true).pv = true ∧
       h.group.pv = false ∧ (handler 2 0 false).sl = false) ∧
    ((handler 1 0 false).pkt.kind = 0 ∧ (handler 1 0 false).group.kind = 1 ∧ (handler 3 2 false).pkt.kind = 2 ∧ (handler 3 0 false).group.kind = 3 ∧
      (handler 3 1 false).pkt.kind ≠ 0) ∧
    (let s := State.reset.modPorter 50 fun q => { q with running := true, input := [pkt 0] }
     (s.porter 50).running = true ∧ (s.porter 50).input = [pkt 0] ∧ (s.porter 50).handlers.length < porterContexts 50 ∧
       (State.reset.porter 50).running = false) := by decide +kernel

theorem witness_BosterInstructions_reserved :
    decodeBoster 0x40000000 = .bosterReservedWord 0x40000000 ∧ decodeBoster 1 = .bosterReservedWord 1 ∧
    decodeBoster 0x28000003 = .bosterReservedWord 0x28000003 := by decide +kernel

end Sys2Proof.Tests

namespace Sys2Proof.Tests

set_option Elab.async false

open Sys2Proof Sys2Proof.Machine Sys2Proof.Spec

-- masters and the system windows

/-- Masters 1 and 2 are attached; the ownership is `st` of 1. -/
def hostS (st : Nat) (m : Master) (p : Params) (f : MasterRegs → MasterRegs) : State :=
  { (walked (gang 1)).modForum fun g => { g with
      masters := [MasterRegs.reset, f { MasterRegs.reset with attached := true }, { MasterRegs.reset with attached := true }, MasterRegs.reset], pkgstate := 4,
      ownState := st, owner := 1, ownTgt := 2 } with par := { p with m := m } }

/-- Owner and not owner; a hand-over in flight to 2. -/
theorem witness_HostEvents_ownership :
    (∀ m ∈ [(1 : BitVec 2), 2], ∀ st ∈ [0, 1, 2], ∀ tgt ∈ [(1 : BitVec 2), 2, 3],
      let s := hostS st (.ext m) { tgt := tgt } id
      s.par.m = .ext m ∧ (regsOf s m).attached = true ∧ 3 ≤ s.forum.pkgstate ∧ ((s.forum.ownState ≠ 0 ∧ s.forum.owner = m) ↔ (st ≠ 0 ∧ m = 1)) ∧
      ((s.forum.ownState = 2 ∧ s.forum.ownTgt = m) ↔ (st = 2 ∧ m = 2)) ∧ ((regsOf s s.par.tgt).attached = true ↔ tgt ≠ 3)) ∧
    State.reset.forum.pkgstate < 3 ∧ (hostS 1 (.ext 3) {} id).par.flag = false := by decide +kernel

theorem witness_HostEvents_memory :
    (∀ b ∈ [none, some [(5 : Byte), 6]], ∀ m ∈ [(1 : BitVec 2), 2],
      let s := hostS 1 (.ext m) { addr := 0x5550000, len := 2, bytes := b } id
      s.par.bytes = b ∧ (Machine.regionOf s.par.addr).isSome = true ∧ (Machine.regionOf (s.par.addr + 1)).isSome = true ∧
      s.worldRefuses false s.par.addr = false ∧ s.worldRefuses false (s.par.addr + 1) = false ∧ s.poisoned s.par.addr s.par.len = false) ∧
    (Machine.regionOf (2 ^ 47)).isSome = false := by decide +kernel

/-- The word of a wait: it reads 0. -/
def crierS (m : BitVec 2) (op cnt w : Nat) : State :=
  hostS 1 (.ext m) { v := BitVec.ofNat 64 (op + cnt * 2 ^ 16 + 2 ^ 48) } fun q => { q with crva := 0x20000, crval := BitVec.ofNat 64 w }

theorem witness_HostEvents_crier :
    (∀ w ∈ [0, 1],
      let s := crierS 1 1 0 w
      (regsOf s 1).attached = true ∧ cmdOp s = 1 ∧ 4 ≤ s.forum.pkgstate ∧ s.par.v.extractLsb' 3 13 = 0 ∧ (s.context (cmdCtx s)).world = false ∧
      (∃ l ∈ (match s.lookWalk (cmdCtx s) false .read (wordAt s 1) with | .ok l => some l | _ => none),
        wordAt s 1 % waitBytes s = 0 ∧ l.apt < 2 ∧ s.poisoned (l.phys (wordAt s 1)) (waitBytes s) = false ∧
        (Memory.read s.mem (l.phys (wordAt s 1)) (waitBytes s) = (regsOf s 1).crval.toNat % 2 ^ (8 * waitBytes s) ↔ w = 0)) ∧
      waitsOf s 1 < 1024 ∧ ((s.forum.crier.map fun e => (e.1, e.2.1)).eraseDups).length < 65536) ∧
    (cmdOp (crierS 1 2 5 0) = 2 ∧ cmdOp (crierS 2 2 5 0) = 2 ∧ cmdOp (crierS 1 3 0 0) = 3 ∧ parked (crierS 1 3 0 0) 1 ∉ (crierS 1 3 0 0).forum.crier ∧
      parked (crierS 1 3 0 0) 1 ∈ [parked (crierS 1 3 0 0) 1] ∧ cmdOp (crierS 1 0 0 0) = 0 ∧ ¬ 4 ≤ State.reset.forum.pkgstate) := by decide +kernel

/-- Any number of waits of a master. -/
theorem witness_HostEvents_waits (s : State) (n : Nat) :
    waitsOf { s with forum := { s.forum with crier := List.replicate n (1, 0x4000, .host 1 0) } } 1 = n := by
  simp [waitsOf]

/-- Selectors: each team register; a team of either world. -/
def windowS (m : Master) (n : Nat) (w : Bool) : State :=
  let s := hostS 1 (.host 0 true) {} fun q => q
  { (withTeam s fun t => { t with world := w }).modMaster m fun r => { r with swsel := BitVec.ofNat 64 (n * 2 ^ 25) } with par := { m := m } }

/-- What a host may ask of its link, and what is declined; the registers of the blocks. -/
theorem witness_HostEvents_links :
    (∀ o ∈ [HostOption.pcie 64 16, .pcie 128 8, .cxl 3 2 2, .cxlIo, .logicalDevices 2, .hdm 2 true, .ide false],
      (after (exec .masterLinkUp (hostS 0 (.ext 3) { asked := [o] } id))).map (fun t => (regsOf t 3).attached) = some true) ∧
    (∀ o ∈ [HostOption.pcie 16 16, .cxl 2 0 2, .bifurcation, .logicalDevices 3, .hdm 2 false, .ide true, .other],
      (after (exec .masterLinkUp (hostS 0 (.ext 3) { asked := [o] } id))).map (fun t => (regsOf t 3).attached) = some false) := by decide +kernel

theorem witness_HostEvents_registers :
    ∀ m ∈ [Master.ext 1, .host 3 false], ∀ r ∈ [MasterReg.swsel, .swsts, .portid, .ownsts, .pkgstate, .crsts, .crva],
      let s := { windowS m 0x1E false with par := { m := m, reg := r } }
      s.windowOpen m = true ∧ s.par.reg ≠ .swdata := by decide +kernel

theorem witness_HostEvents_window :
    ∀ m ∈ [Master.ext 1, .ext 2, .host 0 true, .host 3 false],
      ∀ w ∈ [false, true], (windowS m 0x1E w).windowOpen m = true ∧
        let x := Sel.of ((windowS m 0x1E w).master m).swsel
        x.forum = false ∧ x.item = false ∧ x.num = 0x1E ∧ ¬ (0x20 ≤ x.num ∧ x.num ≤ 0x22) ∧ ((windowS m 0x1E w).team? x.core x.slot).isSome = true := by decide +kernel

end Sys2Proof.Tests

namespace Sys2Proof.Tests

set_option Elab.async false

open Sys2Proof Sys2Proof.Machine Sys2Proof.Spec

-- errors, service, invalidation, pre-emption, debugging

def serviceS (f : Fibre → Fibre) (g : Team → Team) (p : Params) : State := { withTeam (withFibres (gang 2) f) g with par := p, uid := 8 }

theorem witness_ServiceEvents_poison :
    let s := { ((gang 1).modCore 0 fun k => { k with l1 := [⟨0x40, 0, 0, [], false⟩] }) with par := { addr := 0x47, flag := true } }
    (s.core s.par.core).sector? (s.par.addr / 32 * 32) = some ⟨0x40, 0, 0, [], false⟩ ∧
    s.par.flag = true := by decide +kernel

theorem witness_ServiceEvents_state :
    (∃ t ∈ (serviceS id id {}).team? 0 0, t.terminating = false ∧ t.preempt = none ∧ t.fibres ≠ [] ∧ ∀ f ∈ t.fibres, f.wait = none ∧ f.region = none) ∧
    (let s := { State.reset.modForum (fun g => { g with clearing := [0] }) with par := { region := none, n := 0 } }
     s.par.n < 64 ∧ s.regionClearing (s.par.region, s.par.n) = true ∧ Memory.wf s.mem = true) ∧
    State.reset.regionClearing (some 0, 0) = false ∧ (∀ d ∈ [0, 7], d < State.reset.dies.length) := by decide +kernel

/-- What a peer may offer; a link that carries a barrier of core 0, and one that does not. -/
theorem witness_ServiceEvents_links :
    (∀ o ∈ [PortOption.speed 1600 8, .linkRetry, .payload 4096, .aesGcm],
      (after (exec .externalPortTraining { State.reset with par := { n := 35, offered := [o] } })).map (fun t => nth false t.forum.portsUp 35) = some true) ∧
    (∀ o ∈ [PortOption.speed 800 8, .payload 4097, .spraying, .semantic],
      (after (exec .externalPortTraining { State.reset with par := { n := 35, offered := [o] } })).map (fun t => nth true t.forum.portsUp 35) = some false) ∧
    ∀ k ∈ [0, 1, 16],
      let s := { State.reset.setClusBar 0 3 ⟨0, 0, [0], [], false, some 1⟩ with par := { lost := [k] } }
      (after (exec .meshLinkFailure s)).map (fun t => (t.clusBar 0 3).loss) = some (k != 1) := by decide +kernel

theorem witness_ServiceEvents_invalidation :
    quiet { State.reset with invPending := [(0, 0, none, none)] } ∧ ({ State.reset with invPending := [(0, 0, none, none)] } : State).invPending = [(0, 0, none, none)] :=
  ⟨⟨rfl, rfl, fun _ => ⟨rfl, rfl, rfl, rfl, rfl, fun _ h => by cases h⟩⟩, rfl⟩

/-- A team that runs, one that is stopped for its pre-emption, and the moments before and at the end of the wait (R293). -/
theorem witness_ServiceEvents_preemption :
    (∀ n ∈ [19999, 20000],
      let s := (serviceS id (fun t => { t with preempt := some (0, false) }) {}).modDie 0 fun d => { d with cycle := n }
      (∃ t ∈ s.team? 0 0, t.preempt = some (0, false)) ∧ (∃ f ∈ s.fibre? 0 0 s.par.fid, f.run = .running ∧ f.wait = none ∧ f.logWait = 0) ∧ s.now 0 = n) ∧
    (let k := (serviceS id id {}).core 0
     k.eqmx = [] ∧ k.eqcp = [] ∧ k.eqgx = [] ∧ ∀ u ∈ k.teams, ∀ f ∈ u.fibres, f.wait = none ∧ f.region = none ∧ f.logWait = 0) ∧
    (let s := serviceS (fun f => { f with run := .stopped }) (fun t => { t with preempt := some (0, false) }) {}
     ∃ t ∈ s.team? 0 0, t.slot = s.par.slot ∧ t.preempt = some (0, false) ∧ t.fibres ≠ [] ∧ s.saveReady 0 t = true) := by decide +kernel

/-- A saved team of one fibre. -/
def savedTeam : SavedTeam :=
  let s := withTeam (gang 1) fun t => { t with launch := 9, spadSize := 0, fibres := t.fibres.map fun f => { f with run := .stopped } }
  (s.saveTeam 0 ((s.team? 0 0).getD Team.blank) false).1

def restoreS (full : Bool) : State :=
  { State.reset with
    cores := [(0, { Core.reset with teams := if full then (List.range 16).map fun n => { team 0 with slot := n } else [] })]
    launches := [launch9], saved := [savedTeam], par := { n := savedTeam.id } }

theorem witness_ServiceEvents_restore :
    ∀ full ∈ [false, true], (restoreS full).saved.find? (fun y => y.id == (restoreS full).par.n && !y.inMemory) = some savedTeam ∧
      (restoreS full).restoreFits 0 savedTeam savedTeam.image = !full := by decide +kernel

/-- Fibres that run, are halted or held, under a debugger. -/
theorem witness_ServiceEvents_debugging :
    (∀ r ∈ [RunState.running, .halted, .held (some 1), .held none],
      let s := serviceS (fun f => { f with run := r }) (fun t => { t with dbg := { t.dbg with ctl := 1 } }) {}
      ∃ t ∈ s.team? 0 0, t.dbg.ctl.getLsbD 0 = true ∧ t.preempt = none ∧ (t.fibres.map (·.fid)).Nodup ∧ (t.fibre? 0).isSome = true ∧
        ∀ f ∈ t.fibres, f.run = r) ∧
    (∃ t ∈ (serviceS id id {}).team? 0 0, t.dbg.ctl.getLsbD 0 = false) ∧ (State.reset.team? 0 0).isNone = true := by decide +kernel

end Sys2Proof.Tests

namespace Sys2Proof.Tests

set_option Elab.async false

open Sys2Proof Sys2Proof.Machine Sys2Proof.Spec

-- the Forum

/-- Page tables with a pinned page of 512 MiB at 0x20000000, in which stand: a graph image of a completion and a copy (R442), at +0x2000 a round's
descriptor (R446), and at +0x1000000 the group table (R414): group 3 multicasts from port 5 of this package at home 50. -/
def collMem : List Host.Cell :=
  tables.take 3 ++ [(0xC0003, 13), (0xC0008, 19), (0xC0009, 148), (0xC000B, 64)] ++ tables.drop 4 ++
    [(0x40000000, 2), (0x40000002, 1), (0x40000040, 8), (0x40000061, 3), (0x40000080, 8), (0x400000A1, 2), (0x400000A8, 32), (0x400000B2, 2), (0x400000BA, 3),
      (0x40002000, 1), (0x40002002, 1), (0x40002004, 5), (0x40002040, 3), (0x40002041, 0x70), (0x40002044, 1), (0x40002049, 0x30), (0x4000204B, 0x40),
      (0x410000C0, 2), (0x410000C2, 1), (0x410000C6, 1), (0x410000CA, 50), (0x410000DC, 1), (0x41041800, 1), (0x41041805, 0x14)]

def collS (f : Forum → Forum) (p : Params) : State :=
  { (gang 1).modForum fun g => f { g with gtbase := 0x41000000 } with
    mem := collMem, contexts := [⟨1, false, false, 0xA0000⟩], par := { p with m := .host 0 true }, uid := 9 }

/-- The secure master, the owner and another; a porter of either world; a pending invalidation and a stale copy. -/
theorem witness_CollectiveEvents_registers :
    (collS id {}).par.m = .host 0 true ∧ (hostS 1 (.ext 1) {} id).par.m = .ext 1 ∧ (regsOf (hostS 1 (.ext 1) {} id) 1).attached = true ∧
    (hostS 1 (.ext 1) {} id).forum.ownState ≠ 0 ∧ (hostS 1 (.ext 1) {} id).forum.owner = 1 ∧ (hostS 1 (.ext 2) {} id).forum.owner ≠ 2 ∧
    (collS id {}).forum.wmport.getLsbD 50 = false ∧ (collS (fun g => { g with wmport := 1 }) {}).forum.wmport.getLsbD 0 = true ∧
    ((collS id {}).porter 50).running = false ∧ ((collS id {}).porter 50).handlers = [] ∧
    (collS (fun g => { g with gtPending := [none, some 3] }) {}).forum.gtPending = [none, some 3] ∧
    (∀ q ∈ (collS id {}).forum.porters, ∀ h ∈ q.handlers, h.stale = false) := by decide +kernel

/-- A porter at which a packet of each member arrives. -/
def arrivalS (src : Nat) (run : Bool) : State :=
  (collS (fun g => { g with packets := [(4, { pkt 0 with srcPort := src })] }) { id := 4 }).modPorter 50 fun q => { q with running := run }

theorem witness_CollectiveEvents_packets :
    (∀ src ∈ [5, 6], ∀ run ∈ [false, true],
      let s := arrivalS src run
      let p := { pkt 0 with srcPort := src }
      s.par.packet = none ∧ s.forum.packets.find? (fun e => e.1 == s.par.id) = some (4, p) ∧ min (s.readGroup p.grp).home 50 = 50 ∧
      s.packetReady ((s.forum.packets.takeWhile fun e => e.1 != 4).map (·.2)) p = run ∧
      ((without s 4).porterGroup 50 p.grp).1.refuses (s.forum.wmport.getLsbD 50) p = (src == 6)) ∧
    (let e : SBEntry := { entry1 with id := 4 }
     let s := inCore (collS id {}) fun k => { k with sb := [e] }
     (s.coreNums.filterMap fun c => ((s.core c).sb.find? (·.id == 4)).map (c, ·)).head? = some (0, e)) ∧
    (∀ n ∈ [1, 2], ∀ due ∈ [none, some (grp 1 false)],
      let s := collS (fun g => { g with counts := [⟨3, 0, 1, n, 0, 0, due⟩] }) { grp := 3, ver := 0 }
      (s.count s.par.grp s.par.ver) = ⟨3, 0, 1, n, 0, 0, due⟩) := by decide +kernel

/-- A slot of a group that times out, at its porter, and spilled with a packet for it. -/
theorem witness_CollectiveEvents_slots :
    (let x := slotOf (handler 2 0 false) 0 [] []
     let s := (collS id { porter := 50, grp := 3, ver := 0, off := 64 }).modPorter 50 fun q => { q with slots := [x], groups := [(3, { grp 2 false with tmo := 9 })] }
     slotAtPorter s 50 (3, 0, 64) = some x ∧ (s.porterGroup 50 x.grp).1.tmo ≠ 0 ∧ (s.porterGroup 50 x.grp).2.slotHeld 50 (3, 0, 64) = false ∧
       s.forum.spills.length < 1024 ∧ slotAtPorter (collS id {}) 50 (3, 0, 64) = none) ∧
    (∀ bmp ∈ [[], [1]], ∀ kind ∈ [0, 3],
      let x := slotOf (handler 2 0 false) 0 bmp []
      let s := collS (fun g => { g with packets := [(4, pkt kind)], spills := [x] }) { id := 4 }
      s.forum.packets.find? (fun e => e.1 == s.par.id) = some (4, pkt kind) ∧
      s.forum.spills.find? (fun x => (x.grp, x.ver, x.off) == ((pkt kind).grp, (pkt kind).ver, (pkt kind).off)) = some x ∧
      ((pkt kind).member ∈ x.bmp ↔ bmp = [1]) ∧ ((pkt kind).kind = 3 ↔ kind = 3)) := by decide +kernel

/-- A barrier without an owner, and one of owner 5: a reservation of count 3. -/
theorem witness_CollectiveEvents_barriers :
    ∀ own ∈ [none, some 5, some 6],
      let s := (collS id { v := 3 * 2 ^ 32 + 5 * 2 ^ 48 + 7 }).setPkgBar 7 { PkgBar.reset with own := own, exp := 2 }
      (s.pkgBar (barNum s)).own = own ∧ barExp s = 3 ∧ barOwn s = 5 ∧ s.par.m = .host 0 true ∧
      barExp (collS id { v := 7 }) = 0 := by decide +kernel

def chunks : List Chunk := (List.range 2).map fun i => Chunk.parse (Memory.bytes collMem (0x40000040 + 64 * i) 64)
def replay (f : List Nat) (x : List (Nat × Nat)) : Replay := ⟨0x20001000, List.replicate 8 0, f, [], x, [], false⟩
def graph (c : List Chunk) (r : Option Replay) : Graph := ⟨5, 1, 0, c, List.replicate 8 0, r⟩
def graphS (g : Graph) (p : Params) : State := collS (fun f => { f with graphs := [g] }) p

theorem witness_CollectiveEvents_load :
    (let s := collS id { v := 0x40000005 }
     let pa := imageAddr s
     imageSlot s = 5 ∧ imageChunks s = 2 ∧ Memory.read s.mem (pa + 4) 4 = 0 ∧ (∀ i < 48, Memory.get s.mem (pa + 16 + i) = 0) ∧
     (∀ i < imageChunks s, (chunkOf s i).malformed = false) ∧ s.pinnedPhys (imageCtx s) pa (64 + 64 * imageChunks s) = true ∧
     s.worldRefuses (s.context (imageCtx s)).world pa = false ∧ graphAt s 5 = none) ∧
    (let s := collS id { v := 0x40100005 }
     imageChunks s = 0) := by decide +kernel

theorem witness_CollectiveEvents_replay :
    (let s := graphS (graph chunks none) { v := 5 + 0x20001000 }
     graphAt s 5 = some (graph chunks none) ∧ (s.par.v.extractLsb' 0 6).toNat = 5 ∧ (s.par.v.extractLsb' 6 50).toNat * 64 = 0x20001000 ∧
     (s.chunkPieces 1 .read 0x20001000 128).toOption.isSome = true ∧ (s.chunkPieces 1 .write 0x20001000 128).toOption.isSome = true ∧
     (s.chunkPieces 1 .read 0x90001000 128).toOption.isNone = true ∧ (graphAt s 6).isNone = true) ∧
    (∀ n ∈ [0, 1],
      let g := graph chunks (some (replay [0, 1] []))
      let s := graphS g { slot := 5, n := n }
      let c := chunks.getD n (Chunk.parse [])
      graphAt s 5 = some g ∧ g.chunks[n]? = some c ∧ c.act = 3 - n ∧
      (match (s.chunkAct 5 n g (replay [0, 1] []) c).2 with | .done => true | _ => false) = true) ∧
    (let c := { chunks.getD 1 (Chunk.parse []) with doff := 0x90000 }
     let g := graph [c] (some (replay [0] []))
     (match ((graphS g {}).chunkAct 5 0 g (replay [0] []) c).2 with | .fails _ => true | _ => false) = true) ∧
    (let r := replay [0] [(0, 3)]
     (∀ i ∈ r.fired, i ∈ r.completed ∨ i ∈ r.failed.map (·.1)) ∧ r.failed ≠ []) := by decide +kernel

/-- A well-laid-out word of each kind, and one with a bit that is not named. -/
theorem witness_CollectiveEvents_words :
    (∀ p ∈ [(0x10000000000003, 1), (0x0, 2), (0x1, 3), (0x4000, 4), (0x5, 5)],
      let w := BitVec.ofNat 64 (p.1 % 2 ^ 52 + p.2 * 2 ^ 60)
      wordKind w = p.2 ∧ wordUnnamed w = 0) ∧
    (wordKind 0x6000000000000000 = 6 ∧ wordUnnamed 0x10000000000000F0 ≠ 0) ∧
    (let w : BitVec 64 := 0x1000000000044003
     let s := collS id {}
     (∃ x ∈ s.allTeams.find? (fun x => frames w 1 x.2), x.1 = 0) ∧ ∀ x ∈ s.allTeams, frames w 2 x.2 = false) ∧
    (let s := (collS id {}).setDieBar 0 0 ⟨4, 4, [], [], false, some 1⟩
     (s.dieBar 0 0).own = some 1) ∧
    (∃ l ∈ (match (collS id {}).lookWalk 1 ((collS id {}).context 1).world .write 0x20000 with | .ok l => some l | _ => none), l.apt < 2) ∧
    (∃ g ∈ graphAt (graphS (graph chunks none) {}) 5, g.ctx = 1) := by decide +kernel

theorem witness_CollectiveEvents_round :
    (let s := collS id { v := 0x40002000 }
     let pa := descAddr s
     s.forum.round = none ∧ pa < 2 ^ 41 ∧ descEntries s = 1 ∧ Memory.read s.mem (pa + 4) 4 ≠ 0 ∧ (∀ i < 40, Memory.get s.mem (pa + 0x18 + i) = 0) ∧
     (roundEntry s pa 0).2 = true ∧ (∀ x ∈ (proposed s).ents, x.pkg ≠ s.forum.pkg.toNat)) ∧
    (descEntries (collS id { v := 0x40003000 }) = 0) ∧
    (∀ ver ∈ [1, 2],
      let s := collS id { bytes := some (List.replicate 8 0), src := 7, grp := 3, ver := ver }
      s.par.bytes.isSome = true ∧ s.par.src ≠ s.forum.pkg.toNat ∧ (s.readGroup s.par.grp).unusable = false ∧
      (((s.readGroup s.par.grp).ver + 1) % 2 ^ 16 = s.par.ver ↔ ver = 1)) ∧
    (let x : Machine.Part := ⟨7, 3, 1, [1, 0x1400], false⟩
     let s := collS (fun g => { g with parts := [x] }) { grp := 3 }
     s.forum.parts.find? (fun x => x.grp == s.par.grp) = some x ∧ (∀ h ∈ (s.porter 50).handlers, h.pkt.grp ≠ s.par.grp) ∧
       x.src ≠ (s.abortOld (s.readGroup 3) s.par.grp).2.forum.pkg.toNat ∧ (s.count s.par.grp (s.readGroup 3).ver).n = 0) := by decide +kernel

def roundOf (pkg : Nat) (st : List RoundSt) (d : Option Bool) : Round := ⟨0x40002000, 1, 5, 0, st.map fun x => ⟨3, pkg, 2, [1, 0x1400], x⟩, d⟩

theorem witness_CollectiveEvents_decision :
    (let r := roundOf 7 [.refused] none
     let s := collS (fun g => { g with round := some r }) {}
     s.forum.round = some r ∧ r.decided = none ∧ (∃ e ∈ r.ents, e.st = .refused) ∧ ∀ e ∈ r.ents, e.pkg ≠ s.forum.pkg.toNat) ∧
    (let r := roundOf 7 [.ready 0] none
     (∀ e ∈ r.ents, e.st ≠ .refused) ∧ ∃ e ∈ decision r, e.st ≠ .dropped) ∧
    (∀ pkg ∈ [0, 7], ∀ st ∈ [[RoundSt.ready 0], [.ready 0, .ready 1]],
      let r := roundOf pkg st (some true)
      let s := collS (fun g => { g with round := some r }) { k := 0, n := 0 }
      s.par.k = 0 ∧ s.forum.round = some r ∧ ∃ x ∈ r.ents[s.par.n]?, x.st = .ready 0 ∧ (x.pkg = s.forum.pkg.toNat ↔ pkg = 0) ∧
        (((r.ents.set s.par.n { x with st := .committed 0 }).all fun y => match y.st with | .committed _ | .dropped => true | _ => false) = true ↔ st.length = 1) ∧
        x.grp < 4096 ∧ x.members.length ≤ 512 ∧ r.newver < 2 ^ 16 ∧ Memory.wf s.mem = true) ∧
    (let x : Machine.Part := ⟨7, 3, 1, [1, 0x1400], true⟩
     let s := collS (fun g => { g with parts := [x] }) { k := 1, grp := 3, src := 7, bytes := some (List.replicate 8 0) }
     s.par.k = 1 ∧ s.forum.parts.find? (fun y => y.src == s.par.src && y.grp == s.par.grp) = some x ∧ s.par.bytes.isSome = true) := by decide +kernel

end Sys2Proof.Tests

namespace Sys2Proof.Tests

set_option Elab.async false

open Sys2Proof Sys2Proof.Machine Sys2Proof.Spec

-- the fabric

/-- One request is outstanding on plane `pl`. -/
def outOf (w : RemoteFor) (pl : Nat) : RemoteOut := ⟨4, 7, 0x100, pl, none, w⟩

def farLoad : Load := ⟨3, 0, 0, 8, 0x20000, leaf 0x5550000 2 1, none, none⟩

def fabS (f : Forum → Forum) (p : Params) : State := { (gang 1).modForum f with par := p, uid := 9 }

theorem witness_FabricEvents_planes :
    (∀ d ∈ [0, 1], ∀ p ∈ [3, 4],
      let s := fabS (fun g => { g with plDead := BitVec.ofNat 4 d }) { m := .host 0 true, v := 0xE4, n := p }
      s.par.m = .host 0 true ∧ (s.par.n < 4 ↔ p = 3) ∧ s.forum.plDead.getLsbD 3 = false ∧ s.forum.out = [] ∧ s.forum.closing = [] ∧
      ((∃ q ∈ List.range 4, s.forum.plDead.getLsbD (planeFor (s.par.v.extractLsb' 0 8) q) = true) ↔ d = 1)) ∧
    (heir (fabS id {}) 3 = some 0 ∧ heir (fabS (fun g => { g with plDead := 7 }) {}) 3 = none) ∧
    (let s := fabS (fun g => { g with out := [outOf (.load 0 farLoad) 2] }) { n := 2 }
     s.par.n < 4 ∧ s.forum.plDead.getLsbD 2 = false ∧ ∀ o ∈ s.forum.out, o.plane = 2 ∧ o.what = .load 0 farLoad) ∧
    (let s := withFibres (fabS (fun g => { g with out := [outOf (.prepare 0 0 0) 2] }) { n := 2 }) fun f => { f with region := some (region []) }
     (∀ x ∈ s.forum.out, x.plane = s.par.n ∧ x.what = .prepare 0 0 0) ∧ ∃ f ∈ s.fibre? 0 0 0, ∃ r ∈ f.region, r.applying = false) ∧
    (let s := fabS (fun g => { g with out := [outOf (.load 0 farLoad) 2], closing := [(2, [7])] }) { n := 2, pkg := 7, performed := [(4, .data 5)] }
     s.forum.closing.find? (fun x => x.2.contains s.par.pkg) = some (2, [7]) ∧
       s.forum.out.find? (fun o => o.id == 4 && o.plane == 2 && o.pkg == s.par.pkg) = some (outOf (.load 0 farLoad) 2) ∧
       (outOf (.load 0 farLoad) 2).what.takes (.data 5) = true) ∧
    (let s := fabS (fun g => { g with closing := [(2, [])] }) {}
     s.forum.closing.find? (fun x => x.1 == 2) = some (2, []) ∧ heir s 2 = some 3) := by decide +kernel

theorem witness_FabricEvents_answers :
    ((fabS id { id := 4 }).forum.out.find? (fun o => o.id == 4) = none) ∧
    (∀ ans ∈ [RemoteAns.data 5, .ready],
      let s := fabS (fun g => { g with out := [outOf (.load 0 farLoad) 2] }) { id := 4, ans := ans }
      s.forum.out.find? (fun o => o.id == s.par.id) = some (outOf (.load 0 farLoad) 2) ∧ s.forum.plDead.getLsbD 2 = false ∧
      ((outOf (.load 0 farLoad) 2).what.takes s.par.ans = true ↔ ans = .data 5)) ∧
    (let s := withFibres (gang 1) fun f => { f with wait := some (.remote 3) }
     farLoad.uni = none ∧ farLoad.acq = none ∧
     ∃ f ∈ s.fibre? 0 farLoad.slot farLoad.fid, f.region = none ∧ f.wait = some (.remote farLoad.id) ∧ f.stepping = false ∧ f.rep = none) ∧
    ((((inCore (gang 1) fun k => { k with sb := [entry1] }).core 0).sb.find? (fun x => x.id == entry1.id)) = some entry1) := by decide +kernel

def peer (k : RemoteKind) (so : Option Nat) : RemoteReq := ⟨7, 0, k, so, 0x5550000, 4, 0xF, 9, 0, 3⟩

/-- Window 0 admits all of the first 16 GiB to group 0. -/
def window (f : Forum → Forum) (p : Params) : State :=
  fabS (fun g => f { g with exa := (0 : BitVec 64) :: List.replicate 63 0, exc := (0x3FFFF000F : BitVec 64) :: List.replicate 63 0 }) p

theorem witness_FabricEvents_requests :
    (∀ k ∈ [RemoteKind.load, .store, .atom .add 6, .atom .fadd 0, .atom .fadd 16], ∀ so ∈ [none, some 0],
      let q := peer k so
      let s := window id { req := some q }
      s.par.req = some q ∧ s.forum.reorder = [] ∧ (∀ n ∈ so, n = assocGet 0 s.forum.recvSeq q.src % 2 ^ 16) ∧ s.forum.staging = [] ∧
      s.admission (kindOf q) q.fgrp q.pa q.len = 0 ∧ s.poisoned q.pa q.len = false) ∧
    (fabS id {}).admission 1 0 0x5550000 4 ≠ 0 ∧ assocGet 0 (fabS id {}).forum.recvSeq 7 % 2 ^ 16 ≠ 1 ∧
    (let s := window id { m := .host 0 true, n := 63 }
     s.par.m = .host 0 true ∧ s.par.n < 64) := by decide +kernel

def staged : StagedReq := ⟨7, 0, 2, none, 0x5550000, 4, 0xF, 9⟩

theorem witness_FabricEvents_regions :
    (∀ ready ∈ [false, true],
      let g : Staging := ⟨7, 2, 0, [staged], ready⟩
      let s := window (fun f => { f with staging := [g] }) { src := 7, rgn := 2, staged := some staged }
      stagingOf s s.par.src s.par.rgn = some g ∧ s.forum.staging.length < 2048 ∧ s.admission (stagedKind staged) staged.fgrp staged.pa staged.len = 0 ∧
      stagingOf (window id {}) staged.src staged.rgn = none ∧ (fabS id {}).admission (stagedKind staged) staged.fgrp staged.pa staged.len ≠ 0) ∧
    (∀ o ∈ [RemoteFor.prepare 0 0 0, .apply 0 0 0],
      let r := { region [(7, 64, 3, 4)] with applying := o == .apply 0 0 0 }
      let s := withFibres (gang 1) fun f => { f with region := some r, wait := some (.remote 3) }
      ∃ f ∈ s.fibre? 0 0 0, f.region = some r ∧ f.stepping = false ∧ f.rep = none ∧
        (∀ w ∈ r.staged, w.1 ∈ r.ready ++ [(outOf o 0).pkg] ∧ w.1 ∈ r.applied ++ [(outOf o 0).pkg])) := by decide +kernel

theorem witness_FabricEvents_barriers :
    ∀ fw ∈ [false, true], ∀ parent ∈ [none, some (3, 9)], ∀ cnt ∈ [1, 2],
      let b : PkgBar := { PkgBar.reset with own := some 5, exp := 2, cnt := cnt, parent := parent, forwarded := fw }
      let s := (fabS id { m := .host 0 true, v := BitVec.ofNat 64 (5 * 2 ^ 48 + 7), n := 7 }).setPkgBar 7 b
      s.pkgBar s.par.n = b ∧ (s.pkgBar (barNum s)).own = some (barOwn s) ∧ (b.exp ≤ b.cnt ↔ cnt = 2) ∧ (b.cnt + 1 = b.exp ↔ cnt = 1) ∧
      (∀ p ∈ parent, p.1 ≠ s.forum.pkg.toNat) := by decide +kernel

end Sys2Proof.Tests

namespace Sys2Proof.Tests

set_option Elab.async false

open Sys2Proof Sys2Proof.Machine Sys2Proof.Spec

/-! The statements of the whole machine. -/

/-- A word at the PC of two fibres, which move next. -/
def wordS (sup : Bool) (w : IWord) : State :=
  { repS with mem := Memory.write [] 0x5550000 12 w.toNat, contexts := [⟨1, sup, false, 0⟩], agenda := [.gang 0 0] }

/-- What the first clause of `StepRunsDecoded` asks of a state, with the words that the fetch answers. -/
def fetches (s : State) (w : IWord) (pc : BitVec 56) : Bool :=
  let s0 : State := { s with agenda := [] }
  match (s.core 0).gangs[0]? with
  | none => false
  | some g =>
    let s' := gangTurn s0 0 g
    match s'.team? 0 g.slot with
    | none => false
    | some t =>
      match g.fids.filterMap t.fibre? with
      | [] => false
      | f :: r =>
        ((f :: r).all fun h => h.pendTrap.isNone) && t.preempt.isNone &&
          (t.breakpoint? (if f.rep.isSome then [f.pc, f.pc + 12] else [f.pc])).isNone &&
          decide ((match f.rep with | none => f.pc | some _ => f.pc + 12) = pc) &&
          (match s'.fetch 0 t pc with | .word x u => decide (x = w) && decide (u.contexts = s.contexts) | _ => false)

def sysWord : IWord := encodeFibre (.ctxload ⟨h0, .v 4, .k 2, .v 0, 0, 0, 9⟩)

/-- A word, a word of an unlisted SUB, one with a reserved field, and a privileged word in a user context. -/
theorem witness_StepRunsDecoded_words :
    (decide (((wordS false addWord).core 0).chooseGang 0 0 = 0) && fetches (wordS false addWord) addWord 0x10000 && refuses 0x100 .illegalSub && fetches (wordS false 0x100) 0x100 0x10000 &&
      refuses 0x20000 .reservedField && fetches (wordS false 0x20000) 0x20000 0x10000 && fetches (wordS false sysWord) sysWord 0x10000 &&
      fetches (wordS true sysWord) sysWord 0x10000 && decide (opOf sysWord = 0xFC) && (decode sysWord).isOk) = true := by decide +kernel

/-- The second word of a pair, in the third iteration. -/
def underRep : State :=
  let s := wordS false 0
  { withFibres s fun f => { f with rep := some ⟨5, 1, 0, 0, 0⟩, rc := 2 } with mem := Memory.write [] 0x555000C 12 addWord.toNat }

theorem witness_StepRunsDecoded_repeated :
    (fetches underRep addWord 0x1000C &&
      (match strideWord addWord ⟨5, 1, 0, 0, 0⟩ 2 with | (w, []) => reads w (.add { fr with d := .v 6 }) | _ => false)) = true := by decide +kernel

/-- Of two gangs that are ready, the one that has been so longer, unless it yielded; one whose stall has not passed is not chosen. -/
theorem witness_StepRunsDecoded_choice :
    let k := { (gang 2).core 0 with gangs := [⟨0, [0], 4⟩, ⟨0, [1], 4⟩], teams := [{ team 2 with fibres := [{ fibre 0 with ready := 4 }, { fibre 1 with ready := 3 }] }] }
    k.chooseGang 9 0 = 1 ∧ k.issueCycle 9 = 9 ∧ { k with yielded := some (0, 1) }.chooseGang 9 0 = 0 ∧
    { k with gangs := [⟨0, [0], 4⟩, ⟨0, [1], 12⟩] }.chooseGang 9 1 = 0 := by decide +kernel

theorem witness_StepRunsDecoded_fetch :
    let s := wordS false addWord
    let pc : BitVec 56 := 0x10000 + 65524
    let l : Leaf := { leaf 0x5550000 2 1 with ex := true }
    pc.toNat % 4 = 0 ∧ pc.toNat % 65536 ≤ 65524 ∧ (s.core 0).ifetch = [] ∧
      (match s.look 0 1 (team 2).world .fetch pc.toNat with | .ok x => decide (x = l) | _ => false) = true ∧ l.apt ≠ 4 ∧
      s.hostGone l pc.toNat = false := by decide +kernel

theorem witness_StepRunsDecoded_handler :
    let s := State.reset.withFetchWord 32 0x26000000
    s.agenda = [.porter 0 0] ∧ ((s.porter 0).handlers[0]?).isSome = true ∧
      decodeBoster (sparseGet 0 (s.porter 0).words 0) = .bfold 8 := by decide +kernel

/-- An event of the agenda, an entry of it that is none, and a package with nothing to do. -/
theorem witness_StepRunsDecoded_events :
    (∃ f ∈ (wordS false 0x1D).cur.fids.filterMap (((wordS false 0x1D).fibre? 0 0)), f.fid = 0) ∧
    isEvent .streamerCopyRun = true ∧ isEvent (.nop fr) = false ∧
    State.reset.agenda = [] ∧ State.reset.work = [] ∧ (∀ q ∈ State.reset.forum.porters, q.handlers = []) ∧
    (∀ c, (State.reset.core c).gangs = []) :=
  ⟨by decide +kernel, by decide +kernel, by decide +kernel, by decide +kernel, by decide +kernel, by decide +kernel, fun _ => rfl⟩

theorem witness_DecodeEncode :
    wf (.add fr) = true ∧ encode (.add fr) = .fibre addWord ∧ wf (.bli 10 2) = true ∧ encode (.bli 10 2) = .boster 0x06800002 ∧
    wf .streamerCopyRun = true ∧ encode .streamerCopyRun = .none ∧ reads addWord (.add fr) = true := by decide +kernel

/-- The statements of what every step keeps have a step to speak of: one that runs an instruction, from a memory in its form. -/
theorem witness_StepKeepsMemoryCanonical :
    let s := wordS false addWord
    Memory.wf s.mem = true ∧ (after (step s)).isSome = true := by decide +kernel

theorem witness_StepKeepsCanonical :
    let s := wordS false addWord
    s.canonical = true ∧ (after (step s)).isSome = true := by decide +kernel

/-- The placed word is the next that runs. -/
theorem test_step_placed :
    (match after (step (State.reset.withFetchWord 96 (encodeFibre (.ldi ⟨h0, .v 4, .v 0, .v 0, 7, 0, 8⟩)).toNat)) with
      | some s => (match s.team? 0 0 with | some t => t.fibres.map fun f => (f.pc, f.pend.map fun x => (x.loc, x.val)) | none => [])
      | none => []) = [(0x1000C, [(Loc.v 4, 7)])] := by decide +kernel

theorem test_step_placed_boster :
    (match after (step (State.reset.withFetchWord 32 0x06800002)) with
      | some s => ((s.porter 0).handlers).map fun h => (h.bpc, nth 0 h.g 10)
      | none => []) = [(1, 2)] := by decide +kernel

end Sys2Proof.Tests
end

