-- ==== Sys2Proof/Proofs/NoEffectAndBranches.lean ====
section
/-!
PROOFS. The instructions that change nothing but where their fibres stand: those without an effect (R53, R158, R215) and the
branches (R50, R149).
-/
namespace Sys2Proof.Spec

open Sys2Proof Sys2Proof.Machine

-- addresses and lanes' results

/-- The model's target of format C is R50's: the sum of the exact integers, modulo 2^56. -/
theorem target_eq_relative (x : Ctx) (off : BitVec 32) (s : State) (fid : Nat) : x.target off = relative off x s fid := by
  unfold Ctx.target relative
  rw [BitVec.ofInt_add, BitVec.ofInt_mul, BitVec.ofInt_natCast, BitVec.ofNat_toNat, BitVec.setWidth_eq]
  rfl

/-- What a list with one entry for each key of `l` holds at `k`. -/
theorem assocGet_mapped {α : Type} (d : α) (g : Nat → α) (l : List Nat) (k : Nat) :
    assocGet d (l.map fun a => (a, g a)) k = if k ∈ l then g k else d := by
  induction l with
  | nil => rfl
  | cons a r ih =>
    by_cases h : a = k
    · simp [assocGet, h]
    · simp [assocGet, h, Ne.symm h, ih]

/-- R215: an L2 is not held apart from the homes, so that its prefetch leaves the state as it is. -/
theorem prefetchBody_l2 (f : FM) (x : Ctx) (s : State) : prefetchBody f false x s = (s, []) := by
  unfold prefetchBody
  cases x.team s <;> rfl

-- instructions that leave the state to what follows them

/-- An instruction whose body only says where each fibre goes: with calm lanes, that is all its regular issue comes to. -/
theorem ends_same {i : Instr} {h : Hints} {pre : Ctx → State → Prop} {go : Ctx → State → Fibre → Fibre}
    {body : Ctx → State → State × List (Nat × LaneRes)} {res : Ctx → State → List (Nat × LaneRes)}
    (hexec : ∀ s, exec i s = issue i h noCheck body s) (hbody : ∀ x s, body x s = (s, res x s))
    (hcalm : ∀ x s fid, (assocGet .done (res x s) fid).calm = true)
    (hgo : ∀ x s (f : Fibre), (assocGet .done (res x s) f.fid).go f = go x s f) : Ends i h pre same go := by
  intro s _ hs _
  obtain ⟨_, _, _, _, _, t, ht, hpreempt, hstepping⟩ := State.issues_facts hs
  have hteam : ∀ t', (s.landed i h).team? s.cur.core s.cur.slot = some t' →
      t'.preempt = none ∧ ∀ fid ∈ s.cur.fids, ∀ f, t'.fibre? fid = some f → f.stepping = false := by
    intro t' ht'
    obtain rfl : t = t' := Option.some.inj (ht.symm.trans ht')
    exact ⟨hpreempt, hstepping⟩
  have hissue := issue_calm (chk := noCheck) hs rfl (hbody _ _) (fun fid _ => hcalm _ _ fid) hteam
  simp only [hgo] at hissue
  rw [hexec]
  exact hissue

/-- No lane says anything: the whole gang goes on. -/
theorem ends_on {i : Instr} {h : Hints} {pre : Ctx → State → Prop} {body : Ctx → State → State × List (Nat × LaneRes)}
    (hexec : ∀ s, exec i s = issue i h noCheck body s) (hbody : ∀ x s, body x s = (s, [])) : Ends i h pre same on :=
  ends_same hexec hbody (fun _ _ _ => rfl) fun _ _ _ => rfl

/-- The active lanes jump and the others say nothing: R149's branch. -/
theorem ends_jumping {i : Instr} {h : Hints} {pre : Ctx → State → Prop} {target : Ctx → State → Nat → BitVec 56}
    (hexec : ∀ s, exec i s = issue i h noCheck (fun x s => (s, x.act.map fun fid => (fid, .jump (target x s fid)))) s) :
    Ends i h pre same (jumping target) := by
  refine ends_same hexec (fun _ _ => rfl) (fun x s fid => ?_) fun x s f => ?_
  · rw [assocGet_mapped]
    split <;> rfl
  · rw [assocGet_mapped]
    unfold jumping
    split <;> rfl

-- each instruction

theorem nop_ends (f : FR) : Ends (.nop f) f.h (fun _ _ => True) same on := ends_on (fun _ => rfl) fun _ _ => rfl

theorem yield_ends (f : FR) : Ends (.yield f) f.h (fun _ _ => True) same on := ends_on (fun _ => rfl) fun _ _ => rfl

theorem prfL2_ends (f : FM) : Ends (.prfL2 f) f.h (fun _ _ => True) same on := ends_on (fun _ => rfl) (prefetchBody_l2 f)

theorem bra_ends (f : FC) : Ends (.bra f) f.h (fun _ _ => True) same (jumping (relative f.off)) := by
  refine ends_jumping fun s => ?_
  simp only [← target_eq_relative]
  rfl

theorem brx_ends (f : FR) :
    Ends (.brx f) f.h (fun _ _ => True) same (jumping fun x s fid => (x.rd s fid true f.a).setWidth 56) := by
  refine ends_jumping fun s => ?_
  simp only [BitVec.setWidth_eq_extractLsb' (show 56 ≤ 64 by decide)]
  rfl

/-- Settles O7: every body leaves the state as it is and its lanes are calm, so that a regular issue only moves the gang. -/
theorem noEffectAndBranches : Obligations.NoEffectAndBranches :=
  ⟨⟨nop_ends, yield_ends, prfL2_ends⟩, bra_ends, brx_ends⟩

end Sys2Proof.Spec
end

