-- ==== Sys2Proof/Proofs/HostEvents.lean ====
section
/-!
PROOFS. Ownership of the package, the hosts' links, their accesses to device memory and to the crier table, and the system windows
(R391-R400, R403, R405).
-/
namespace Sys2Proof.Spec

open Sys2Proof Sys2Proof.Machine

section

variable {s : State} {m : BitVec 2}

-- masters and their registers

theorem external_eq_some (h : fromHost s m) : s.external s.par.m = some m := by
  obtain ⟨hm, ha⟩ := h
  rw [hm]
  exact if_pos ha

theorem external_eq_none (h : ∀ m, ¬ fromHost s m) : s.external s.par.m = none := by
  cases hm : s.par.m with
  | host => rfl
  | ext m => exact if_neg fun ha => h m ⟨hm, ha⟩

theorem ownerIs_iff : s.ownerIs m = true ↔ owns s m := by
  simp [State.ownerIs, owns]

theorem ownerIs_eq_false (h : ¬ owns s m) : s.ownerIs m = false := by
  rwa [← Bool.not_eq_true, ownerIs_iff]

/-- Two changes of a master's registers, one after the other. -/
theorem modMaster_modMaster (s : State) (m : Master) (f g : MasterRegs → MasterRegs) :
    (s.modMaster m f).modMaster m g = s.modMaster m (g ∘ f) := by
  cases m <;> simp [State.modMaster, State.modForum, modAt, List.modify_modify_eq]

theorem modMaster_congr (s : State) (m : Master) {f g : MasterRegs → MasterRegs} (h : ∀ r, f r = g r) :
    s.modMaster m f = s.modMaster m g := by
  rw [funext h]

/-- What a master's registers are after a change that keeps a projection of them. -/
theorem master_modMaster {α : Type} (p : MasterRegs → α) (s : State) (m : Master) {f : MasterRegs → MasterRegs} (hf : ∀ r, p (f r) = p r) :
    p ((s.modMaster m f).master m) = p (s.master m) := by
  have key : ∀ (l : List MasterRegs) (n : Nat), p (nth MasterRegs.reset (modAt l n f) n) = p (nth MasterRegs.reset l n) := by
    intro l n
    simp only [nth, modAt, List.getD_eq_getElem?_getD, List.getElem?_modify_eq]
    cases l[n]? with
    | none => rfl
    | some r => exact hf r
  cases m with
  | ext m => exact key _ _
  | host c b => exact key _ _

-- ownership (R396, R397)

theorem ownCommand_reaches {f : BitVec 2 → State → State} (h : fromHost s m) (hp : 3 ≤ s.forum.pkgstate) :
    s.ownCommand f = .next (f m s) := by
  simp [State.ownCommand, external_eq_some h, Nat.not_lt.2 hp]

theorem ownCommand_ignored {f : BitVec 2 → State → State} (h : (∀ m, ¬ fromHost s m) ∨ s.forum.pkgstate < 3) :
    s.ownCommand f = .next s := by
  unfold State.ownCommand
  cases hm : s.external s.par.m with
  | none => rfl
  | some m =>
    obtain h | h := h
    · simp [external_eq_none h] at hm
    · simp [h]

/-- A change of the ownership registers by the owner leaves who owns as it is. -/
theorem owned_of_owns (h : owns s m) (st : Nat) (tgt : BitVec 2) (b : Bool) : owned s m st tgt b = owned s s.forum.owner st tgt b := by
  rw [h.2]

theorem ownClaim_next (h : fromHost s m) (hp : 3 ≤ s.forum.pkgstate) :
    exec .ownClaim s = .next (if s.forum.ownState = 0 then owned s m 1 0 true else s) :=
  ownCommand_reaches h hp

theorem ownHandOver_next (h : fromHost s m) (hp : 3 ≤ s.forum.pkgstate) (ho : owns s m) :
    exec .ownHandOver s = .next (if s.par.tgt = m then owned s m 1 0 false
      else if (regsOf s s.par.tgt).attached then owned s m 2 s.par.tgt false else s) := by
  show execOwnHandOver s = _
  rw [execOwnHandOver, ownCommand_reaches h hp, owned_of_owns ho, owned_of_owns ho]
  simp only [ownerIs_iff.2 ho]
  rfl

theorem ownHandOver_refused (h : fromHost s m) (hp : 3 ≤ s.forum.pkgstate) (ho : ¬ owns s m) : exec .ownHandOver s = .next s := by
  show execOwnHandOver s = _
  rw [execOwnHandOver, ownCommand_reaches h hp]
  simp [ownerIs_eq_false ho]

theorem ownAccept_next (h : fromHost s m) (hp : 3 ≤ s.forum.pkgstate) :
    exec .ownAccept s = .next (if s.forum.ownState = 2 ∧ s.forum.ownTgt = m then owned s m 1 0 true else s) := by
  show execOwnAccept s = _
  rw [execOwnAccept, ownCommand_reaches h hp]
  simp [owned, State.modForum]

theorem ownRelease_next (h : fromHost s m) (hp : 3 ≤ s.forum.pkgstate) (ho : owns s m) :
    exec .ownRelease s = .next (owned s m 0 0 true) := by
  show execOwnRelease s = _
  rw [execOwnRelease, ownCommand_reaches h hp, owned_of_owns ho, if_pos (ownerIs_iff.2 ho)]
  rfl

theorem ownRelease_refused (h : fromHost s m) (hp : 3 ≤ s.forum.pkgstate) (ho : ¬ owns s m) : exec .ownRelease s = .next s := by
  show execOwnRelease s = _
  rw [execOwnRelease, ownCommand_reaches h hp, ownerIs_eq_false ho]
  rfl

theorem ownershipCommand_ignored {i : Instr} (hi : i ∈ [Instr.ownClaim, .ownHandOver, .ownAccept, .ownRelease])
    (h : (∀ m, ¬ fromHost s m) ∨ s.forum.pkgstate < 3) : exec i s = .next s := by
  have ignored := fun f => ownCommand_ignored (f := f) h
  simp only [List.mem_cons, List.not_mem_nil, or_false] at hi
  obtain rfl | rfl | rfl | rfl := hi
  · exact ignored _
  · exact (show exec .ownHandOver s = execOwnHandOver s from rfl).trans (ignored _)
  · exact (show exec .ownAccept s = execOwnAccept s from rfl).trans (ignored _)
  · exact (show exec .ownRelease s = execOwnRelease s from rfl).trans (ignored _)

-- links (R394, R397, R399)

theorem ownerLinkDown_next (h : s.forum.ownState ≠ 0) :
    exec .ownerLinkDown s = .next (owned (unlinked s s.forum.owner) s.forum.owner 0 0 true) := by
  show execOwnerLinkDown s = _
  rw [execOwnerLinkDown, if_neg h]
  rfl

theorem masterLinkDown_next (h : fromHost s m) (ho : ¬ owns s m) : exec .masterLinkDown s = .next (unlinked s m) := by
  show execMasterLinkDown s = _
  simp only [execMasterLinkDown, external_eq_some h, ownerIs_eq_false ho]
  rfl

theorem present_iff (o : HostOption) : Machine.HostOption.present o = true ↔ hosted o := by
  cases o with
  | pcie rate width => simp [Machine.HostOption.present, hosted]; omega
  | cxl major minor device => simp [Machine.HostOption.present, hosted, and_assoc]
  | _ => simp [Machine.HostOption.present, hosted]

theorem masterLinkUp_next (h : s.par.m = .ext m) (hp : 3 ≤ s.forum.pkgstate) (ha : ∀ o ∈ s.par.asked, hosted o) :
    exec .masterLinkUp s = .next (withRegs s m fun q => { q with attached := true }) := by
  have hall : s.par.asked.all Machine.HostOption.present = true := List.all_eq_true.2 fun o ho => (present_iff o).2 (ha o ho)
  show execMasterLinkUp s = _
  simp only [execMasterLinkUp, h, hall, Nat.not_lt.2 hp]
  rfl

theorem masterLinkUp_declined (h : s.par.m = .ext m) (hd : s.forum.pkgstate < 3 ∨ ∃ o ∈ s.par.asked, ¬ hosted o) :
    exec .masterLinkUp s = .next s := by
  show execMasterLinkUp s = _
  simp only [execMasterLinkUp, h]
  refine congrArg _ (if_pos ?_)
  obtain hp | ⟨o, ho, hn⟩ := hd
  · simp [hp]
  · have hall : s.par.asked.all Machine.HostOption.present = false :=
      List.all_eq_false.2 ⟨o, ho, fun h => hn ((present_iff o).1 h)⟩
    simp [hall]

-- CXL.mem (R395, R398, R403, R405)

/-- The bytes of an access lie in regions that the non-secure world may reach, as a test. -/
def reachable (s : State) (pa n : Nat) : Bool :=
  (Machine.regionOf pa).isSome && (Machine.regionOf (pa + (n - 1))).isSome && !s.worldRefuses false pa && !s.worldRefuses false (pa + (n - 1))

theorem reachable_iff (s : State) (pa n : Nat) : reachable s pa n = true ↔ open_ s pa n := by
  simp [reachable, open_, and_assoc]

theorem reachable_eq_false {s : State} {pa n : Nat} (h : ¬ open_ s pa n) : reachable s pa n = false := by
  rwa [← Bool.not_eq_true, reachable_iff]

/-- A read of an attached master. -/
theorem cxlMemRead_next (h : fromHost s m) (hb : s.par.bytes = none) :
    exec .cxlMemAccess s = .next (if !reachable s s.par.addr s.par.len || s.poisoned s.par.addr s.par.len then answered s m none
      else answered s m (some (Memory.bytes s.mem s.par.addr s.par.len))) := by
  show execCxlMemAccess s = _
  cases hlo : Machine.regionOf s.par.addr <;> cases hhi : Machine.regionOf (s.par.addr + (s.par.len - 1)) <;>
    simp [execCxlMemAccess, external_eq_some h, hb, reachable, hlo, hhi] <;> rfl

theorem cxlMemRead_answers (h : fromHost s m) (hb : s.par.bytes = none) (ho : open_ s s.par.addr s.par.len)
    (hp : s.poisoned s.par.addr s.par.len = false) :
    exec .cxlMemAccess s = .next (answered s m (some (Memory.bytes s.mem s.par.addr s.par.len))) := by
  rw [cxlMemRead_next h hb, (reachable_iff ..).2 ho, hp]
  rfl

theorem cxlMemRead_fails (h : fromHost s m) (hb : s.par.bytes = none)
    (hn : ¬ open_ s s.par.addr s.par.len ∨ s.poisoned s.par.addr s.par.len = true) :
    exec .cxlMemAccess s = .next (answered s m none) := by
  rw [cxlMemRead_next h hb]
  refine congrArg _ (if_pos ?_)
  obtain hn | hp := hn
  · rw [reachable_eq_false hn]
    rfl
  · rw [hp, Bool.or_true]

/-- A write of the owner. -/
theorem cxlMemWrite_owner {b : List Byte} (h : fromHost s m) (hb : s.par.bytes = some b) (ho : owns s m) :
    exec .cxlMemAccess s = .next (if reachable s s.par.addr b.length then answered (s.homeWrite s.par.addr b.length (leNat b)) m (some [])
      else answered s m none) := by
  show execCxlMemAccess s = _
  cases hlo : Machine.regionOf s.par.addr <;> cases hhi : Machine.regionOf (s.par.addr + (b.length - 1)) <;>
    simp [execCxlMemAccess, external_eq_some h, hb, ownerIs_iff.2 ho, reachable, hlo, hhi] <;> rfl

theorem answer_answered (h : fromHost s m) (a : Option (List Byte)) : (regsOf (answered s m a) m).answer = a := by
  have hlen : m.toNat < s.forum.masters.length := by
    refine Nat.lt_of_not_le fun hn => ?_
    have hreset : regsOf s m = MasterRegs.reset := by
      rw [regsOf, List.getD_eq_getElem?_getD, List.getElem?_eq_none hn, Option.getD_none]
    have hatt := h.2
    rw [hreset] at hatt
    exact Bool.false_ne_true hatt
  simp [answered, regsOf, withRegs, List.getD_eq_getElem?_getD, hlen]

/-- A write of another master is refused and counted (R398). -/
theorem cxlMemWrite_refused {b : List Byte} (h : fromHost s m) (hb : s.par.bytes = some b) (ho : ¬ owns s m) :
    exec .cxlMemAccess s = .next ((answered s m none).modForum fun g =>
      { g with refusedHost := if g.refusedHost = 0xFFFFFFFF then g.refusedHost else g.refusedHost + 1 }) := by
  show execCxlMemAccess s = _
  simp only [execCxlMemAccess, external_eq_some h, hb, ownerIs_eq_false ho]
  rfl

theorem toNat_saturating_succ (x : BitVec 32) :
    (if x = 0xFFFFFFFF then x else x + 1).toNat = min (x.toNat + 1) 0xFFFFFFFF := by
  split
  · next h => subst h; rfl
  · next h =>
    have hlt := x.isLt
    have hne : x.toNat ≠ 0xFFFFFFFF := fun e => h (BitVec.eq_of_toNat_eq e)
    rw [BitVec.toNat_add]
    simp
    omega

-- crier commands (R399)

/-- The table's test of a command (R399): the package is not in service, a reserved bit is set, `OP` is 0, or the key is secure. -/
def declines (s : State) : Bool :=
  s.forum.pkgstate < 4 || s.par.v.extractLsb' 3 13 != 0 || cmdOp s = 0 || (s.context (cmdCtx s)).world

theorem declines_eq_false_iff (s : State) : declines s = false ↔ served s ∧ cmdOp s ≠ 0 := by
  simp only [declines, served, Bool.or_eq_false_iff, decide_eq_false_iff_not, Nat.not_lt, bne_eq_false_iff_eq]
  exact ⟨fun ⟨⟨⟨hp, hr⟩, h0⟩, hw⟩ => ⟨⟨hp, hr, hw⟩, h0⟩, fun ⟨⟨hp, hr, hw⟩, h0⟩ => ⟨⟨⟨hp, hr⟩, h0⟩, hw⟩⟩

/-- A command with the event's `OP`, or with none, is refused with status 3 or performed for the key of its word. -/
theorem crierCommand_next {op : Nat} {f : BitVec 2 → BitVec 64 → Nat × Nat → State → State} (h : fromHost s m)
    (hop : cmdOp s = op ∨ cmdOp s = 0) :
    s.crierCommand op f =
      .next (if declines s then crsts s m none 3 else f m s.par.v (cmdCtx s, wordAt s m / 8 % 2 ^ 53) s) := by
  have hother : ¬ (decide (cmdOp s ≠ 0) && decide (cmdOp s ≠ op)) = true := by
    rw [Bool.and_eq_true, decide_eq_true_eq, decide_eq_true_eq]
    omega
  unfold State.crierCommand
  rw [external_eq_some h]
  exact if_neg hother

theorem crierCommand_served {op : Nat} {f : BitVec 2 → BitVec 64 → Nat × Nat → State → State} (h : fromHost s m) (hop : cmdOp s = op)
    (h0 : op ≠ 0) (hs : served s) :
    s.crierCommand op f = .next (f m s.par.v (cmdCtx s, wordAt s m / 8 % 2 ^ 53) s) := by
  rw [crierCommand_next h (.inl hop), (declines_eq_false_iff s).2 ⟨hs, hop ▸ h0⟩]
  rfl

theorem crierCommand_refused {op : Nat} {f : BitVec 2 → BitVec 64 → Nat × Nat → State → State} (h : fromHost s m)
    (hop : cmdOp s = op ∨ cmdOp s = 0) (hr : ¬ served s ∨ cmdOp s = 0) : s.crierCommand op f = .next (crsts s m none 3) := by
  have hd : declines s ≠ false := fun hn => by
    obtain ⟨hs, h0⟩ := (declines_eq_false_iff s).1 hn
    exact hr.elim (· hs) h0
  rw [crierCommand_next h hop, if_pos (eq_true_of_ne_false hd)]

theorem waitersOf_eq_waitersAt (s : State) (ctx va : Nat) : s.waitersOf (ctx, va / 8 % 2 ^ 53) = State.waitersAt s ctx va := rfl

theorem crierFull_iff (s : State) (ctx va : Nat) : s.crierFull (ctx, va / 8 % 2 ^ 53) = true ↔ tableFull s ctx va := by
  rw [State.crierFull, waitersOf_eq_waitersAt, Bool.and_eq_true, List.isEmpty_iff, decide_eq_true_iff, tableFull]

/-- The status of a wait that may be made: by its word, then by the room at the table. -/
theorem crierWait_next {l : Leaf} (h : mayWait s m l) :
    exec .crierWait s = .next (
      if Memory.read s.mem (l.phys (wordAt s m)) (waitBytes s) ≠ (regsOf s m).crval.toNat % 2 ^ (8 * waitBytes s) then crsts s m none 1
      else if s.crierFull (cmdCtx s, wordAt s m / 8 % 2 ^ 53) || 1024 ≤ waitsOf s m then crsts s m none 2
      else crsts { s with forum := { s.forum with crier := s.forum.crier ++ [parked s m] } } m none 0) := by
  obtain ⟨hm, hop, hs, hl, hal, hapt, hpo⟩ := h
  show execCrierWait s = _
  rw [execCrierWait, crierCommand_served hm hop Nat.one_ne_zero hs]
  have hlook : s.lookWalk (cmdCtx s) false .read (s.master (.ext m)).crva.toNat = .ok l := hl
  simp only [hlook]
  have hbad : ¬ ((wordAt s m % waitBytes s ≠ 0 || 2 ≤ l.apt || s.poisoned (l.phys (wordAt s m)) (waitBytes s)) = true) := by
    simp [hal, hpo, hapt]
  refine congrArg _ ((if_neg hbad).trans (ite_congr rfl (fun _ => rfl) fun _ => ite_congr ?_ (fun _ => rfl) fun _ => rfl))
  refine congrArg (fun n => (s.crierFull (cmdCtx s, wordAt s m / 8 % 2 ^ 53) || decide (1024 ≤ n)) = true)
    (congrArg List.length (List.filter_congr fun e _ => ?_))
  cases e.2.2 <;> rfl

theorem crierWait_differs {l : Leaf} (h : mayWait s m l) (hne : ¬ wordIs s m l) : exec .crierWait s = .next (crsts s m none 1) :=
  (crierWait_next h).trans (congrArg _ (if_pos hne))

theorem crierWait_full {l : Leaf} (h : mayWait s m l) (heq : wordIs s m l)
    (hfull : tableFull s (cmdCtx s) (wordAt s m) ∨ 1024 ≤ waitsOf s m) : exec .crierWait s = .next (crsts s m none 2) := by
  refine (crierWait_next h).trans (congrArg _ ((if_neg (not_not_intro heq)).trans (if_pos ?_)))
  rwa [Bool.or_eq_true, crierFull_iff, decide_eq_true_eq]

theorem crierWait_parks {l : Leaf} (h : mayWait s m l) (heq : wordIs s m l) (hroom : ¬ tableFull s (cmdCtx s) (wordAt s m))
    (hwaits : waitsOf s m < 1024) :
    exec .crierWait s = .next (crsts { s with forum := { s.forum with crier := s.forum.crier ++ [parked s m] } } m none 0) := by
  refine (crierWait_next h).trans (congrArg _ ((if_neg (not_not_intro heq)).trans (if_neg ?_)))
  rw [Bool.or_eq_true, crierFull_iff, decide_eq_true_eq]
  exact not_or.2 ⟨hroom, Nat.not_le.2 hwaits⟩

/-- A count of all ones wakes every waiter. -/
theorem take_waitersOf_eq_woken (s : State) (ctx va n : Nat) :
    (s.waitersOf (ctx, va / 8 % 2 ^ 53)).take (if n = 0xFFFFFFFF then (s.waitersOf (ctx, va / 8 % 2 ^ 53)).length else n) =
      woken s ctx va n := by
  rw [waitersOf_eq_waitersAt, woken]
  split
  · exact List.take_length
  · rfl

theorem crierWake_owner (h : fromHost s m) (hop : cmdOp s = 2) (hs : served s) (ho : owns s m) :
    exec .crierWake s = .next (crsts (State.wake s (cmdCtx s) (wordAt s m) (s.par.v.extractLsb' 16 32).toNat) m
      (some (woken s (cmdCtx s) (wordAt s m) (s.par.v.extractLsb' 16 32).toNat).length) 0) := by
  show execCrierWake s = _
  rw [execCrierWake, crierCommand_served h hop (by decide) hs]
  simp only [ownerIs_iff.2 ho, State.crierWake, take_waitersOf_eq_woken]
  rfl

theorem crierWake_refused (h : fromHost s m) (hop : cmdOp s = 2) (hs : served s) (ho : ¬ owns s m) :
    exec .crierWake s = .next (crsts s m none 3) := by
  show execCrierWake s = _
  rw [execCrierWake, crierCommand_served h hop (by decide) hs, ownerIs_eq_false ho]
  rfl

theorem crierWithdraw_next (h : fromHost s m) (hop : cmdOp s = 3) (hs : served s) :
    exec .crierWithdraw s = .next (crsts (if s.forum.crier.contains (parked s m) then
      ({ s with forum := { s.forum with crier := s.forum.crier.erase (parked s m) } } : State).notify m (regsOf s m).crnote 3 else s) m none 0) := by
  show execCrierWithdraw s = _
  rw [execCrierWithdraw, crierCommand_served h hop (by decide) hs]
  rfl

theorem crierCommands_refused {i : Instr} {n : Nat} (hi : (i, n) ∈ [(Instr.crierWait, 1), (.crierWake, 2), (.crierWithdraw, 3)])
    (h : fromHost s m) (hop : cmdOp s = n ∨ cmdOp s = 0) (hr : ¬ served s ∨ cmdOp s = 0) : exec i s = .next (crsts s m none 3) := by
  simp only [List.mem_cons, Prod.mk.injEq, List.not_mem_nil, or_false] at hi
  obtain ⟨rfl, rfl⟩ | ⟨rfl, rfl⟩ | ⟨rfl, rfl⟩ := hi
  · show execCrierWait s = _
    exact crierCommand_refused h hop hr
  · show execCrierWake s = _
    exact crierCommand_refused h hop hr
  · show execCrierWithdraw s = _
    exact crierCommand_refused h hop hr

end

-- team registers (R278, R279, R299)

theorem readTeamReg_eq (s : State) (t : Team) (n : Nat) : s.readTeamReg t n = teamRegister s t n := by
  have h1 : n ≤ 0x13 ↔ n < 0x14 := by omega
  have h2 : n ≤ 0x17 ↔ n < 0x18 := by omega
  have h3 : n ≤ 0x1B ↔ n < 0x1C := by omega
  simp only [State.readTeamReg, teamRegister, Bool.and_eq_true, decide_eq_true_eq, h1, h2, h3]
  rfl

theorem assocPut_assocGet {α : Type} {d : α} {l : List (Nat × α)} {k : Nat} (h : assocGet d l k ≠ d) :
    assocPut l k (assocGet d l k) = l := by
  induction l with
  | nil => exact absurd rfl h
  | cons x r ih =>
    obtain ⟨a, v⟩ := x
    by_cases hk : a = k
    · simp [assocGet, assocPut, hk]
    · simp only [assocGet, if_neg hk] at h
      simp [assocGet, assocPut, hk, ih h]

/-- A change of a resident team that leaves it as it is. -/
theorem modTeam_id {s : State} {c slot : Nat} {t : Team} (ht : s.team? c slot = some t) : s.modTeam c slot (fun t => t) = s := by
  have hne : s.core c ≠ Core.reset := by
    intro h
    rw [State.team?, h] at ht
    cases ht
  have hcore : (s.core c).modTeam slot (fun t => t) = s.core c := by
    simp only [Core.modTeam, modWhere_id (fun _ _ _ => rfl)]
  show s.setCore c ((s.core c).modTeam slot fun t => t) = s
  rw [hcore]
  unfold State.setCore
  rw [State.core, assocPut_assocGet hne]

/-- A write with supervisor privilege of a register that only keeps a value. -/
theorem writeTeamReg_eq {s : State} {c slot n : Nat} {t : Team} (ht : s.team? c slot = some t) (h6 : n ≠ 0x06) (h8 : n ≠ 0x08)
    (h1D : n ≠ 0x1D) (v : BitVec 64) : s.writeTeamReg c slot true n v = s.modTeam c slot (kept true n v) := by
  have h1 : n ≤ 0x13 ↔ n < 0x14 := by omega
  have h2 : n ≤ 0x17 ↔ n < 0x18 := by omega
  have h3 : n ≤ 0x1B ↔ n < 0x1C := by omega
  have hite : ∀ (p : Prop) [Decidable p] (f g : Team → Team), s.modTeam c slot (fun t => if p then f t else g t) =
      if p then s.modTeam c slot f else s.modTeam c slot g := fun p _ f g => by split <;> rfl
  show _ = s.modTeam c slot (fun t => kept true n v t)
  simp only [State.writeTeamReg, ht, h6, h8, h1D, if_false, if_true, Bool.and_eq_true, decide_eq_true_eq, h1, h2, h3, kept, hite, modTeam_id ht,
    Bool.true_eq_false]
  rfl

-- the system window (R400)

theorem dieReg_eq_false {n : Nat} (h : ¬ ofDie n) : dieReg n = false := by
  rw [← Bool.not_eq_true]
  simpa [dieReg, ofDie, or_assoc] using h

section

variable {s : State} {x : Sel} {n : Nat} {t : Team}

theorem windowRead_team (m : Master) (hx : teamSel x n) (ht : s.team? x.core x.slot = some t) :
    s.windowRead m x = if teamOpen m t then some (teamRegister s t n, s.afterTeamRead x.core x.slot n) else none := by
  obtain ⟨hforum, hitem, rfl, hdie, hnum⟩ := hx
  have hworld : worldReg x.num = false := by simp [worldReg]; omega
  have hteam : teamReg x.num = true := by simp [teamReg]; omega
  simp [State.windowRead, hforum, hitem, dieReg_eq_false hdie, hworld, hteam, ht, readTeamReg_eq]

/-- A master that may write through its window: every core of the host complex, and the owner (R398). -/
def mayWrite (s : State) (m : Master) : Prop := ∀ e, m = .ext e → owns s e

theorem windowWrite_team {m : Master} (hm : mayWrite s m) (hx : teamSel x n) (ht : s.team? x.core x.slot = some t) (v : BitVec 64) :
    s.windowWrite m x v = if teamOpen m t then some (s.writeTeamReg x.core x.slot true n v) else none := by
  obtain ⟨hforum, hitem, rfl, hdie, hnum⟩ := hx
  have hworld : worldReg x.num = false := by simp [worldReg]; omega
  have hteam : teamReg x.num = true := by simp [teamReg]; omega
  cases m with
  | ext e => simp [State.windowWrite, ownerIs_iff.2 (hm e rfl), hforum, hitem, dieReg_eq_false hdie, hworld, hteam, ht]
  | host => simp [State.windowWrite, hforum, hitem, dieReg_eq_false hdie, hworld, hteam, ht]

/-- A write of a master that is not the owner is refused before anything is selected (R398). -/
theorem windowWrite_refused {e : BitVec 2} (ho : ¬ owns s e) (v : BitVec 64) : s.windowWrite (.ext e) x v = none := by
  simp [State.windowWrite, ownerIs_eq_false ho]

end

section

variable {s : State}

theorem ownsts_eq (g : Forum) : g.ownsts = ownWord g := by
  unfold Forum.ownsts ownWord
  omega

/-- A read of `SWSTS` clears it; a read of another register changes nothing. -/
theorem readMasterReg_eq (s : State) (m : Master) (reg : MasterReg) :
    s.readMasterReg m reg =
      (blockRegister s m reg, if reg = .swsts then s.modMaster m fun r => { r with swerr := false } else s) := by
  cases m with
  | host => cases reg <;> rfl
  | ext e =>
    cases reg with
    | portid => exact congrArg (·, s) (BitVec.ofNat_toNat 64 e).symm
    | ownsts => exact congrArg (BitVec.ofNat 64 ·, s) (ownsts_eq s.forum)
    | _ => rfl

/-- A read of another register of the block (R395). -/
theorem swdataRead_block (hw : s.windowOpen s.par.m = true) (hr : s.par.reg ≠ .swdata) :
    exec .swdataRead s = .next (s.modMaster s.par.m fun r =>
      { r with swerr := r.swerr && s.par.reg != .swsts, answer := some (leBytes (blockRegister s s.par.m s.par.reg).toNat 8) }) := by
  show execSwdataRead s = _
  simp only [execSwdataRead, hw, readMasterReg_eq]
  refine (if_pos hr).trans (congrArg Host.Outcome.next ?_)
  by_cases hsts : s.par.reg = .swsts
  · rw [if_pos hsts, modMaster_modMaster]
    exact modMaster_congr _ _ fun r => by simp [hsts]
  · rw [if_neg hsts]
    exact modMaster_congr _ _ fun r => by simp [hsts]

/-- What the window of the event's master selects (R400). -/
def windowSel (s : State) : Sel := Sel.of (s.master s.par.m).swsel

theorem teamOpen_iff (m : Master) (t : Team) : teamOpen m t = true ↔ m.isSecure = true ∨ t.world = false := by
  simp [teamOpen]

theorem teamOpen_eq_false {m : Master} {t : Team} (hs : m.isSecure = false) (hw : t.world = true) : teamOpen m t = false := by
  simp [teamOpen, hs, hw]

theorem swdataRead_team {t : Team} {n : Nat} (hw : s.windowOpen s.par.m = true) (hr : s.par.reg = .swdata)
    (hx : teamSel (windowSel s) n) (ht : s.team? (windowSel s).core (windowSel s).slot = some t) :
    exec .swdataRead s = .next (if teamOpen s.par.m t then
        (s.afterTeamRead (windowSel s).core (windowSel s).slot n).modMaster s.par.m fun q => { q with swdata := teamRegister s t n }
      else s.modMaster s.par.m fun q => { q with swdata := 0, swerr := true }) := by
  show execSwdataRead s = _
  have hread := windowRead_team s.par.m hx ht
  obtain ⟨hforum, hitem, -⟩ := hx
  unfold windowSel at hforum hitem hread
  cases hopen : teamOpen s.par.m t <;> simp [execSwdataRead, hw, hr, hforum, hitem, hread, hopen, windowSel]

/-- The state in which a write of `SWDATA` has left its value in the register. -/
def dataWritten (s : State) : State := s.modMaster s.par.m fun r => { r with swdata := s.par.v }

theorem owns_dataWritten (s : State) (e : BitVec 2) : owns (dataWritten s) e ↔ owns s e := by
  cases hm : s.par.m <;> simp [owns, dataWritten, State.modMaster, State.modForum, hm]

/-- A write of `SWDATA`: what the window takes, or `ERR`. -/
theorem swdataWrite_next (hw : s.windowOpen s.par.m = true) :
    exec .swdataWrite s =
      .next (((dataWritten s).windowWrite s.par.m (windowSel s) s.par.v).getD (refusedAt (dataWritten s) s.par.m)) := by
  have hsel : ((dataWritten s).master s.par.m).swsel = (s.master s.par.m).swsel :=
    master_modMaster MasterRegs.swsel s s.par.m fun _ => rfl
  show execSwdataWrite s = _
  rw [windowSel, ← hsel]
  simp only [execSwdataWrite, hw]
  rfl

theorem swdataWrite_team {t : Team} {n : Nat} (hw : s.windowOpen s.par.m = true) (hm : mayWrite s s.par.m)
    (hx : teamSel (windowSel s) n) (ht : s.team? (windowSel s).core (windowSel s).slot = some t) :
    exec .swdataWrite s = .next (if teamOpen s.par.m t
      then (dataWritten s).writeTeamReg (windowSel s).core (windowSel s).slot true n s.par.v
      else refusedAt (dataWritten s) s.par.m) := by
  have hm' : mayWrite (dataWritten s) s.par.m := fun e he => (owns_dataWritten s e).2 (hm e he)
  have ht' : (dataWritten s).team? (windowSel s).core (windowSel s).slot = some t := ht
  rw [swdataWrite_next hw, windowWrite_team hm' hx ht']
  cases teamOpen s.par.m t <;> rfl

/-- A write of a master that is not the owner sets `ERR`, whatever its window selects (R398). -/
theorem swdataWrite_refused {e : BitVec 2} (hw : s.windowOpen s.par.m = true) (he : s.par.m = .ext e) (ho : ¬ owns s e) :
    exec .swdataWrite s = .next (refusedAt (dataWritten s) s.par.m) := by
  have hnone : (dataWritten s).windowWrite s.par.m (windowSel s) s.par.v = none := by
    rw [he]
    exact windowWrite_refused (mt (owns_dataWritten s e).1 ho) _
  rw [swdataWrite_next hw, hnone]
  rfl

/-- A write of a secure team through the window of a master that is not secure sets `ERR`. -/
theorem swdataWrite_secureTeam {t : Team} {n : Nat} (hw : s.windowOpen s.par.m = true) (hx : teamSel (windowSel s) n)
    (ht : s.team? (windowSel s).core (windowSel s).slot = some t) (hclosed : teamOpen s.par.m t = false) :
    exec .swdataWrite s = .next (refusedAt (dataWritten s) s.par.m) := by
  by_cases hm : mayWrite s s.par.m
  · rw [swdataWrite_team hw hm hx ht, hclosed]
    rfl
  · obtain ⟨e, hm⟩ := Classical.not_forall.1 hm
    obtain ⟨he, ho⟩ := Classical.not_imp.1 hm
    exact swdataWrite_refused hw he ho

end

/-- Settles O51: each event answers what the rule gives for the privilege of its master: that of the owner, of another attached master, or of
a core of the host complex. -/
theorem hostEvents : Obligations.HostEvents := by
  refine ⟨fun s m h hp => ⟨ownClaim_next h hp, ?handOverToSelf, ?handOver, ?handOverToDetached, ownHandOver_refused h hp, ?accept,
      ?acceptIgnored, ownRelease_next h hp, ownRelease_refused h hp⟩,
    fun s i => ownershipCommand_ignored, fun s => ownerLinkDown_next, fun s m => masterLinkDown_next,
    fun s m h => ⟨masterLinkUp_next h, masterLinkUp_declined h⟩,
    fun s m h hb => ⟨cxlMemRead_answers h hb, cxlMemRead_fails h hb⟩,
    fun s m b h hb => ⟨?writeInside, ?writeOutside, ?writeRefused⟩,
    fun s m l => crierWait_differs, fun s m l => crierWait_full, fun s m l => crierWait_parks, fun s m => crierWake_owner,
    fun s m => crierWake_refused, fun s m h hop hs => ⟨?withdraw, ?withdrawNone⟩, fun s m i n => crierCommands_refused,
    fun s hw => ?registerWrite, fun s => swdataRead_block, fun s t n hw hr hx ht hopen => ⟨?teamRead, fun hm h6 h8 h1D => ?teamWrite⟩,
    fun s t n hw hr hx ht hsec hworld => ⟨?secureRead, ?secureWrite⟩, fun s e => swdataWrite_refused⟩
  case handOverToSelf => exact fun ho ht => by rw [ownHandOver_next h hp ho, if_pos ht]
  case handOver => exact fun ho ht ha => by rw [ownHandOver_next h hp ho, if_neg ht, if_pos ha]
  case handOverToDetached => exact fun ho ht ha => by rw [ownHandOver_next h hp ho, if_neg ht, if_neg (Bool.eq_false_iff.1 ha)]
  case accept => exact fun hs ht => by rw [ownAccept_next h hp, if_pos ⟨hs, ht⟩]
  case acceptIgnored => exact fun hn => by rw [ownAccept_next h hp, if_neg hn]
  case writeInside => exact fun ho hr => by rw [cxlMemWrite_owner h hb ho, if_pos ((reachable_iff ..).2 hr)]
  case writeOutside => exact fun ho hr => by rw [cxlMemWrite_owner h hb ho, if_neg (mt (reachable_iff ..).1 hr)]
  case writeRefused =>
    exact fun ho => ⟨_, cxlMemWrite_refused h hb ho, rfl, answer_answered h none, toNat_saturating_succ _⟩
  case withdraw => exact fun hin => by rw [crierWithdraw_next h hop hs, if_pos (List.contains_iff_mem.2 hin)]
  case withdrawNone => exact fun hout => by rw [crierWithdraw_next h hop hs, if_neg (mt List.contains_iff_mem.1 hout)]
  case registerWrite =>
    show execRegisterWrite s = _
    simp only [execRegisterWrite, hw]
    cases s.par.reg <;> cases s.par.m <;> rfl
  case teamRead => exact (swdataRead_team hw hr hx ht).trans (congrArg _ (if_pos ((teamOpen_iff ..).2 hopen)))
  case teamWrite =>
    have hwrite := swdataWrite_team hw hm hx ht
    rw [if_pos ((teamOpen_iff ..).2 hopen)] at hwrite
    exact hwrite.trans (congrArg _ (writeTeamReg_eq (s := dataWritten s) ht h6 h8 h1D _))
  case secureRead =>
    exact (swdataRead_team hw hr hx ht).trans (congrArg _ (if_neg (Bool.eq_false_iff.1 (teamOpen_eq_false hsec hworld))))
  case secureWrite => exact swdataWrite_secureTeam hw hx ht (teamOpen_eq_false hsec hworld)

end Sys2Proof.Spec
end

