-- ==== Sys2Proof/Proofs/BosterInstructions.lean ====
section
/-!
PROOFS. The instructions of a porter's handlers, the fold, the reserved Boster words, and the start of a handler (R412, R420-R426, R428,
R437).
-/
namespace Sys2Proof.Spec

open Sys2Proof Sys2Proof.Machine

-- the model's operations in the words of the statement

@[simp] theorem packetKey_eq_key (h : Handler) : packetKey h.pkt = key h := rfl

@[simp] theorem slotOf_eq_slotAtPorter (s : State) (p : Nat) (k : Nat × Nat × Nat) : s.slotOf p k = slotAtPorter s p k := rfl

@[simp] theorem dropSlot_eq_freed (s : State) (p : Nat) (h : Handler) : s.dropSlot p (key h) = freed s p h := rfl

@[simp] theorem fresh_eq_newSlot (h : Handler) : Slot.fresh h.group h.pkt = newSlot h := rfl

/-- Unfolded on the statement's side: the model's tests on a folded slot keep their form. -/
@[simp] theorem buffered_eq_put (x : Slot) (h : Handler) : buffered x h = x.put h.group h.pkt := rfl

@[simp] theorem countPoison_eq_poisonCounted (s : State) (h : Handler) : s.countPoison h.group h.pkt = poisonCounted s h := rfl

@[simp] theorem next_eq_stepped (h : Handler) : h.next = stepped h := rfl

/-- A write of `g0` is discarded by the model as by R412. -/
@[simp] theorem stepped_set_eq_wrote (h : Handler) (d : BitVec 4) (v : BitVec 64) : stepped (h.set d v) = wrote h d v := by
  unfold Handler.set wrote
  split <;> rfl

theorem done_eq (g : Group) (x : Slot) : x.done g = (x.nxt == g.nmem) := rfl

@[simp] theorem ite_done_eq_flag (g : Group) (x : Slot) : (if x.done g then 1#64 else 0#64) = flag (x.nxt == g.nmem) := rfl

/-- The slot found for a key has that key. -/
theorem key_of_slotAtPorter {s : State} {p : Nat} {k : Nat × Nat × Nat} {x : Slot} (h : slotAtPorter s p k = some x) : x.key = k :=
  eq_of_beq (List.find?_some h :)

theorem modSlot_const (s : State) (p : Nat) (k : Nat × Nat × Nat) (y : Slot) : s.modSlot p k (fun _ => y) =
    s.modPorter p fun q => { q with slots := q.slots.map fun z => if (z.grp, z.ver, z.off) == k then y else z } := rfl

@[simp] theorem setCount_pkg (s : State) (c : CmplCount) : (s.setCount c).forum.pkg = s.forum.pkg := rfl

@[simp] theorem countSector_fst (s : State) (p : Nat) (h : Handler) :
    (s.countSector p h.group h.pkt.grp h.pkt.ver).1 = (s.count h.pkt.grp h.pkt.ver).n + 1 := rfl

@[simp] theorem countSector_snd (s : State) (p : Nat) (h : Handler) :
    (s.countSector p h.group h.pkt.grp h.pkt.ver).2 = countedSector s p h := rfl

theorem modPorter_modPorter (s : State) (p : Nat) (f g : Porter → Porter) : (s.modPorter p f).modPorter p g = s.modPorter p (g ∘ f) := by
  simp [State.modPorter, State.modForum, modAt, List.modify_modify_eq]

theorem porterFault_eq_faulted (s : State) (p idx : Nat) (h : Handler) (err : Nat) : s.porterFault p idx h err = faulted s p idx h err := rfl

theorem handlerStart_eq_taken (g : Group) (k : Packet) : Handler.start g k = taken g k := rfl

-- one turn of a handler

section

variable {s s' : State} {h h' : Handler} {body : Nat → Handler → State → Hand}

theorem boster_go (ht : Turn s h) (hb : body s.curPorter.1 h s = .go h' s') : boster body s =
    .next (s'.modPorter s.curPorter.1 fun q => { q with handlers := q.handlers.set s.curPorter.2 { h' with count := h.count + 1 } }) := by
  simp [boster, ht.1, Nat.not_le.2 ht.2, hb, setAt]

theorem boster_wait (ht : Turn s h) (hb : body s.curPorter.1 h s = .wait) : boster body s =
    .next (s.modPorter s.curPorter.1 fun q => { q with handlers := q.handlers.eraseIdx s.curPorter.2 ++ [h] }) := by
  simp [boster, ht.1, Nat.not_le.2 ht.2, hb]

theorem boster_fault {err : Nat} (ht : Turn s h) (hb : body s.curPorter.1 h s = .fault err) :
    boster body s = .next (faulted s s.curPorter.1 s.curPorter.2 h err) := by
  simp [boster, ht.1, Nat.not_le.2 ht.2, hb, porterFault_eq_faulted]

theorem boster_fin (ht : Turn s h) (hb : body s.curPorter.1 h s = .fin s') : boster body s =
    .next ((s'.modPorter s.curPorter.1 fun q => { q with handlers := q.handlers.eraseIdx s.curPorter.2 }).startHandlers s.curPorter.1) := by
  simp [boster, ht.1, Nat.not_le.2 ht.2, hb, State.endHandler]

/-- R424: the 65th instruction of a handler is a porter fault, whatever it is. -/
theorem boster_exhausted (hh : (s.porter s.curPorter.1).handlers[s.curPorter.2]? = some h) (hc : 64 ≤ h.count) :
    boster body s = .next (faulted s s.curPorter.1 s.curPorter.2 h 4) := by
  simp [boster, hh, hc, porterFault_eq_faulted]

end

section

variable {i : Instr} {body : Nat → Handler → State → Hand} {pre : Nat → Handler → State → Prop}

theorem runs_of_go {eff : Nat → Handler → State → Handler × State} (hexec : ∀ s, exec i s = boster body s)
    (hgo : ∀ p h s, pre p h s → body p h s = .go (eff p h s).1 (eff p h s).2) : Runs i pre eff :=
  fun s h ht hp => (hexec s).trans (boster_go ht (hgo _ h s hp))

theorem faults_of_fault {err : Nat} (hexec : ∀ s, exec i s = boster body s) (hf : ∀ p h s, pre p h s → body p h s = .fault err) :
    Faults i err pre :=
  fun s h ht hp => (hexec s).trans (boster_fault ht (hf _ h s hp))

theorem finishes_of_fin {eff : Nat → Handler → State → State} (hexec : ∀ s, exec i s = boster body s)
    (hfin : ∀ p h s, pre p h s → body p h s = .fin (eff p h s)) : Finishes i pre eff :=
  fun s h ht hp => (hexec s).trans (boster_fin ht (hfin _ h s hp))

theorem yields_of_wait (hexec : ∀ s, exec i s = boster body s) (hw : ∀ p h s, pre p h s → body p h s = .wait) : Yields i pre :=
  fun s h ht hp => (hexec s).trans (boster_wait ht (hw _ h s hp))

end

-- the instructions as the model performs them

theorem exec_bnop (s : State) : exec .bnop s = execBnop s := rfl
theorem exec_bmatch (s : State) : exec .bmatch s = execBmatch s := rfl
theorem exec_bfold (d : BitVec 4) (s : State) : exec (.bfold d) s = execBfold d s := rfl
theorem exec_bfwdRes (s : State) : exec .bfwdRes s = execBfwdRes s := rfl
theorem exec_bfwdUp (s : State) : exec .bfwdUp s = execBfwdUp s := rfl
theorem exec_bfwdRaw (s : State) : exec .bfwdRaw s = execBfwdRaw s := rfl
theorem exec_bmcast (s : State) : exec .bmcast s = execBmcast s := rfl
theorem exec_bgath (s : State) : exec .bgath s = execBgath s := rfl
theorem exec_bcmpl (d : BitVec 4) (s : State) : exec (.bcmpl d) s = execBcmpl d s := rfl
theorem exec_bfree (s : State) : exec .bfree s = execBfree s := rfl
theorem exec_bend (s : State) : exec .bend s = execBend s := rfl
theorem exec_bosterReservedWord (w : BitVec 32) (s : State) : exec (.bosterReservedWord w) s = execBosterReservedWord w s := rfl

-- instructions that compute, and branches (R421)

theorem reg_shiftRight (h : Handler) (a : BitVec 4) (n : Nat) : h.reg a >>> n = BitVec.ofNat 64 ((gpr h a).toNat / 2 ^ n) := by
  rw [show h.reg a = gpr h a from rfl]
  apply BitVec.eq_of_toNat_eq
  rw [BitVec.toNat_ushiftRight, Nat.shiftRight_eq_div_pow, BitVec.toNat_ofNat,
    Nat.mod_eq_of_lt (Nat.lt_of_le_of_lt (Nat.div_le_self _ _) (gpr h a).isLt)]

theorem exec_of_computes {i : Instr} {d : BitVec 4} {v : Handler → BitVec 64} (hi : computes i = some (d, v)) (s : State) :
    exec i s = bosterSet d v s := by
  unfold computes at hi
  split at hi <;> cases hi
  case h_5 => exact congrArg (bosterSet d · s) (funext fun h => reg_shiftRight h _ _)
  all_goals rfl

/-- A branch is the model's, with the statement's condition and distance. -/
theorem exec_of_branches {i : Instr} {c : Handler → Prop} {n : Int} (hi : branches i = some (c, n)) :
    ∃ (t : Handler → Bool) (imm : BitVec 14), (∀ h, t h = true ↔ c h) ∧ n = imm.toInt ∧ ∀ s, exec i s = bosterBranch t imm s := by
  unfold branches at hi
  split at hi <;> cases hi
  case h_1 a b imm => exact ⟨fun h => h.reg a == h.reg b, imm, fun _ => beq_iff_eq, rfl, fun _ => rfl⟩
  case h_2 a b imm => exact ⟨fun h => h.reg a != h.reg b, imm, fun _ => bne_iff_ne, rfl, fun _ => rfl⟩

/-- Every Boster instruction is a turn of the handler. -/
theorem exec_of_isBoster {i : Instr} (hi : isBoster i) : ∃ body, ∀ s, exec i s = boster body s := by
  obtain hc | hb | ⟨d, rfl⟩ | ⟨d, rfl⟩ | ⟨w, rfl⟩ | hm := hi
  · obtain ⟨⟨d, v⟩, hc⟩ := Option.isSome_iff_exists.1 hc
    exact ⟨_, exec_of_computes hc⟩
  · obtain ⟨⟨c, n⟩, hb⟩ := Option.isSome_iff_exists.1 hb
    obtain ⟨t, imm, -, -, he⟩ := exec_of_branches hb
    exact ⟨_, he⟩
  · exact ⟨_, exec_bfold d⟩
  · exact ⟨_, exec_bcmpl d⟩
  · exact ⟨_, exec_bosterReservedWord w⟩
  · simp only [List.mem_cons, List.not_mem_nil, or_false] at hm
    obtain rfl | rfl | rfl | rfl | rfl | rfl | rfl | rfl | rfl := hm
    · exact ⟨_, exec_bnop⟩
    · exact ⟨_, exec_bmatch⟩
    · exact ⟨_, exec_bfwdRes⟩
    · exact ⟨_, exec_bfwdUp⟩
    · exact ⟨_, exec_bfwdRaw⟩
    · exact ⟨_, exec_bmcast⟩
    · exact ⟨_, exec_bgath⟩
    · exact ⟨_, exec_bfree⟩
    · exact ⟨_, exec_bend⟩

-- the fold (R423)

theorem run_absent {g : Group} {x : Slot} (hn : x.nxt < g.nmem) (ha : mAbs (g.members.getD x.nxt 0) = true) (n : Nat) :
    x.run g (n + 1) = Slot.run g n { x with nxt := x.nxt + 1 } := by
  exact (if_neg (Nat.not_le.2 hn)).trans (if_pos ha)

theorem run_present {g : Group} {x : Slot} {r : Raw} (hn : x.nxt < g.nmem) (ha : mAbs (g.members.getD x.nxt 0) = false)
    (hr : x.raw.find? (·.m == x.nxt) = some r) (n : Nat) : x.run g (n + 1) = Slot.run g n { x.fold g r with nxt := x.nxt + 1 } := by
  refine ((if_neg (Nat.not_le.2 hn)).trans (if_neg (Bool.eq_false_iff.1 ha))).trans ?_
  rw [hr]

theorem fold_acc (g : Group) (x : Slot) (r : Raw) {e : Nat} (he : e < min x.acc.length r.vals.length) :
    (x.fold g r).acc[e]? = some (match x.acc.getD e none, r.vals.getD e none with
      | none, v => v
      | some a, none => some a
      | some a, some b => some (g.op a b)) := by
  obtain ⟨ha, hv⟩ := Nat.lt_min.1 he
  have hz : e < (x.acc.zip r.vals).length := by rwa [List.length_zip]
  simp only [Slot.fold, List.getD_eq_getElem?_getD, List.getElem?_map, List.getElem?_eq_getElem ha, List.getElem?_eq_getElem hv,
    List.getElem?_eq_getElem hz, List.getElem_zip, Option.getD_some, Option.map_some]
  cases x.acc[e] <;> cases r.vals[e] <;> rfl

-- slots that are done (R424, R425)

section

variable {s : State} {p : Nat} {h : Handler} {x : Slot}

theorem doneSlot_of_holdsDone (hd : holdsDone x p h s) : s.doneSlot p h = some x := by
  obtain ⟨hsl, hx, hn⟩ := hd
  simp [State.doneSlot, hsl, hx, done_eq, hn]

theorem doneSlot_of_notDone (hd : notDone p h s) : s.doneSlot p h = none := by
  obtain hsl | hx | ⟨x, hx, hn⟩ := hd
  · simp [State.doneSlot, hsl]
  · simp [State.doneSlot, hx]
  · simp [State.doneSlot, hx, done_eq, hn]

/-- The slot given up is that of the handler's key. -/
theorem dropSlot_of_holdsDone (hd : holdsDone x p h s) (r : State) : r.dropSlot p x.key = freed r p h := by
  rw [key_of_slotAtPorter hd.2.1, dropSlot_eq_freed]

end

-- the kinds that `bmcast` and `bgath` take (R425)

theorem not_kinds {h : Handler} {m n : Nat} (hno : h.pkt.kind ≠ m ∨ h.group.kind ≠ n) :
    ¬ (decide (h.pkt.kind = m) && decide (h.group.kind = n)) = true := by
  rw [Bool.and_eq_true, decide_eq_true_eq, decide_eq_true_eq]
  exact fun ⟨hm, hn⟩ => hno.elim (· hm) (· hn)

-- reserved words (R421, R424)

/-- The fields of a Boster word that its `OPC` leaves unused: first bit and length. -/
def unusedFields : Nat → List (Nat × Nat)
  | 0x00 | 0x08 | 0x0B | 0x0C | 0x0E | 0x0F => [(0, 26)]
  | 0x02 | 0x04 => [(0, 14)]
  | 0x03 => [(14, 4)]
  | 0x05 => [(14, 4), (6, 8)]
  | 0x06 | 0x07 => [(22, 4)]
  | 0x09 | 0x0D => [(18, 4), (14, 4), (0, 14)]
  | 0x0A => [(22, 4), (18, 4), (14, 4), (2, 12)]
  | _ => []

/-- The fields cover the statement's mask of unused bits. -/
theorem unusedFields_cover : ∀ opc < 16, ∀ b < 32, (unusedOf opc).getLsbD b = true → ∃ f ∈ unusedFields opc, f.1 ≤ b ∧ b < f.1 + f.2 := by
  decide

theorem getLsbD_of_field_eq_zero {w : BitVec 32} {k n b : Nat} (h : w.extractLsb' k n = 0) (hk : k ≤ b) (hb : b < k + n) :
    w.getLsbD b = false := by
  have hbit := congrArg (BitVec.getLsbD · (b - k)) h
  simpa [show b - k < n by omega, Nat.add_sub_cancel' hk] using hbit

/-- A word whose unused fields are zero has no unused bit set. -/
theorem and_unusedOf_eq_zero {w : BitVec 32} {opc : Nat} (hopc : opc < 16) (hz : ∀ f ∈ unusedFields opc, w.extractLsb' f.1 f.2 = 0) :
    w &&& unusedOf opc = 0 := by
  refine BitVec.eq_of_getLsbD_eq fun b hb => ?_
  rw [BitVec.getLsbD_and]
  cases hm : (unusedOf opc).getLsbD b with
  | false => simp
  | true =>
    obtain ⟨f, hf, hk, hn⟩ := unusedFields_cover opc hopc b hb hm
    simp [getLsbD_of_field_eq_zero (hz f hf) hk hn]

/-- A word that the model does not reserve has a listed `OPC`, its unused fields zero, and no kind 3 of `bfwd`. -/
theorem fields_of_not_bosterReserved {w : BitVec 32} (hw : bosterReserved w = false) :
    let opc := (w.extractLsb' 26 6).toNat
    opc < 16 ∧ (∀ f ∈ unusedFields opc, w.extractLsb' f.1 f.2 = 0) ∧ ¬ (opc = 0xA ∧ w.extractLsb' 0 2 = 3) := by
  unfold bosterReserved at hw
  generalize (w.extractLsb' 26 6).toNat = opc at hw ⊢
  dsimp only at hw ⊢
  split at hw <;> simp_all [unusedFields, BitVec.extractLsb'_extractLsb'_of_le]

theorem decodeBoster_reserved (w : BitVec 32) :
    let opc := (w.extractLsb' 26 6).toNat
    16 ≤ opc ∨ w &&& unusedOf opc ≠ 0 ∨ opc = 0xA ∧ w.extractLsb' 0 2 = 3 → decodeBoster w = .bosterReservedWord w := by
  intro opc hopc
  cases hw : bosterReserved w with
  | true => exact if_pos hw
  | false =>
    obtain ⟨hlt, hz, hkind⟩ := fields_of_not_bosterReserved hw
    obtain hge | hmask | h3 := hopc
    · exact absurd hlt (Nat.not_lt.2 hge)
    · exact absurd (and_unusedOf_eq_zero hlt hz) hmask
    · exact absurd h3 hkind

-- taking a packet (R412, R419)

theorem startHandlers_stopped {s : State} {p : Nat} (hr : (s.porter p).running = false) : s.startHandlers p = s := by
  simp [State.startHandlers, hr]

theorem startHandlers_one {s : State} {p : Nat} {k : Packet} (hr : (s.porter p).running = true) (hi : (s.porter p).input = [k])
    (hc : (s.porter p).handlers.length < porterContexts p) (hk : ∀ h ∈ (s.porter p).handlers, key h ≠ (k.grp, k.ver, k.off)) :
    s.startHandlers p = (s.porterGroup p k.grp).2.modPorter p fun q =>
      { q with input := [], handlers := q.handlers ++ [taken (s.porterGroup p k.grp).1 k] } := by
  have hfree : (s.porter p).handlers.any (fun h => packetKey h.pkt == packetKey k) = false :=
    List.any_eq_false.2 fun h hh => mt eq_of_beq (hk h hh)
  simp only [State.startHandlers, hr, hi, hc, hfree, List.foldl_cons, List.foldl_nil, List.any_nil, decide_true, Bool.not_true, Bool.not_false,
    Bool.and_self, Bool.false_eq_true, if_false, if_true, modPorter_modPorter, Function.comp_def,
    handlerStart_eq_taken]

/-- Settles O50: each body is a turn of the handler, whose tests the clause's premises decide in their order. -/
theorem bosterInstructions : Obligations.BosterInstructions := by
  refine ⟨runs_of_go exec_bnop fun p h s _ => rfl, fun i d v hi => ?computes, fun i c n hi => ?branches,
    fun i s h hi hh hc => ?exhausted, ?matchFault, ?matchHolds, ?matchMarked, ?matchFound, ?matchRoom, fun x r => ?matchSpills,
    fun x r => ?matchWaits, fun d => ⟨?foldFault, ?foldNoSlot, fun x => ?foldDuplicate, fun x => ?foldNew, fun x => ?foldSpills⟩,
    fun g x r n hn => ⟨fun ha => run_absent hn ha n, fun ha hr => ⟨run_present hn ha hr n, fun e he => fold_acc g x r he⟩⟩,
    fun x => ?result, ?resultFault, fun x => ?partialUp, ?partialFault, fun x => ?partialNoParent, ?raw, ?rawFault, ?multicast,
    ?multicastFault, ?gather, ?gatherFault, fun d => ?count, ?free, ?freeFault, finishes_of_fin exec_bend fun _ _ _ _ => rfl,
    fun w => faults_of_fault (exec_bosterReservedWord w) fun _ _ _ _ => rfl, decodeBoster_reserved,
    fun s p => startHandlers_stopped, fun s p k => startHandlers_one⟩
  case computes =>
    exact runs_of_go (exec_of_computes hi) fun p h s _ => by simp
  case branches =>
    obtain ⟨t, imm, ht, rfl, hexec⟩ := exec_of_branches hi
    refine ⟨runs_of_go hexec fun p h s hc => ?_, runs_of_go hexec fun p h s ⟨hc, h0, h1⟩ => ?_, faults_of_fault hexec fun p h s ⟨hc, hout⟩ => ?_⟩
    · simp [mt (ht h).1 hc]
    · simp [(ht h).2 hc, Int.not_lt.2 h0, Int.not_le.2 h1]
    · simp [(ht h).2 hc, hout]
  case exhausted =>
    obtain ⟨body, hexec⟩ := exec_of_isBoster hi
    exact (hexec s).trans (boster_exhausted hh hc)
  case matchFault => exact faults_of_fault exec_bmatch fun p h s hk => by simp [hk]
  case matchHolds => exact faults_of_fault exec_bmatch fun p h s ⟨hk, hg, hsl⟩ => by simp [Nat.not_le.2 hk, hg, hsl]
  case matchMarked => exact finishes_of_fin exec_bmatch fun p h s ⟨hk, hg, hsl, hm⟩ => by simp [Nat.not_le.2 hk, hg, hsl, hm]
  case matchFound =>
    exact runs_of_go exec_bmatch fun p h s ⟨hk, hg, hsl, hm, hx⟩ => by simp [Nat.not_le.2 hk, hg, hsl, hm, hx, withSlot]
  case matchRoom =>
    exact runs_of_go exec_bmatch fun p h s ⟨hk, hg, hsl, hm, hx, hroom⟩ => by simp [Nat.not_le.2 hk, hg, hsl, hm, hx, hroom, withSlot]
  case matchSpills =>
    refine runs_of_go exec_bmatch fun p h s ⟨hk, hg, hsl, hm, hx, hfull, hs, (hheld : s.slotHeld p x.key = false), hspills⟩ => ?_
    have hfull : ¬ r.length + 1 < porterSlots p := by simpa [hs] using hfull
    simp [Nat.not_le.2 hk, hg, hsl, hm, hx, hs, hfull, hheld, hspills, withSlot, State.spillRoom]
  case matchWaits =>
    refine yields_of_wait exec_bmatch fun p h s ⟨hk, hg, hsl, hm, hx, hfull, hs, (hblocked : s.slotHeld p x.key = true ∨ _)⟩ => ?_
    have hfull : ¬ r.length + 1 < porterSlots p := by simpa [hs] using hfull
    simp [Nat.not_le.2 hk, hg, hsl, hm, hx, hs, hfull, hblocked, State.spillRoom]
  case foldFault => exact faults_of_fault (exec_bfold d) fun p h s hk => by simp [hk]
  case foldNoSlot =>
    refine faults_of_fault (exec_bfold d) fun p h s ⟨hk, hno⟩ => ?_
    obtain hsl | hx := hno
    · simp [Nat.not_le.2 hk, hsl]
    · simp [Nat.not_le.2 hk, hx]
  case foldDuplicate =>
    exact runs_of_go (exec_bfold d) fun p h s ⟨hk, hsl, hx, hm⟩ => by simp [Nat.not_le.2 hk, hsl, hx, hm, Porter.countDup, sat16]
  case foldNew =>
    exact runs_of_go (exec_bfold d) fun p h s ⟨hk, hsl, hx, hm, hlen⟩ => by simp [Nat.not_le.2 hk, hsl, hx, hm, Nat.not_le.2 hlen, modSlot_const]
  case foldSpills =>
    exact runs_of_go (exec_bfold d) fun p h s ⟨hk, hsl, hx, hm, hlen, hspills⟩ => by
      simp [Nat.not_le.2 hk, hsl, hx, hm, hlen, hspills, State.spillRoom]
  case result =>
    exact runs_of_go exec_bfwdRes fun p h s hd => by simp [doneSlot_of_holdsDone hd, dropSlot_of_holdsDone hd, withoutSlot]
  case resultFault => exact faults_of_fault exec_bfwdRes fun p h s hd => by simp [doneSlot_of_notDone hd]
  case partialUp =>
    exact runs_of_go exec_bfwdUp fun p h s ⟨hd, hpv⟩ => by simp [doneSlot_of_holdsDone hd, dropSlot_of_holdsDone hd, hpv, withoutSlot]
  case partialFault => exact faults_of_fault exec_bfwdUp fun p h s hd => by simp [doneSlot_of_notDone hd]
  case partialNoParent => exact faults_of_fault exec_bfwdUp fun p h s ⟨hd, hpv⟩ => by simp [doneSlot_of_holdsDone hd, hpv]
  case raw => exact runs_of_go exec_bfwdRaw fun p h s hk => by simp [hk]
  case rawFault => exact faults_of_fault exec_bfwdRaw fun p h s ⟨h0, h2⟩ => by simp [h0, h2]
  case multicast => exact runs_of_go exec_bmcast fun p h s ⟨hk, hg⟩ => by simp [hk, hg]
  case multicastFault => exact faults_of_fault exec_bmcast fun p h s hno => if_neg (not_kinds hno)
  case gather => exact runs_of_go exec_bgath fun p h s ⟨hk, hg⟩ => by simp [hk, hg]
  case gatherFault => exact faults_of_fault exec_bgath fun p h s hno => if_neg (not_kinds hno)
  case count => exact runs_of_go (exec_bcmpl d) fun p h s _ => by simp
  case free => exact runs_of_go exec_bfree fun p h s hsl => by simp [hsl, withoutSlot]
  case freeFault => exact faults_of_fault exec_bfree fun p h s hsl => by simp [hsl]

end Sys2Proof.Spec
end

/-!
PROOFS. The Forum's registers (R416, R429, R430, R438): who may write them, and what the porters' and the package barriers' registers do.
-/
namespace Sys2Proof.Spec

open Sys2Proof Sys2Proof.Machine

section

variable {s : State}

-- who may write

theorem forumWriter_iff (s : State) (m : Master) : s.forumWriter m = true ↔ trusted s m := by
  cases m with
  | host c b => simp [State.forumWriter, trusted, Master.isSecure]
  | ext h => simp [State.forumWriter, trusted, Master.isSecure, ownerIs_iff, State.master, regsOf, nth]

theorem forumWriter_eq_false {m : Master} (h : ¬ trusted s m) : s.forumWriter m = false := by
  rwa [← Bool.not_eq_true, forumWriter_iff]

theorem porterWriter_iff (s : State) (m : Master) (p : Nat) : (decide (p < 51) && s.porterWriter m p) = true ↔ mayLoad s m p := by
  rw [Bool.and_eq_true, decide_eq_true_eq, mayLoad, State.porterWriter, State.porterSecure]
  cases s.forum.wmport.getLsbD p <;> simp [forumWriter_iff]

theorem registerEvent_may {may : Bool} (h : may = true) (r : Option State) :
    s.registerEvent may r = .next (r.getD (refusedAt s s.par.m)) :=
  congrArg _ (if_pos h)

theorem registerEvent_refused {may : Bool} (h : may = false) (r : Option State) : s.registerEvent may r = .next (refusedAt s s.par.m) :=
  congrArg _ (if_neg (Bool.eq_false_iff.1 h))

/-- A write of one of the Forum's registers by a master that may. -/
theorem trusted_writes (h : trusted s s.par.m) (r : Option State) :
    s.registerEvent (s.forumWriter s.par.m) r = .next (r.getD (refusedAt s s.par.m)) :=
  registerEvent_may ((forumWriter_iff s _).2 h) r

theorem forumWrites_refused {i : Instr} (hi : i ∈ forumWrites) (h : ¬ trusted s s.par.m) : exec i s = .next (refusedAt s s.par.m) := by
  have hw := forumWriter_eq_false h
  have refused := fun r => registerEvent_refused (s := s) hw r
  have excWrite : exec .excWrite s = .next (refusedAt s s.par.m) := registerEvent_refused (by rw [hw, Bool.and_false]) _
  have refusedEach : ∀ i ∈ forumWrites, exec i s = .next (refusedAt s s.par.m) := by
    simp only [forumWrites, List.forall_mem_cons]
    exact ⟨refused _, refused _, refused _, refused _, if_neg (Bool.eq_false_iff.1 hw), refused _, refused _, refused _, excWrite,
      refused _, List.forall_mem_nil _⟩
  exact refusedEach i hi

-- a porter's registers (R429, R430)

theorem porterWrites_refused {i : Instr} (hi : i ∈ [Instr.pctlRunStart, .pctlRunStop, .psdataWrite])
    (h : ¬ mayLoad s s.par.m s.par.porter) : exec i s = .next (refusedAt s s.par.m) := by
  have refused := registerEvent_refused (s := s) (Bool.eq_false_iff.2 (mt (porterWriter_iff s _ _).1 h))
  simp only [List.mem_cons, List.not_mem_nil, or_false] at hi
  obtain rfl | rfl | rfl := hi
  all_goals exact refused _

section

variable (h : mayLoad s s.par.m s.par.porter)

include h

/-- A write of a porter's registers by a master that may. -/
theorem porterWrites_next (r : Option State) :
    s.registerEvent (decide (s.par.porter < 51) && s.porterWriter s.par.m s.par.porter) r = .next (r.getD (refusedAt s s.par.m)) :=
  registerEvent_may ((porterWriter_iff s _ _).2 h) r

theorem pctlRunStop_next : exec .pctlRunStop s = .next (s.modPorter s.par.porter fun q => { q with running := false }) :=
  porterWrites_next h _

theorem pctlRunStart_next : exec .pctlRunStart s = .next (s.startPorter s.par.porter) := porterWrites_next h _

theorem psdataWrite_refused (hr : (s.porter s.par.porter).running = true ∨ (s.porter s.par.porter).handlers ≠ []) : exec .psdataWrite s =
    .next (refusedAt (s.modPorter s.par.porter fun q => { q with psaddr := (q.psaddr + 1) % 1024 }) s.par.m) :=
  (porterWrites_next h _).trans (congrArg _ (if_pos (by simpa using hr)))

theorem psdataWrite_next (hr : (s.porter s.par.porter).running = false) (hh : (s.porter s.par.porter).handlers = []) :
    exec .psdataWrite s = .next ((s.modPorter s.par.porter fun q => { q with psaddr := (q.psaddr + 1) % 1024 }).modPorter s.par.porter fun q =>
      { q with words := sparsePut 0 q.words ((s.porter s.par.porter).psaddr % 1024) (s.par.v.extractLsb' 0 32) }) :=
  (porterWrites_next h _).trans (congrArg _ (if_neg (by simp [hr, hh])))

end

-- invalidations of group copies (R416)

@[simp] theorem covers_none (n : Nat) : covers none n := .inl rfl

@[simp] theorem covers_some (g n : Nat) : covers (some g) n ↔ n = g := by
  simp [covers, eq_comm (a := g)]

theorem dropGroups_groups {w : Option Nat} {q : Porter} {x : Nat × Group} (hq : q ∈ (s.dropGroups w).forum.porters) (hx : x ∈ q.groups) :
    ¬ covers w x.1 := by
  obtain ⟨q, -, rfl⟩ := List.mem_map.1 hq
  have hx := (List.mem_filter.1 hx).2
  cases w with
  | none => cases hx
  | some g => simpa using hx

theorem dropGroups_handlers {w : Option Nat} {q : Porter} {h : Handler} (hq : q ∈ (s.dropGroups w).forum.porters) (hh : h ∈ q.handlers)
    (hc : covers w h.pkt.grp) : h.stale = true := by
  obtain ⟨q, -, rfl⟩ := List.mem_map.1 hq
  obtain ⟨h, -, rfl⟩ := List.mem_map.1 hh
  cases w with
  | none => exact Bool.or_true _
  | some g => exact Bool.or_eq_true_iff.2 (.inr (beq_iff_eq.2 ((covers_some g _).1 hc)))

theorem gtinvWrite_next (h : trusted s s.par.m) : ∃ e, exec .gtinvWrite s = .next e ∧ e.mem = s.mem ∧
    e.forum.gtIssued = s.forum.gtIssued + 1 ∧ e.forum.gtPending = s.forum.gtPending ++ [invalidated s.par.v] ∧
    (∀ q ∈ e.forum.porters, ∀ x ∈ q.groups, ¬ covers (invalidated s.par.v) x.1) ∧
    ∀ q ∈ e.forum.porters, ∀ h ∈ q.handlers, covers (invalidated s.par.v) h.pkt.grp → h.stale = true :=
  ⟨s.gtinv s.par.v, trusted_writes h _, rfl, rfl, rfl, fun _ hq _ hx => dropGroups_groups hq hx, fun _ hq _ hh => dropGroups_handlers hq hh⟩

/-- A handler that began with a copy that the invalidation covers has not ended. -/
def staleRuns (s : State) (w : Option Nat) : Prop := ∃ q ∈ s.forum.porters, ∃ h ∈ q.handlers, h.stale = true ∧ covers w h.pkt.grp

/-- The oldest invalidation waits for the handlers it covers. -/
theorem gtInvalidationComplete_next {w : Option Nat} {r : List (Option Nat)} (hp : s.forum.gtPending = w :: r) :
    (staleRuns s w → exec .gtInvalidationComplete s = .next (s.spawn .gtInvalidationComplete {})) ∧
    (¬ staleRuns s w →
      exec .gtInvalidationComplete s = .next (withForum s fun f => { f with gtPending := r, gtDone := f.gtDone + 1 })) := by
  show (_ → execGtInvalidationComplete s = _) ∧ (_ → execGtInvalidationComplete s = _)
  unfold execGtInvalidationComplete
  rw [hp]
  refine ⟨fun h => if_pos ?_, fun h => if_neg (mt (fun ha => ?_) h)⟩
  · cases w <;> simpa [staleRuns] using h
  · cases w <;> simpa [staleRuns] using ha

-- package barriers (R438)

section

variable (ht : trusted s s.par.m)

include ht

theorem pbcfgReserve_uncounted (he : barExp s = 0) : exec .pbcfgReserve s = .next (refusedAt s s.par.m) := by
  refine (trusted_writes ht _).trans ?_
  rw [State.pbReserve]
  exact congrArg (fun r : Option State => Host.Outcome.next (r.getD (refusedAt s s.par.m))) (if_pos he)

theorem pbcfgReserve_foreign {o : Nat} (ho : (s.pkgBar (barNum s)).own = some o) (hne : o ≠ barOwn s) :
    exec .pbcfgReserve s = .next (refusedAt s s.par.m) := by
  refine (trusted_writes ht _).trans ?_
  unfold barNum barOwn at *
  simp only [State.pbReserve, ho, if_neg hne, ite_self, Option.getD_none]

variable (he : barExp s ≠ 0)

include he

theorem pbcfgReserve_free (ho : (s.pkgBar (barNum s)).own = none) : exec .pbcfgReserve s =
    .next (s.setPkgBar (barNum s) ⟨0, 0, barExp s, none, 0, false, some (barOwn s), none, false, []⟩) := by
  refine (trusted_writes ht _).trans ?_
  unfold barNum barOwn barExp at *
  simp only [State.pbReserve, ho, if_neg he, Option.getD_some]
  rfl

theorem pbcfgReserve_own (ho : (s.pkgBar (barNum s)).own = some (barOwn s)) : exec .pbcfgReserve s =
    .next (s.setPkgBar (barNum s) { s.pkgBar (barNum s) with nextExp := some (barExp s) }) := by
  refine (trusted_writes ht _).trans ?_
  unfold barNum barOwn barExp at *
  simp only [State.pbReserve, ho, if_neg he, if_true, Option.getD_some]

end

end

end Sys2Proof.Spec

/-!
PROOFS. Packets at their home porters, the acknowledgements of deliveries, slots that time out and the endpoint of spilled folds
(R418, R426-R428, R437).
-/
namespace Sys2Proof.Spec

open Sys2Proof Sys2Proof.Machine

section

variable {s : State}

-- what a porter's copy of a group leaves as it is

/-- A porter that reads a group's entry changes nothing but its own copies. -/
theorem porterGroup_keeps {α : Type} (f : State → α) (hf : ∀ (s : State) (p : Nat) (g : Porter → Porter), f (s.modPorter p g) = f s)
    (s : State) (p n : Nat) : f (s.porterGroup p n).2 = f s := by
  unfold State.porterGroup
  split
  · rfl
  · exact hf _ _ _

@[simp] theorem porterGroup_spills (s : State) (p n : Nat) : (s.porterGroup p n).2.forum.spills = s.forum.spills :=
  porterGroup_keeps (·.forum.spills) (fun _ _ _ => rfl) s p n

@[simp] theorem porterGroup_porterSecure (s : State) (p n q : Nat) : (s.porterGroup p n).2.porterSecure q = s.porterSecure q :=
  porterGroup_keeps (·.porterSecure q) (fun _ _ _ => rfl) s p n

@[simp] theorem porterGroup_par (s : State) (p n : Nat) : (s.porterGroup p n).2.par = s.par :=
  porterGroup_keeps (·.par) (fun _ _ _ => rfl) s p n

-- the arrival of a packet (R418)

theorem without_eq (s : State) (id : Nat) :
    (s.modForum fun g => { g with packets := g.packets.filter fun e => e.1 != id }) = without s id := rfl

/-- A packet that waits at the Forum under a new number. -/
def entered (s : State) (p : Packet) : State := { withForum s fun g => { g with packets := g.packets ++ [(s.uid, p)] } with uid := s.uid + 1 }

theorem packetArrival_new {p : Packet} (hp : s.par.packet = some p) :
    exec .packetArrival s = .next ((entered s p).spawn .packetArrival { id := s.uid }) := by
  show execPacketArrival s = _
  rw [execPacketArrival, hp]
  rfl

/-- The home porter of a packet's group. -/
def homeOf (s : State) (p : Packet) : Nat := min (s.readGroup p.grp).home 50

/-- The packets that stand before one of them. -/
def waitingBefore (s : State) (id : Nat) : List Packet := (s.forum.packets.takeWhile fun e => e.1 != id).map (·.2)

section

variable {id : Nat} {p : Packet} (hn : s.par.packet = none) (hf : s.forum.packets.find? (fun e => e.1 == s.par.id) = some (id, p))

include hn hf

theorem packetArrival_next : exec .packetArrival s = .next (
    if s.packetReady (waitingBefore s id) p then ((without s id).packetAtHome p).2.packetDecided id p ((without s id).packetAtHome p).1
    else s.spawn .packetArrival s.par) := by
  show execPacketArrival s = _
  rw [execPacketArrival, hn]
  simp only [hf]
  cases h : s.packetReady (waitingBefore s id) p with
  | false => exact if_pos (congrArg not h)
  | true => exact if_neg (Bool.eq_false_iff.1 (congrArg not h))

end

theorem packetAtHome_refuses (p : Packet)
    (h : (s.porterGroup (homeOf s p) p.grp).1.refuses (s.forum.wmport.getLsbD (homeOf s p)) p = true) :
    s.packetAtHome p = (false, (s.porterGroup (homeOf s p) p.grp).2.modPorter (homeOf s p) fun q =>
      { q with refused := min (q.refused + 1) 0xFFFF }) :=
  if_pos ((congrArg (fun b => Group.refuses _ b p) (porterGroup_porterSecure s _ _ _)).trans h)

theorem packetAtHome_accepts (p : Packet)
    (h : (s.porterGroup (homeOf s p) p.grp).1.refuses (s.forum.wmport.getLsbD (homeOf s p)) p = false) :
    s.packetAtHome p = (true, ((s.porterGroup (homeOf s p) p.grp).2.modPorter (homeOf s p) fun q =>
      { q with input := q.input ++ [stamped (s.porterGroup (homeOf s p) p.grp).1 p] }).startHandlers (homeOf s p)) :=
  if_neg (Bool.eq_false_iff.1 ((congrArg (fun b => Group.refuses _ b p) (porterGroup_porterSecure s _ _ _)).trans h))

section

variable {id : Nat} {p : Packet} (hn : s.par.packet = none) (hf : s.forum.packets.find? (fun e => e.1 == s.par.id) = some (id, p))

include hn hf

theorem packetArrival_waits (hr : s.packetReady (waitingBefore s id) p = false) :
    exec .packetArrival s = .next (s.spawn .packetArrival s.par) :=
  (packetArrival_next hn hf).trans (congrArg _ (if_neg (Bool.eq_false_iff.1 hr)))

theorem packetArrival_refused (hr : s.packetReady (waitingBefore s id) p = true)
    (hg : ((without s id).porterGroup (homeOf s p) p.grp).1.refuses (s.forum.wmport.getLsbD (homeOf s p)) p = true) :
    exec .packetArrival s = .next ((((without s id).porterGroup (homeOf s p) p.grp).2.modPorter (homeOf s p) fun q =>
      { q with refused := min (q.refused + 1) 0xFFFF }).packetDecided id p false) := by
  rw [packetArrival_next hn hf, if_pos hr, packetAtHome_refuses (s := without s id) p hg]
  rfl

theorem packetArrival_accepted (hr : s.packetReady (waitingBefore s id) p = true)
    (hg : ((without s id).porterGroup (homeOf s p) p.grp).1.refuses (s.forum.wmport.getLsbD (homeOf s p)) p = false) :
    exec .packetArrival s = .next (((((without s id).porterGroup (homeOf s p) p.grp).2.modPorter (homeOf s p) fun q =>
      { q with input := q.input ++ [stamped ((without s id).porterGroup (homeOf s p) p.grp).1 p] }).startHandlers
        (homeOf s p)).packetDecided id p true) := by
  rw [packetArrival_next hn hf, if_pos hr, packetAtHome_accepts (s := without s id) p hg]
  rfl

end

section

variable {id : Nat} {p : Packet} {c : Nat} {e : SBEntry} {ok : Bool} (hk : p.kind ≠ 2)
  (he : (s.coreNums.filterMap fun c => ((s.core c).sb.find? (·.id == id)).map (c, ·)).head? = some (c, e))

include hk he

/-- What becomes of the store-buffer entry that a decided packet was (R418). -/
theorem packetDecided_entry : s.packetDecided id p ok = if ok then s.acceptEntry c e else s.refuseEntry c e 12 := by
  obtain ⟨r, hr⟩ := List.head?_eq_some_iff.1 he
  refine (if_neg hk).trans ?_
  rw [hr]
  rfl

theorem packetDecided_refused (hok : ok = false) : s.packetDecided id p ok = s.refuseEntry c e 12 :=
  (packetDecided_entry hk he).trans (if_neg (Bool.eq_false_iff.1 hok))

theorem packetDecided_accepted (hok : ok = true) (hcall : e.call = none) :
    s.packetDecided id p ok = (s.dropEntry c e.id).ackOwners (e.kind.fids.map fun fid => ownerOf c e.slot fid) := by
  rw [packetDecided_entry hk he, if_pos hok, State.acceptEntry, hcall]

end

-- acknowledgements of deliveries (R437)

section

variable {c : CmplCount}

theorem acknowledged_eq (c : CmplCount) (ok : Bool) :
    (if ok then { c with accepted := c.accepted + 1 } else { c with refused := c.refused + 1 }) = acknowledged c ok := rfl

theorem acknowledged_total (c : CmplCount) (ok : Bool) :
    (acknowledged c ok).accepted + (acknowledged c ok).refused = c.accepted + c.refused + 1 := by
  cases ok <;> simp [acknowledged] <;> omega

@[simp] theorem acknowledged_sent (c : CmplCount) (ok : Bool) : (acknowledged c ok).sent = c.sent := by
  cases ok <;> rfl

@[simp] theorem acknowledged_due (c : CmplCount) (ok : Bool) : (acknowledged c ok).due = c.due := by
  cases ok <;> rfl

variable (hc : s.count s.par.grp s.par.ver = c)

include hc

theorem deliveryAck_unexpected (h : c.sent ≤ c.accepted + c.refused) : exec .deliveryAck s = .next s := by
  subst hc
  exact if_pos h

variable (h : c.accepted + c.refused < c.sent)

include h

theorem deliveryAck_counts (hd : c.due = none) : exec .deliveryAck s = .next (s.setCount (acknowledged c s.par.flag)) := by
  subst hc
  refine (if_neg (Nat.not_le.2 h)).trans ?_
  simp only [acknowledged_eq]
  simp only [acknowledged_due, hd]

variable {g : Group} (hd : c.due = some g)

include hd

/-- The last acknowledgement completes an operation that is due. -/
theorem deliveryAck_due : exec .deliveryAck s = .next (
    if c.sent = c.accepted + c.refused + 1 then s.completeGroup (min g.home 50) g (acknowledged c s.par.flag)
    else s.setCount (acknowledged c s.par.flag)) := by
  subst hc
  refine (if_neg (Nat.not_le.2 h)).trans ?_
  simp only [acknowledged_eq]
  simp only [acknowledged_due, hd, acknowledged_sent, acknowledged_total]

theorem deliveryAck_more (hn : c.accepted + c.refused + 1 < c.sent) :
    exec .deliveryAck s = .next (s.setCount (acknowledged c s.par.flag)) :=
  (deliveryAck_due hc h hd).trans (congrArg _ (if_neg (Nat.ne_of_gt hn)))

theorem deliveryAck_last (hn : c.accepted + c.refused + 1 = c.sent) :
    exec .deliveryAck s = .next (s.completeGroup (min g.home 50) g (acknowledged c s.par.flag)) :=
  (deliveryAck_due hc h hd).trans (congrArg _ (if_pos hn.symm))

end

-- slots that time out (R426)

theorem slotTimeout_absent (h : slotAtPorter s s.par.porter (s.par.grp, s.par.ver, s.par.off) = none) : exec .slotTimeout s = .next s := by
  show execSlotTimeout s = _
  simp only [execSlotTimeout, slotOf_eq_slotAtPorter, h]

section

variable {x : Slot} (hx : slotAtPorter s s.par.porter (s.par.grp, s.par.ver, s.par.off) = some x)
  (ht : (s.porterGroup s.par.porter x.grp).1.tmo ≠ 0)

include hx ht

/-- A handler that holds the slot ends first, and the endpoint must have room. -/
theorem slotTimeout_next : exec .slotTimeout s = .next (
    if (s.porterGroup s.par.porter x.grp).2.slotHeld s.par.porter (s.par.grp, s.par.ver, s.par.off) = true ∨ 1024 ≤ s.forum.spills.length then
      (s.porterGroup s.par.porter x.grp).2.spawn .slotTimeout s.par
    else (s.porterGroup s.par.porter x.grp).2.spill s.par.porter x) := by
  show execSlotTimeout s = _
  simp only [execSlotTimeout, slotOf_eq_slotAtPorter, hx, if_neg ht, State.spillRoom, porterGroup_spills, porterGroup_par, Bool.or_eq_true,
    Bool.not_eq_true', decide_eq_false_iff_not, Nat.not_lt]
  split <;> rfl

theorem slotTimeout_spills
    (hheld : (s.porterGroup s.par.porter x.grp).2.slotHeld s.par.porter (s.par.grp, s.par.ver, s.par.off) = false)
    (hroom : s.forum.spills.length < 1024) : exec .slotTimeout s = .next ((s.porterGroup s.par.porter x.grp).2.spill s.par.porter x) := by
  rw [slotTimeout_next hx ht, hheld, if_neg]
  simpa using hroom

theorem slotTimeout_waits
    (h : (s.porterGroup s.par.porter x.grp).2.slotHeld s.par.porter (s.par.grp, s.par.ver, s.par.off) = true ∨ 1024 ≤ s.forum.spills.length) :
    exec .slotTimeout s = .next ((s.porterGroup s.par.porter x.grp).2.spawn .slotTimeout s.par) :=
  (slotTimeout_next hx ht).trans (congrArg _ (if_pos h))

end

-- spilling (R426)

theorem porter_modPorter_same {p : Nat} (hp : p < s.forum.porters.length) (f : Porter → Porter) : (s.modPorter p f).porter p = f (s.porter p) := by
  simp [State.porter, State.modPorter, State.modForum, nth, modAt, List.getD_eq_getElem?_getD, hp]

@[simp] theorem porter_toEndpoint (s : State) (k : Packet) (p : Nat) : (s.toEndpoint k).porter p = s.porter p := rfl

@[simp] theorem porter_addSpill (s : State) (x : Slot) (p : Nat) :
    (s.modForum fun g => { g with spills := g.spills ++ [x] }).porter p = s.porter p := rfl

theorem spill_porter {p : Nat} (hp : p < s.forum.porters.length) (x : Slot) : (s.spill p x).porter p =
    { s.porter p with
      slots := (s.porter p).slots.filter (·.key != x.key), marks := (s.porter p).marks ++ [x.key],
      spill := min ((s.porter p).spill + 1) 0xFFFF } := by
  rw [State.spill, porter_toEndpoint, porter_addSpill, State.dropSlot, modPorter_modPorter, porter_modPorter_same hp]
  rfl

/-- A spilled slot is no longer at its porter, where its key is marked. -/
theorem spill_unslotted {p : Nat} (hp : p < s.forum.porters.length) (x : Slot) : slotAtPorter (s.spill p x) p x.key = none := by
  rw [slotAtPorter, spill_porter hp]
  refine List.find?_eq_none.2 fun y hy => ?_
  have hy := (List.mem_filter.1 hy).2
  exact fun hk => (bne_iff_ne.1 hy) (eq_of_beq hk)

@[simp] theorem spill_mem (p : Nat) (x : Slot) : (s.spill p x).mem = s.mem := by
  simp [State.spill, State.toEndpoint, State.dropSlot, State.fresh]

theorem mem_spill (p : Nat) (x : Slot) : x ∈ (s.spill p x).forum.spills :=
  List.mem_append_right _ (List.mem_singleton.2 rfl)

-- the endpoint (R426, R427)

/-- The endpoint keeps a fold that is not done. -/
def spillKept (s : State) (y : Slot) : State :=
  withForum s fun f => { f with spills := f.spills.map fun z => if (z.grp, z.ver, z.off) == (y.grp, y.ver, y.off) then y else z }

theorem done_iff (g : Group) (x : Slot) : x.done g = true ↔ x.nxt = g.nmem := beq_iff_eq

section

variable {id : Nat} {p : Packet} (hf : s.forum.packets.find? (fun e => e.1 == s.par.id) = some (id, p))

include hf

/-- The fold of the packet's key has ended meanwhile. -/
theorem spillEndpointFold_ended (hk : p.kind ≠ 3)
    (hx : s.forum.spills.find? (fun x => (x.grp, x.ver, x.off) == (p.grp, p.ver, p.off)) = none) :
    exec .spillEndpointFold s = .next (((without s id).porterGroup 50 p.grp).2.modPorter
      (min ((without s id).porterGroup 50 p.grp).1.home 50) fun q => { q with dup := min (q.dup + 1) 0xFFFF }) := by
  have hx : ((without s id).porterGroup 50 p.grp).2.forum.spills.find? (fun x => x.key == packetKey p) = none := by
    rw [porterGroup_spills]
    exact hx
  show execSpillEndpointFold s = _
  simp only [execSpillEndpointFold, hf, without_eq, hx, if_neg hk]
  rfl

variable {x : Slot} (hx : s.forum.spills.find? (fun x => (x.grp, x.ver, x.off) == (p.grp, p.ver, p.off)) = some x)

include hx

/-- The fold goes on from the spilled state, or with a contribution that is not in it yet. -/
theorem spillEndpointFold_next : exec .spillEndpointFold s = .next (
    let g := ((without s id).porterGroup 50 p.grp).1
    let t := ((without s id).porterGroup 50 p.grp).2
    if p.kind ≠ 3 ∧ p.member ∈ x.bmp then t.modPorter (min g.home 50) fun q => { q with dup := min (q.dup + 1) 0xFFFF }
    else
      let y := (if p.kind = 3 then x else x.put g p).run g 513
      let t := if p.kind = 3 then t else t.countPoison g p
      if y.nxt = g.nmem then t.endSpill g y else spillKept t y) := by
  have hx : ((without s id).porterGroup 50 p.grp).2.forum.spills.find? (fun x => x.key == packetKey p) = some x := by
    rw [porterGroup_spills]
    exact hx
  show execSpillEndpointFold s = _
  simp only [execSpillEndpointFold, hf, without_eq, hx, Bool.and_eq_true, decide_eq_true_eq, List.contains_iff_mem, done_iff]
  split <;> rfl

theorem spillEndpointFold_duplicate (hk : p.kind ≠ 3) (hm : p.member ∈ x.bmp) :
    exec .spillEndpointFold s = .next (((without s id).porterGroup 50 p.grp).2.modPorter
      (min ((without s id).porterGroup 50 p.grp).1.home 50) fun q => { q with dup := min (q.dup + 1) 0xFFFF }) :=
  (spillEndpointFold_next hf hx).trans (congrArg _ (if_pos ⟨hk, hm⟩))

theorem spillEndpointFold_spilled (hk : p.kind = 3)
    (hn : (x.run ((without s id).porterGroup 50 p.grp).1 513).nxt = ((without s id).porterGroup 50 p.grp).1.nmem) :
    exec .spillEndpointFold s = .next (((without s id).porterGroup 50 p.grp).2.endSpill ((without s id).porterGroup 50 p.grp).1
      (x.run ((without s id).porterGroup 50 p.grp).1 513)) := by
  rw [spillEndpointFold_next hf hx]
  simp only [hk, ne_eq, not_true_eq_false, false_and, if_false, if_true, hn]

/-- A contribution that the spilled fold takes. -/
theorem spillEndpointFold_takes (hk : p.kind ≠ 3) (hm : p.member ∉ x.bmp) : exec .spillEndpointFold s = .next (
    let g := ((without s id).porterGroup 50 p.grp).1
    let t := ((without s id).porterGroup 50 p.grp).2.countPoison g p
    if ((x.put g p).run g 513).nxt = g.nmem then t.endSpill g ((x.put g p).run g 513) else spillKept t ((x.put g p).run g 513)) := by
  rw [spillEndpointFold_next hf hx]
  simp only [hk, hm, ne_eq, not_false_eq_true, true_and, if_false]

end

end

end Sys2Proof.Spec

/-!
PROOFS. Chunk graphs (R441-R445): their counters and predicates, the loading of an image, replays and their chunks.
-/
namespace Sys2Proof.Spec

open Sys2Proof Sys2Proof.Machine

section

variable {s : State} {slot : Nat} {g : Graph} {r : Replay}

-- the model's operations in the words of the statement

theorem graph?_eq_graphAt (s : State) (slot : Nat) : s.graph? slot = graphAt s slot := rfl

theorem advance_eq_advanced (s : State) (slot cnt inc : Nat) : s.advance slot cnt inc = advanced s slot cnt inc := rfl

-- counters and the firing of chunks (R443)

theorem foldl_spawn_noWork {α : Type} (i : Instr) (p : α → Params) (l : List α) (s : State) :
    (l.foldl (fun s a => s.spawn i (p a)) s).noWork = s.noWork := by
  induction l generalizing s with
  | nil => rfl
  | cons a l ih => exact ih _

/-- The chunks that fire now, in ascending index: those that have not fired and whose predicates hold. -/
def firing (g : Graph) (r : Replay) : List Nat :=
  (List.range g.chunks.length).filter fun i => !r.fired.contains i && (g.chunks[i]?.any fun c => fires c g.counters)

theorem fireChunks_idle (hg : graphAt s slot = some g) (hr : g.replay = none) : s.fireChunks slot = s := by
  simp only [State.fireChunks, graph?_eq_graphAt, hg, hr]

section

variable (hg : graphAt s slot = some g) (hr : g.replay = some r)

include hg hr

theorem fireChunks_stopped (h : r.cancelled = true ∨ r.failed ≠ []) : s.fireChunks slot = s := by
  simp only [State.fireChunks, graph?_eq_graphAt, hg, hr]
  exact if_pos (by simpa using h)

theorem fireChunks_noWork (hc : r.cancelled = false) (hf : r.failed = []) : (s.fireChunks slot).noWork =
    (withGraph s slot fun h => { h with replay := some { r with fired := r.fired ++ firing g r } }).noWork := by
  simp only [State.fireChunks, graph?_eq_graphAt, hg, hr]
  refine (congrArg State.noWork (if_neg ?_)).trans ((foldl_spawn_noWork _ _ _ _).trans ?_)
  · simp [hc, hf]
  · refine congrArg (fun now => (withGraph s slot fun h => { h with replay := some { r with fired := r.fired ++ now } }).noWork)
      (List.filter_congr fun i _ => ?_)
    cases g.chunks[i]? <;> rfl

end

theorem cadd_next (ht : trusted s s.par.m) (hg : graphAt s (s.par.v.extractLsb' 0 6).toNat ≠ none) : exec .cadd s =
    .next (advanced s (s.par.v.extractLsb' 0 6).toNat (s.par.v.extractLsb' 6 3).toNat (s.par.v.extractLsb' 32 32).toNat) := by
  obtain ⟨g, hg⟩ := Option.ne_none_iff_exists'.1 hg
  refine (trusted_writes ht _).trans ?_
  simp only [State.cadd, graph?_eq_graphAt, hg, Option.map_some, advance_eq_advanced, Option.getD_some]

theorem cadd_refused (ht : trusted s s.par.m) (hg : graphAt s (s.par.v.extractLsb' 0 6).toNat = none) :
    exec .cadd s = .next (refusedAt s s.par.m) := by
  refine (trusted_writes ht _).trans ?_
  simp only [State.cadd, graph?_eq_graphAt, hg, Option.map_none, Option.getD_none]

-- the bytes of an image

theorem bytes_drop (m : List Host.Cell) (a n k : Nat) : (Memory.bytes m a n).drop k = Memory.bytes m (a + k) (n - k) := by
  induction k generalizing a n with
  | zero => rfl
  | succ k ih =>
    cases n with
    | zero => simp [Memory.bytes]
    | succ n => simpa [Memory.bytes, Nat.add_right_comm, Nat.add_assoc, Nat.add_comm 1 k] using ih (a + 1) n

theorem bytes_take (m : List Host.Cell) {a n k : Nat} (h : k ≤ n) : (Memory.bytes m a n).take k = Memory.bytes m a k := by
  induction k generalizing a n with
  | zero => rfl
  | succ k ih =>
    obtain ⟨n, rfl⟩ := Nat.exists_eq_add_of_le' h
    simp [Memory.bytes, ih (a := a + 1) (n := n + k) (by omega)]

/-- A field of a string of memory's bytes is what memory holds there. -/
theorem field_bytes (m : List Host.Cell) (a : Nat) {n o k : Nat} (h : o + k ≤ n) : field (Memory.bytes m a n) o k = Memory.read m (a + o) k := by
  rw [field, bytes_drop, bytes_take m (by omega), Memory.read]

theorem bytes_all (m : List Host.Cell) (p : Byte → Prop) (a n : Nat) :
    (∀ b ∈ Memory.bytes m a n, p b) ↔ ∀ i < n, p (Memory.get m (a + i)) := by
  induction n generalizing a with
  | zero => simp [Memory.bytes]
  | succ n ih =>
    rw [Memory.bytes, List.forall_mem_cons, ih, Nat.forall_lt_succ_left']
    simp [Nat.add_assoc, Nat.add_comm 1]

/-- The reserved bytes of a header, from `o` on. -/
theorem any_bytes_eq_false (m : List Host.Cell) (a n o : Nat) :
    ((Memory.bytes m a n).drop o).any (· != 0) = false ↔ ∀ i < n - o, Memory.get m (a + o + i) = 0 := by
  simp only [bytes_drop, List.any_eq_false, bne_iff_ne, ne_eq, Classical.not_not, bytes_all m (· = 0)]

-- loading (R442)

/-- The graph that an image describes. -/
def imageGraph (s : State) : Graph :=
  ⟨imageSlot s, imageCtx s, BitVec.ofNat 64 (Memory.read s.mem (imageAddr s + 8) 8), (List.range (imageChunks s)).map (chunkOf s),
    List.replicate 8 0, none⟩

/-- The tests of an image, in the model's order. -/
def imageRefused (s : State) : Bool :=
  imageChunks s = 0 || 256 < imageChunks s || Memory.read s.mem (imageAddr s + 4) 4 ≠ 0 ||
  ((Memory.bytes s.mem (imageAddr s) 64).drop 16).any (· != 0) || ((List.range (imageChunks s)).map (chunkOf s)).any Chunk.malformed ||
  !s.pinnedPhys (imageCtx s) (imageAddr s) (64 + 64 * imageChunks s) || s.worldRefuses (s.context (imageCtx s)).world (imageAddr s) ||
  4096 < ((s.forum.graphs.filter fun g => g.slot != imageSlot s).map fun g => g.chunks.length).sum + imageChunks s ||
  (graphAt s (imageSlot s)).any fun g => g.replay.isSome

theorem imageRefused_eq_false_iff (s : State) : imageRefused s = false ↔ loadable s := by
  simp only [imageRefused, loadable, Bool.or_eq_false_iff, any_bytes_eq_false]
  simp only [decide_eq_false_iff_not, List.any_eq_false, List.mem_map, List.mem_range, forall_exists_index, and_imp,
    forall_apply_eq_imp_iff₂, Bool.not_eq_true, Bool.not_eq_false', and_assoc, Nat.not_lt, Nat.one_le_iff_ne_zero, Classical.not_not,
    Option.any_eq_false, Option.isSome_eq_false_iff, Option.isNone_iff_eq_none, ne_eq]

theorem cgload_eq (s : State) : s.cgload s.par.v = if imageRefused s then none else
    some (withForum (emptied s (imageSlot s)) fun f => { f with graphs := f.graphs ++ [imageGraph s] }) := by
  have h0 : field (Memory.bytes s.mem (imageAddr s) 64) 0 2 = imageChunks s := field_bytes _ _ (by omega)
  have h2 : field (Memory.bytes s.mem (imageAddr s) 64) 2 2 = imageCtx s := field_bytes _ _ (by omega)
  have h4 := field_bytes s.mem (imageAddr s) (n := 64) (o := 4) (k := 4) (by omega)
  have h8 := field_bytes s.mem (imageAddr s) (n := 64) (o := 8) (k := 8) (by omega)
  unfold State.cgload
  dsimp only
  rw [show (s.par.v.extractLsb' 6 46).toNat * 64 = imageAddr s from rfl, show (s.par.v.extractLsb' 0 6).toNat = imageSlot s from rfl,
    h0, h2, h4, h8, graph?_eq_graphAt]
  by_cases hn : 256 < imageChunks s
  · simp [imageRefused, hn]
  · rw [Nat.min_eq_left (Nat.not_lt.1 hn)]
    unfold imageRefused
    cases graphAt s (imageSlot s) <;> rfl

theorem cgload_next (ht : trusted s s.par.m) (h : loadable s) :
    exec .cgload s = .next (withForum (emptied s (imageSlot s)) fun f => { f with graphs := f.graphs ++ [imageGraph s] }) := by
  refine (if_pos ((forumWriter_iff s _).2 ht)).trans ?_
  rw [cgload_eq, (imageRefused_eq_false_iff s).2 h]
  rfl

theorem cgload_refused (ht : trusted s s.par.m) (h : ¬ loadable s) :
    exec .cgload s = .next (refusedAt (emptied s (imageSlot s)) s.par.m) := by
  refine (if_pos ((forumWriter_iff s _).2 ht)).trans ?_
  rw [cgload_eq, if_pos (eq_true_of_ne_false (mt (imageRefused_eq_false_iff s).1 h))]
  rfl

-- replays (R444, R445)

/-- The record that `CGRUN` names, and the slot. -/
def runAddr (s : State) : Nat := (s.par.v.extractLsb' 6 50).toNat * 64
def runSlot (s : State) : Nat := (s.par.v.extractLsb' 0 6).toNat

section

variable (ht : trusted s s.par.m)

include ht

theorem cgrunStart_next {ps qs : List (Nat × Nat)} (hg : graphAt s (runSlot s) = some g) (hr : g.replay = none)
    (hps : s.chunkPieces g.ctx .read (runAddr s) 128 = .ok ps) (hqs : s.chunkPieces g.ctx .write (runAddr s) 128 = .ok qs) :
    exec .cgrunStart s = .next ((withGraph s (runSlot s) fun h => { h with
      counters := List.replicate 8 0
      replay := some ⟨runAddr s, (List.range 8).map fun i => field (s.piecesBytes ps) (8 * i) 8, [], [], [], [], false⟩ }).fireChunks
        (runSlot s)) := by
  refine (trusted_writes ht _).trans ?_
  unfold runSlot runAddr at *
  simp only [State.cgstart, graph?_eq_graphAt, hg, hr, hps, hqs, Option.getD_some]
  rfl

/-- The record cannot be read, or cannot be written. -/
theorem cgrunStart_unreachable {e : Nat} (hg : graphAt s (runSlot s) = some g) (hr : g.replay = none)
    (he : s.chunkPieces g.ctx .read (runAddr s) 128 = .error e ∨ s.chunkPieces g.ctx .write (runAddr s) 128 = .error e) :
    exec .cgrunStart s = .next (refusedAt s s.par.m) := by
  refine (trusted_writes ht _).trans ?_
  unfold runSlot runAddr at *
  simp only [State.cgstart, graph?_eq_graphAt, hg, hr]
  obtain he | he := he
  · simp only [he, Option.getD_none]
  · cases hread : s.chunkPieces g.ctx .read ((s.par.v.extractLsb' 6 50).toNat * 64) 128 <;> simp only [he, Option.getD_none]

/-- No graph, or a replay of it that runs. -/
theorem cgrunStart_busy (h : ∀ g, graphAt s (runSlot s) = some g → g.replay ≠ none) : exec .cgrunStart s = .next (refusedAt s s.par.m) := by
  refine (trusted_writes ht _).trans ?_
  unfold runSlot at h
  simp only [State.cgstart, graph?_eq_graphAt]
  cases hg : graphAt s (s.par.v.extractLsb' 0 6).toNat with
  | none => rfl
  | some g =>
    obtain ⟨r, hr⟩ := Option.ne_none_iff_exists'.1 (h g hg)
    simp only [hr, Option.getD_none]

theorem cgrunCancel_idle (h : ∀ g, graphAt s s.par.slot = some g → g.replay = none) : exec .cgrunCancel s = .next (refusedAt s s.par.m) := by
  refine (trusted_writes ht _).trans ?_
  rw [State.cgcancel, graph?_eq_graphAt, Option.bind_eq_none_iff.2 h]
  rfl

theorem cgrunCancel_next (hg : graphAt s s.par.slot = some g) (hr : g.replay ≠ none) :
    exec .cgrunCancel s = .next ((withReplay s s.par.slot fun r => { r with cancelled := true }).checkReplay s.par.slot) := by
  obtain ⟨r, hr⟩ := Option.ne_none_iff_exists'.1 hr
  refine (trusted_writes ht _).trans ?_
  rw [State.cgcancel, graph?_eq_graphAt, hg, Option.bind_some, hr]
  rfl

end

-- a chunk's action (R444)

/-- A fired chunk that has neither completed nor failed. -/
def underWay (r : Replay) (n : Nat) : Prop := n ∈ r.fired ∧ n ∉ r.completed ∧ n ∉ r.failed.map (·.1)

theorem not_underWay {n : Nat} (h : n ∉ r.fired ∨ n ∈ r.completed ∨ n ∈ r.failed.map (·.1)) : ¬ underWay r n :=
  fun ⟨hf, hc, hx⟩ => h.elim (· hf) fun h => h.elim hc hx

/-- What follows a chunk's action. -/
def acted (slot n : Nat) (c : Chunk) : State × ChunkRes → State
  | (t, .waits) => t.spawn .chunkComplete t.par
  | (t, .fails x) => (withReplay t slot fun r => { r with failed := r.failed ++ [(n, x)] }).checkReplay slot
  | (t, .done) => chunkDone t slot n c

theorem not_underWay_iff (r : Replay) (n : Nat) :
    (!r.fired.contains n || r.completed.contains n || r.failed.any (·.1 == n)) = true ↔ ¬ underWay r n := by
  simp [underWay, Classical.or_iff_not_imp_left]

/-- A field of three bits from bit 0. -/
theorem bits_zero_three (v : Nat) : bits v 0 3 = v % 8 := by
  simp [bits]

section

variable {c : Chunk} (hg : graphAt s s.par.slot = some g) (hr : g.replay = some r) (hc : g.chunks[s.par.n]? = some c)

include hg hr hc

theorem chunkComplete_stale (h : ¬ underWay r s.par.n) : exec .chunkComplete s = .next s := by
  show execChunkComplete s = _
  simp only [execChunkComplete, graph?_eq_graphAt, hg, hr, hc]
  exact if_pos ((not_underWay_iff r _).2 h)

theorem chunkComplete_next (h : underWay r s.par.n) :
    exec .chunkComplete s = .next (acted s.par.slot s.par.n c (s.chunkAct s.par.slot s.par.n g r c)) := by
  show execChunkComplete s = _
  simp only [execChunkComplete, graph?_eq_graphAt, hg, hr, hc, bits_zero_three]
  refine (if_neg (mt (not_underWay_iff r _).1 (not_not_intro h))).trans ?_
  obtain ⟨t, a⟩ := s.chunkAct s.par.slot s.par.n g r c
  cases a <;> rfl

end

theorem chunkAct_update {c : Chunk} (n : Nat) (h : c.act = 3) :
    s.chunkAct slot n g r c = (s.completion (BitVec.ofNat 64 c.soff) g.ctx 0 false, .done) := by
  simp only [State.chunkAct, h]

theorem chunkAct_add {c : Chunk} (n : Nat) (h : c.act = 4) : s.chunkAct slot n g r c = (advanced s slot (c.bsel % 8) c.len, .done) := by
  simp only [State.chunkAct, h, bits_zero_three, advance_eq_advanced]

section

variable {c : Chunk} (hg : graphAt s s.par.slot = some g) (hr : g.replay = some r) (hc : g.chunks[s.par.n]? = some c)
  (h : underWay r s.par.n)

include hg hr hc h

theorem chunkComplete_acts {t : State} {a : ChunkRes} (ha : s.chunkAct s.par.slot s.par.n g r c = (t, a)) :
    exec .chunkComplete s = .next (acted s.par.slot s.par.n c (t, a)) := by
  rw [chunkComplete_next hg hr hc h, ha]

theorem chunkComplete_update (ha : c.act = 3) : exec .chunkComplete s =
    .next (chunkDone (s.completion (BitVec.ofNat 64 c.soff) g.ctx 0 false) s.par.slot s.par.n c) :=
  chunkComplete_acts hg hr hc h (chunkAct_update _ ha)

theorem chunkComplete_add (ha : c.act = 4) : exec .chunkComplete s =
    .next (chunkDone (advanced s s.par.slot (c.bsel % 8) c.len) s.par.slot s.par.n c) :=
  chunkComplete_acts hg hr hc h (chunkAct_add _ ha)

end

-- the end of a replay (R445)

/-- A replay that has ended: its status word where the record can be written, and the graph's completion update. -/
def replayEnded (s : State) (slot : Nat) (g : Graph) (r : Replay) (how : Nat) : State :=
  let w := (s.context g.ctx).world
  let t := match s.lookWalk g.ctx w .write (r.recAddr + 0x40) with
    | .ok l => if l.apt < 4 then s.homeWrite (l.phys (r.recAddr + 0x40)) 8 (replayStatus r how) else s
    | _ => s
  (withGraph t slot fun h => { h with replay := none }).completion g.cmpl g.ctx 0 (decide (how ≠ 1))

theorem endReplay_eq (s : State) (slot : Nat) (g : Graph) (r : Replay) (how : Nat) : s.endReplay slot g r how = replayEnded s slot g r how := by
  have hstatus : ∀ f, r.failed.head?.getD (0xFFFF, 0) = f →
      replayStatus r how = r.completed.length + f.1 * 2 ^ 16 + how * 2 ^ 32 + f.2 * 2 ^ 40 := by
    rintro f rfl
    simp only [replayStatus, Nat.mul_comm]
  have hhow : decide (how ≠ 1) = (how != 1) := by rw [Bool.eq_iff_iff, decide_eq_true_iff, bne_iff_ne]
  unfold State.endReplay replayEnded
  rw [hhow]
  cases hf : r.failed with
  | nil => rw [hstatus (0xFFFF, 0) (by rw [hf]; rfl)]; rfl
  | cons x l => rw [hstatus x (by rw [hf]; rfl)]; rfl

/-- Every chunk that has fired has ended. -/
def allEnded (r : Replay) : Prop := ∀ i ∈ r.fired, i ∈ r.completed ∨ i ∈ r.failed.map (·.1)

theorem allEnded_iff (r : Replay) : (r.fired.all fun i => r.completed.contains i || r.failed.any (·.1 == i)) = true ↔ allEnded r := by
  simp [allEnded]

section

variable (hg : graphAt s slot = some g) (hr : g.replay = some r)

include hg hr

theorem checkReplay_completed (h : r.completed.length = g.chunks.length) : s.checkReplay slot = replayEnded s slot g r 1 := by
  simp only [State.checkReplay, graph?_eq_graphAt, hg, hr, endReplay_eq]
  exact if_pos h

variable (h : r.completed.length ≠ g.chunks.length)

include h

theorem checkReplay_runs (hs : ¬ allEnded r) : s.checkReplay slot = s := by
  simp only [State.checkReplay, graph?_eq_graphAt, hg, hr, if_neg h]
  exact if_neg (mt (allEnded_iff r).1 hs)

theorem checkReplay_settled (hs : allEnded r) : s.checkReplay slot =
    if r.failed ≠ [] then replayEnded s slot g r 2 else if r.cancelled then replayEnded s slot g r 3 else s := by
  simp only [State.checkReplay, graph?_eq_graphAt, hg, hr, if_neg h, endReplay_eq, if_pos ((allEnded_iff r).2 hs)]
  cases r.failed <;> rfl

theorem checkReplay_failed (hs : allEnded r) (hf : r.failed ≠ []) : s.checkReplay slot = replayEnded s slot g r 2 :=
  (checkReplay_settled hg hr h hs).trans (if_pos hf)

theorem checkReplay_cancelled (hs : allEnded r) (hf : r.failed = []) (hc : r.cancelled = true) :
    s.checkReplay slot = replayEnded s slot g r 3 :=
  (checkReplay_settled hg hr h hs).trans ((if_neg (not_not_intro hf)).trans (if_pos hc))

theorem checkReplay_goesOn (hno : ¬ allEnded r ∨ r.failed = [] ∧ r.cancelled = false) : s.checkReplay slot = s := by
  by_cases hs : allEnded r
  · obtain ⟨hf, hc⟩ := hno.resolve_left (not_not_intro hs)
    exact (checkReplay_settled hg hr h hs).trans ((if_neg (not_not_intro hf)).trans (if_neg (Bool.eq_false_iff.1 hc)))
  · exact checkReplay_runs hg hr h hs

end

end

end Sys2Proof.Spec

/-!
PROOFS. Completion words (R435, R436): their bits, and the update of each kind.
-/
namespace Sys2Proof.Spec

open Sys2Proof Sys2Proof.Machine

-- fields of a word

theorem bits_toNat (w : BitVec 64) (lo n : Nat) : bits w.toNat lo n = (w.extractLsb' lo n).toNat := by
  rw [BitVec.extractLsb'_toNat, Nat.shiftRight_eq_div_pow, bits]

/-- The bits from `lo` up, `n` of them. -/
def fieldMask (lo n : Nat) : BitVec 64 := (BitVec.allOnes n).setWidth 64 <<< lo

theorem and_fieldMask_eq_zero_iff (w : BitVec 64) {lo n : Nat} (h : lo + n ≤ 64) : w &&& fieldMask lo n = 0 ↔ bits w.toNat lo n = 0 := by
  have hfield : bits w.toNat lo n = 0 ↔ w.extractLsb' lo n = 0 := by
    rw [bits_toNat, ← BitVec.toNat_inj]
    simp
  have hmask (i : Nat) (hi : i < 64) : (fieldMask lo n).getLsbD i = decide (lo ≤ i ∧ i < lo + n) := by
    simp [fieldMask, hi]
    grind
  rw [hfield]
  constructor
  · intro h0
    refine BitVec.eq_of_getLsbD_eq fun i hi => ?_
    have hbit := congrArg (BitVec.getLsbD · (lo + i)) h0
    simpa [hmask (lo + i) (by omega), hi] using hbit
  · intro h0
    refine BitVec.eq_of_getLsbD_eq fun i hi => ?_
    rw [BitVec.getLsbD_and, hmask i hi]
    by_cases hin : lo ≤ i ∧ i < lo + n
    · have hbit := congrArg (BitVec.getLsbD · (i - lo)) h0
      have hw : w.getLsbD i = false := by simpa [show i - lo < n by omega, Nat.add_sub_cancel' hin.1] using hbit
      simp [hw]
    · simp [hin]

theorem and_or_distrib (w a b : BitVec 64) : w &&& (a ||| b) = w &&& a ||| w &&& b := by
  refine BitVec.eq_of_getLsbD_eq fun i _ => ?_
  simp only [BitVec.getLsbD_and, BitVec.getLsbD_or, Bool.and_or_distrib_left]

theorem wordUnnamed_eq_zero_iff {w : BitVec 64} (hk : wordKind w < 6) : wordUnnamed w = 0 ↔ completionUnnamed w.toNat = 0 := by
  have hb : bits w.toNat 60 4 = wordKind w := bits_toNat w 60 4
  have hmask := fun lo n h => and_fieldMask_eq_zero_iff w (lo := lo) (n := n) h
  unfold completionUnnamed wordUnnamed
  rw [hb]
  generalize wordKind w = k at hk
  match k, hk with
  | 0, _ => exact hmask 0 60 (by decide)
  | 1, _ =>
    show w &&& (fieldMask 52 8 ||| fieldMask 4 8) = 0 ↔ _
    rw [and_or_distrib]
    exact BitVec.or_eq_zero_iff.trans ((and_congr (hmask 52 8 (by decide)) (hmask 4 8 (by decide))).trans Nat.add_eq_zero_iff.symm)
  | 2, _ => exact hmask 11 49 (by decide)
  | 3, _ => exact hmask 8 52 (by decide)
  | 4, _ => exact hmask 53 7 (by decide)
  | 5, _ => exact hmask 9 51 (by decide)

section

variable {s : State} {w : BitVec 64} {ctx n : Nat} {loss : Bool}

-- the kinds (R435)

theorem completion_dropped (h : 6 ≤ wordKind w ∨ wordUnnamed w ≠ 0) : s.completion w ctx n loss = dropped s := by
  have hb : bits w.toNat 60 4 = wordKind w := bits_toNat w 60 4
  unfold State.completion
  dsimp only
  by_cases hu : completionUnnamed w.toNat = 0
  · have hk : 6 ≤ wordKind w := by
      refine Nat.not_lt.1 fun hk => ?_
      obtain h6 | hne := h
      · exact Nat.not_le.2 hk h6
      · exact hne ((wordUnnamed_eq_zero_iff hk).2 hu)
    obtain ⟨k, hk⟩ := Nat.exists_eq_add_of_le' hk
    rw [if_neg (not_not_intro hu), hb, hk]
    rfl
  · exact if_pos hu

/-- A well-laid-out word performs the update of its kind. -/
theorem completion_aimed {k : Nat} (h : aimed w k) (hk : k < 6) : completionUnnamed w.toNat = 0 ∧ bits w.toNat 60 4 = k := by
  obtain ⟨rfl, hu⟩ := h
  exact ⟨(wordUnnamed_eq_zero_iff hk).1 hu, bits_toNat w 60 4⟩

theorem completion_none (h : aimed w 0) : s.completion w ctx n loss = s := by
  obtain ⟨hu, hk⟩ := completion_aimed h (by decide)
  simp only [State.completion, hu, hk, ne_eq, not_true_eq_false, if_false]

theorem completion_team (h : aimed w 1) :
    s.completion w ctx n loss = s.completeTeam (w.extractLsb' 12 40).toNat (w.extractLsb' 0 4).toNat ctx n loss := by
  obtain ⟨hu, hk⟩ := completion_aimed h (by decide)
  simp only [State.completion, hu, hk, ne_eq, not_true_eq_false, if_false, bits_toNat]

theorem completion_dieBar (h : aimed w 2) :
    s.completion w ctx n loss = s.completeDieBar (w.extractLsb' 8 3).toNat (w.extractLsb' 0 8).toNat ctx loss := by
  obtain ⟨hu, hk⟩ := completion_aimed h (by decide)
  simp only [State.completion, hu, hk, ne_eq, not_true_eq_false, if_false, bits_toNat]

theorem completion_pkgBar (h : aimed w 3) : s.completion w ctx n loss =
    if (s.pkgBar (w.extractLsb' 0 8).toNat).own = some ctx then s.pkgArrive (w.extractLsb' 0 8).toNat none loss else dropped s := by
  obtain ⟨hu, hk⟩ := completion_aimed h (by decide)
  simp only [State.completion, hu, hk, ne_eq, not_true_eq_false, if_false, bits_toNat, beq_iff_eq]
  rfl

theorem completion_pkgBar_owned (h : aimed w 3) (ho : (s.pkgBar (w.extractLsb' 0 8).toNat).own = some ctx) :
    s.completion w ctx n loss = s.pkgArrive (w.extractLsb' 0 8).toNat none loss := (completion_pkgBar h).trans (if_pos ho)

theorem completion_pkgBar_foreign (h : aimed w 3) (ho : (s.pkgBar (w.extractLsb' 0 8).toNat).own ≠ some ctx) :
    s.completion w ctx n loss = dropped s := (completion_pkgBar h).trans (if_neg ho)

theorem completion_crier (h : aimed w 4) : s.completion w ctx n loss = s.completeCrier ctx (8 * (w.extractLsb' 0 53).toNat) := by
  obtain ⟨hu, hk⟩ := completion_aimed h (by decide)
  simp only [State.completion, hu, hk, ne_eq, not_true_eq_false, if_false, bits_toNat]

theorem completion_counter (h : aimed w 5) :
    s.completion w ctx n loss = s.completeCounter (w.extractLsb' 0 6).toNat (w.extractLsb' 6 3).toNat ctx := by
  obtain ⟨hu, hk⟩ := completion_aimed h (by decide)
  simp only [State.completion, hu, hk, ne_eq, not_true_eq_false, if_false, bits_toNat]

-- an update of each kind (R435, R436)

/-- The model's test of a team's frame is the statement's. -/
theorem frameTest_eq (w : BitVec 64) (ctx : Nat) (t : Team) :
    (bits t.frbase 12 40 == (w.extractLsb' 12 40).toNat && t.ctx == ctx) = frames w ctx t := rfl

theorem completion_resident {x : Nat × Team} (h : aimed w 1) (hx : s.allTeams.find? (fun x => frames w ctx x.2) = some x) :
    let bar := (w.extractLsb' 0 4).toNat
    let t := s.acquire x.1 5
    let t := if loss then t.modTeam x.1 x.2.slot fun y => { y with bars := y.bars.modify bar fun b => { b with loss := true } } else t
    s.completion w ctx n loss = t.arrive x.1 x.2.slot bar n none := by
  rw [completion_team h]
  simp only [State.completeTeam, frameTest_eq, hx]
  rfl

section

variable (h : aimed w 1) (hr : ∀ x ∈ s.allTeams, frames w ctx x.2 = false)

include h hr

theorem completeTeam_notResident : s.completion w ctx n loss = if s.saved.any fun x => frames w ctx x.team then
    { s with saved := modWhere (fun x => frames w ctx x.team) (fun x =>
      { x with arrivals := x.arrivals ++ [((w.extractLsb' 0 4).toNat, n, loss)] }) s.saved } else dropped s := by
  have hnone : s.allTeams.find? (fun x => frames w ctx x.2) = none := List.find?_eq_none.2 fun x hx => Bool.eq_false_iff.1 (hr x hx)
  rw [completion_team h]
  simp only [State.completeTeam, frameTest_eq, hnone]
  rfl

theorem completion_teamGone (hs : ∀ x ∈ s.saved, frames w ctx x.team = false) : s.completion w ctx n loss = dropped s := by
  rw [completeTeam_notResident h hr, if_neg]
  simpa using hs

theorem completion_saved {x : SavedTeam} {r : List SavedTeam} (hs : s.saved = x :: r) (hx : frames w ctx x.team = true)
    (hother : ∀ y ∈ r, frames w ctx y.team = false) : s.completion w ctx n loss =
      { s with saved := { x with arrivals := x.arrivals ++ [((w.extractLsb' 0 4).toNat, n, loss)] } :: r } := by
  rw [completeTeam_notResident h hr, hs, if_pos (by simp [hx])]
  have hrest : modWhere (fun y : SavedTeam => frames w ctx y.team)
      (fun y => { y with arrivals := y.arrivals ++ [((w.extractLsb' 0 4).toNat, n, loss)] }) r = r :=
    modWhere_id fun y hy hf => absurd hf (Bool.eq_false_iff.1 (hother y hy))
  simp only [modWhere, List.map_cons, hx, if_true] at hrest ⊢
  rw [hrest]

end

theorem completion_dieBar_owned (h : aimed w 2) (ho : (s.dieBar (w.extractLsb' 8 3).toNat (w.extractLsb' 0 8).toNat).own = some ctx) :
    let d := (w.extractLsb' 8 3).toNat
    let k := (w.extractLsb' 0 8).toNat
    let b := s.dieBar d k
    (s.completion w ctx n loss).noWork = (s.setDieBar d k { b with ph := b.ph + 1, rep := [], loss := b.loss || loss }).noWork := by
  rw [completion_dieBar h]
  exact (congrArg State.noWork (if_pos (beq_iff_eq.2 ho))).trans rfl

theorem completion_dieBar_foreign (h : aimed w 2) (ho : (s.dieBar (w.extractLsb' 8 3).toNat (w.extractLsb' 0 8).toNat).own ≠ some ctx) :
    s.completion w ctx n loss = dropped s := by
  rw [completion_dieBar h]
  exact if_neg (mt beq_iff_eq.1 ho)

/-- The crier word counts one more, and all its waiters wake. -/
theorem completion_word {l : Leaf} (h : aimed w 4) (hl : s.lookWalk ctx (s.context ctx).world .write (8 * (w.extractLsb' 0 53).toNat) = .ok l)
    (ha : l.apt < 2) :
    let va := 8 * (w.extractLsb' 0 53).toNat
    s.completion w ctx n loss =
      State.wake (s.homeWrite (l.phys va) 8 ((Memory.read s.mem (l.phys va) 8 + 1) % 2 ^ 64)) ctx va 0xFFFFFFFF := by
  rw [completion_crier h]
  simp only [State.completeCrier, hl, if_neg (Nat.not_le.2 ha), State.crierWake, List.take_length]
  rfl

theorem completion_wordUnreachable (h : aimed w 4)
    (hl : ∀ l, s.lookWalk ctx (s.context ctx).world .write (8 * (w.extractLsb' 0 53).toNat) = .ok l → 2 ≤ l.apt) :
    s.completion w ctx n loss = dropped s := by
  rw [completion_crier h]
  unfold State.completeCrier
  cases hw : s.lookWalk ctx (s.context ctx).world .write (8 * (w.extractLsb' 0 53).toNat) with
  | ok l => exact if_pos (hl l hw)
  | fault => rfl
  | miss => rfl

theorem completion_count {g : Graph} (h : aimed w 5) (hg : graphAt s (w.extractLsb' 0 6).toNat = some g) (hc : g.ctx = ctx) :
    s.completion w ctx n loss = advanced s (w.extractLsb' 0 6).toNat (w.extractLsb' 6 3).toNat 1 := by
  rw [completion_counter h]
  simp only [State.completeCounter, graph?_eq_graphAt, hg, if_pos hc, advance_eq_advanced]

theorem completion_uncounted (h : aimed w 5) (hg : ∀ g, graphAt s (w.extractLsb' 0 6).toNat = some g → g.ctx ≠ ctx) :
    s.completion w ctx n loss = dropped s := by
  rw [completion_counter h]
  unfold State.completeCounter
  rw [graph?_eq_graphAt]
  cases hgraph : graphAt s (w.extractLsb' 0 6).toNat with
  | none => rfl
  | some g => exact if_neg (hg g hgraph)

end

end Sys2Proof.Spec

/-!
PROOFS. Agreement rounds of elastic groups (R446, R447): the proposal, the participants, the decision and the commits.
-/
namespace Sys2Proof.Spec

open Sys2Proof Sys2Proof.Machine

section

variable {s : State}

-- messages

/-- A message to another package is recorded. -/
theorem tell_other {pkg : Nat} (h : pkg ≠ s.forum.pkg.toNat) (m : SentMsg) (own : State → State) :
    s.tell pkg m own = withForum s fun f => { f with sent := f.sent ++ [(pkg, m)] } := if_neg h

/-- What a state has become by sending: memory is as it was, and the Forum but for messages it has sent besides. -/
def Sends (s t : State) : Prop := t.mem = s.mem ∧ ∃ l, t.forum = { s.forum with sent := s.forum.sent ++ l }

theorem Sends.refl (s : State) : Sends s s := ⟨rfl, [], by simp⟩

theorem Sends.trans {s t u : State} (h : Sends s t) (h' : Sends t u) : Sends s u := by
  obtain ⟨hm, l, hl⟩ := h
  obtain ⟨hm', l', hl'⟩ := h'
  exact ⟨hm'.trans hm, l ++ l', by rw [hl', hl, List.append_assoc]⟩

theorem Sends.mem_sent {s t : State} (h : Sends s t) {x : Nat × SentMsg} (hx : x ∈ s.forum.sent) : x ∈ t.forum.sent := by
  obtain ⟨-, l, hl⟩ := h
  rw [hl]
  exact List.mem_append_left _ hx

theorem Sends.pkg_eq {s t : State} (h : Sends s t) : t.forum.pkg = s.forum.pkg := by
  obtain ⟨-, l, hl⟩ := h
  rw [hl]

theorem Sends.round_eq {s t : State} (h : Sends s t) : t.forum.round = s.forum.round := by
  obtain ⟨-, l, hl⟩ := h
  rw [hl]

/-- A message of which this package's own event is only work to come. -/
theorem sends_tell (s : State) (pkg : Nat) (m : SentMsg) (i : Instr) (p : Params) : Sends s (s.tell pkg m (·.spawn i p)) := by
  unfold State.tell
  split
  · exact ⟨rfl, [], by simp⟩
  · exact ⟨rfl, [(pkg, m)], rfl⟩

/-- A fold whose every step sends keeps what sending keeps. -/
theorem sends_foldl {α : Type} {f : State → α → State} (hf : ∀ s a, Sends s (f s a)) (l : List α) (s : State) : Sends s (l.foldl f s) := by
  induction l generalizing s with
  | nil => exact Sends.refl s
  | cons a l ih => exact (hf s a).trans (ih _)

/-- The message that a step of the fold sends for one of its items is sent by the fold. -/
theorem mem_sent_foldl {α : Type} {f : State → α → State} (hf : ∀ s a, Sends s (f s a)) {l : List α} {a : α} (ha : a ∈ l)
    {x : Nat × SentMsg} (hx : ∀ t : State, t.forum.pkg = s.forum.pkg → x ∈ (f t a).forum.sent) : x ∈ (l.foldl f s).forum.sent := by
  obtain ⟨l₁, l₂, rfl⟩ := List.append_of_mem ha
  rw [List.foldl_append, List.foldl_cons]
  exact (sends_foldl hf l₂ _).mem_sent (hx _ (sends_foldl hf l₁ s).pkg_eq)

-- the proposal (R446)

/-- The tests of a descriptor, in the model's order. -/
def proposalRefused (s : State) : Bool :=
  s.forum.round.isSome || !(isNear (descAddr s) || isBulk (descAddr s)) || descEntries s = 0 || 64 < descEntries s ||
  Memory.read s.mem (descAddr s + 4) 4 = 0 || ((Memory.bytes s.mem (descAddr s) 64).drop 0x18).any (· != 0) ||
  ((List.range (descEntries s)).map (roundEntry s (descAddr s))).any (!·.2)

theorem proposalRefused_eq_false_iff (s : State) : proposalRefused s = false ↔ proposable s := by
  simp only [proposalRefused, proposable, Bool.or_eq_false_iff, any_bytes_eq_false]
  simp only [decide_eq_false_iff_not, List.any_eq_false, List.mem_map, List.mem_range, forall_exists_index, and_imp,
    forall_apply_eq_imp_iff₂, Bool.not_eq_true, Bool.not_eq_false', and_assoc, Nat.not_lt, Nat.one_le_iff_ne_zero,
    Option.isSome_eq_false_iff, Option.isNone_iff_eq_none, ne_eq, isNear, isBulk, Bool.or_eq_true, Bool.and_eq_true, decide_eq_true_eq]

/-- The step of a round's proposal for one of its entries. -/
def prepares (r : Round) (s : State) (i : Nat) : State :=
  match r.ents[i]? with
  | some e => s.sendPrepare i e r.newver r.tmo
  | none => s

/-- The state after a proposal: the round stands, and its prepares are on their way. -/
def announced (s : State) : State :=
  (List.range (proposed s).ents.length).foldl (prepares (proposed s)) (withForum s fun f => { f with round := some (proposed s) })

theorem elcmd_eq (s : State) : s.elcmd s.par.v = if proposalRefused s then none else some (announced s) := by
  have h0 : field (Memory.bytes s.mem (descAddr s) 64) 0 2 = descEntries s := field_bytes _ _ (by omega)
  have h2 := field_bytes s.mem (descAddr s) (n := 64) (o := 2) (k := 2) (by omega)
  have h4 := field_bytes s.mem (descAddr s) (n := 64) (o := 4) (k := 4) (by omega)
  have h8 := field_bytes s.mem (descAddr s) (n := 64) (o := 8) (k := 8) (by omega)
  unfold State.elcmd
  dsimp only
  rw [show (s.par.v.extractLsb' 6 46).toNat * 64 = descAddr s from rfl, h0, h4]
  by_cases hn : 64 < descEntries s
  · simp [proposalRefused, hn]
  · rw [Nat.min_eq_left (Nat.not_lt.1 hn), List.map_map, h2, h8]
    rfl

theorem sends_prepares (r : Round) (s : State) (i : Nat) : Sends s (prepares r s i) := by
  unfold prepares
  split
  · exact sends_tell _ _ _ _ _
  · exact Sends.refl s

theorem elcmd_next (ht : trusted s s.par.m) (h : proposable s) : exec .elcmd s = .next (announced s) := by
  refine (trusted_writes ht (s.elcmd s.par.v)).trans ?_
  rw [elcmd_eq, (proposalRefused_eq_false_iff s).2 h]
  rfl

theorem sends_announced (s : State) : Sends (withForum s fun f => { f with round := some (proposed s) }) (announced s) :=
  sends_foldl (sends_prepares _) _ _

theorem prepare_mem_sent {x : RoundEnt} (hx : x ∈ (proposed s).ents) (hpkg : x.pkg ≠ s.forum.pkg.toNat) :
    (x.pkg, SentMsg.prepare x.grp (proposed s).newver (proposed s).tmo x.members) ∈ (announced s).forum.sent := by
  obtain ⟨i, hi, hxi⟩ := List.mem_iff_getElem.1 hx
  refine mem_sent_foldl (sends_prepares _) (List.mem_range.2 hi) fun t ht => ?_
  have hget : (proposed s).ents[i]? = some x := by rw [List.getElem?_eq_getElem hi, hxi]
  have hother : x.pkg ≠ t.forum.pkg.toNat := by rwa [ht]
  simp only [prepares, hget, State.sendPrepare, tell_other hother]
  exact List.mem_append_right _ (List.mem_singleton.2 rfl)

theorem elcmd_refused (ht : trusted s s.par.m) (h : ¬ proposable s) : exec .elcmd s = .next (refusedAt s s.par.m) := by
  refine (trusted_writes ht (s.elcmd s.par.v)).trans ?_
  rw [elcmd_eq, if_pos (eq_true_of_ne_false (mt (proposalRefused_eq_false_iff s).1 h))]
  rfl

-- participants (R447)

theorem answerRound_other {src : Nat} (h : src ≠ s.forum.pkg.toNat) (grp : Nat) (a : RoundAns) :
    s.answerRound src grp a = withForum s fun f => { f with sent := f.sent ++ [(src, .roundAnswer grp a)] } := tell_other h _ _

@[simp] theorem memberWords_length (b : List Byte) : (memberWords b).length = b.length / 4 := by
  simp [memberWords]

section

variable {b : List Byte} (hb : s.par.bytes = some b)

include hb

theorem roundPrepare_next : exec .roundPrepare s = .next (s.prepareHere s.par.src s.par.grp s.par.ver (memberWords b)) := by
  show execRoundPrepare s = _
  rw [execRoundPrepare, hb]

theorem roundPrepare_refuses (hsrc : s.par.src ≠ s.forum.pkg.toNat)
    (h : (s.readGroup s.par.grp).unusable = true ∨ ((s.readGroup s.par.grp).ver + 1) % 2 ^ 16 ≠ s.par.ver) : exec .roundPrepare s =
      .next (withForum s fun f => { f with sent := f.sent ++ [(s.par.src, .roundAnswer s.par.grp .refuse)] }) := by
  rw [roundPrepare_next hb, ← answerRound_other hsrc]
  exact congrArg _ (if_pos (by simpa using h))

theorem roundPrepare_accepts (hu : (s.readGroup s.par.grp).unusable = false) (hv : ((s.readGroup s.par.grp).ver + 1) % 2 ^ 16 = s.par.ver) :
    exec .roundPrepare s = .next ((withForum s fun f => { f with
      parts := f.parts.filter (fun x => x.grp != s.par.grp) ++ [⟨s.par.src, s.par.grp, s.par.ver, memberWords b, false⟩] }).spawn
        .roundOldVersionTimeout { grp := s.par.grp }) := by
  rw [roundPrepare_next hb]
  exact congrArg _ (if_neg (by simpa [hu] using hv))

end

/-- The participation of a group is ready. -/
def readied (s : State) (grp : Nat) : State :=
  withForum s fun f => { f with parts := f.parts.map fun y => if y.grp == grp then { y with ready := true } else y }

theorem roundOldVersionTimeout_next {x : Machine.Part} (hx : s.forum.parts.find? (fun x => x.grp == s.par.grp) = some x) (hr : x.ready = false)
    (hh : ∀ h ∈ (s.porter (min (s.readGroup s.par.grp).home 50)).handlers, h.pkt.grp ≠ s.par.grp) : exec .roundOldVersionTimeout s =
      .next ((readied (s.abortOld (s.readGroup s.par.grp) s.par.grp).2 s.par.grp).answerRound x.src s.par.grp
        (.ready (s.abortOld (s.readGroup s.par.grp) s.par.grp).1)) := by
  have hany : ¬ ((s.porter (min (s.readGroup s.par.grp).home 50)).handlers.any (·.pkt.grp == s.par.grp)) = true := by simpa using hh
  show execRoundOldVersionTimeout s = _
  simp only [execRoundOldVersionTimeout, hx, hr, if_neg hany]
  rfl

theorem slotAtPorter_none_of_filter {p : Nat} {k : Nat × Nat × Nat} {f : Porter → Porter} {keep : Slot → Bool}
    (hf : ∀ q, (f q).slots = q.slots.filter keep) (hk : ∀ x : Slot, x.key = k → keep x = false) :
    slotAtPorter (s.modPorter p f) p k = none := by
  refine List.find?_eq_none.2 fun x hx hkey => ?_
  by_cases hp : p < s.forum.porters.length
  · rw [porter_modPorter_same hp, hf] at hx
    exact Bool.eq_false_iff.1 (hk x (eq_of_beq hkey)) (List.mem_filter.1 hx).2
  · have hnone : (s.modPorter p f).forum.porters[p]? = none :=
      List.getElem?_eq_none (by simpa [State.modPorter, State.modForum, modAt] using hp)
    have hreset : (s.modPorter p f).porter p = Porter.reset := by
      rw [State.porter, nth, List.getD_eq_getElem?_getD, hnone, Option.getD_none]
    rw [hreset] at hx
    cases hx

/-- The abort of an old version that has counted no sector sends no update; its slots are gone. -/
theorem abortOld_uncounted {g : Group} {grp : Nat} (hn : (s.count grp g.ver).n = 0) : (s.abortOld g grp).2.mem = s.mem ∧
    ∀ o, slotAtPorter (s.abortOld g grp).2 (min g.home 50) (grp, g.ver, o) = none := by
  unfold State.abortOld
  simp only [hn, if_true]
  refine ⟨rfl, fun o => ?_⟩
  refine slotAtPorter_none_of_filter (s := s) (p := min g.home 50) (keep := fun x => !(x.key.1 == grp && x.key.2.1 == g.ver)) (fun q => rfl) ?_
  rintro x hx
  simp [hx]

-- the decision (R447)

/-- How many operations of an old version an entry's participant has aborted. -/
def abortedBy (e : RoundEnt) : Nat :=
  match e.st with
  | .ready n | .committed n => n
  | _ => 0

/-- The packages that a round has dropped. -/
def droppedFrom (r : Round) : List Nat := ((r.ents.filter (·.st == .dropped)).map (·.pkg)).eraseDups

/-- The end of a round that dropped so many packages and aborted so many operations. -/
def endedWith (s : State) (r : Round) (committed : Bool) (dropped aborted : Nat) : State :=
  let s := s.homeWrite (r.addr + 0x10) 8 ((if committed then 1 else 2) + dropped * 2 ^ 8 + aborted % 2 ^ 16 * 2 ^ 16)
  (withForum s fun f => { f with round := none }).completion r.cmpl (match r.ents with | e :: _ => (s.readGroup e.grp).ctx | [] => 0) 0
    (!committed || decide (0 < dropped))

theorem endRound_eq (s : State) (r : Round) (committed : Bool) : s.endRound r committed = closed s r committed := by
  have hdropped : r.ents.filter (fun e => e.st == .dropped) = r.ents.filter fun e => match e.st with | .dropped => true | _ => false :=
    List.filter_congr fun e _ => by cases e.st <;> rfl
  have haborted : r.ents.map abortedBy = r.ents.map fun e => (answeredAs e).getD 0 :=
    List.map_congr_left fun e _ => by unfold abortedBy answeredAs; cases e.st <;> rfl
  calc s.endRound r committed = endedWith s r committed (droppedFrom r).length (r.ents.map abortedBy).sum := rfl
    _ = endedWith s r committed (droppedFrom r).length (r.ents.map fun e => (answeredAs e).getD 0).sum := by rw [haborted]
    _ = closed s r committed := by
      unfold endedWith closed droppedFrom
      rw [hdropped]
      simp only [Nat.mul_comm] <;> rfl

theorem silent_eq (r : Round) : ((r.ents.filter fun e => !e.st.answered).map (·.pkg)).eraseDups = silent r := by
  unfold silent
  refine congrArg (fun l : List RoundEnt => (l.map (·.pkg)).eraseDups) (List.filter_congr fun e _ => ?_)
  cases e.st <;> rfl

theorem decision_eq (r : Round) : (r.ents.map fun e => if (silent r).contains e.pkg then { e with st := RoundSt.dropped } else
    { e with members := e.members.map (absentFrom (silent r)) }) = decision r := by
  have habsent : absentFrom (silent r) = fun m => if mPkg m ∈ silent r then m ||| 0x20000#32 else m :=
    funext fun m => by simp only [absentFrom, List.contains_iff_mem]; rfl
  simp only [List.contains_iff_mem, habsent, decision]

theorem any_refused_iff (l : List RoundEnt) : l.any (·.st == .refused) = true ↔ ∃ e ∈ l, isRefused e.st := by
  rw [List.any_eq_true]
  refine exists_congr fun e => and_congr_right fun _ => ?_
  cases e.st <;> simp [isRefused]

theorem all_dropped_iff (l : List RoundEnt) : l.all (·.st == .dropped) = true ↔ ∀ e ∈ l, isDropped e.st := by
  rw [List.all_eq_true]
  refine forall₂_congr fun e _ => ?_
  cases e.st <;> simp [isDropped]

/-- Messages to other packages only are all recorded, in their order. -/
theorem foldl_tell_other {α : Type} {pkg : α → Nat} (m : α → SentMsg) (own : α → State → State) {l : List α} {s : State}
    (h : ∀ a ∈ l, pkg a ≠ s.forum.pkg.toNat) : l.foldl (fun s a => s.tell (pkg a) (m a) (own a)) s =
      withForum s fun f => { f with sent := f.sent ++ l.map fun a => (pkg a, m a) } := by
  induction l generalizing s with
  | nil => simp [withForum]
  | cons a l ih =>
    rw [List.foldl_cons, tell_other (h a List.mem_cons_self)]
    refine Eq.trans (ih ?_) ?_
    · exact fun b hb => h b (List.mem_cons_of_mem _ hb)
    · simp [withForum]

section

variable {r : Round} (hr : s.forum.round = some r) (hd : r.decided = none)

include hr hd

theorem roundDecide_aborts (hx : ∃ e ∈ r.ents, isRefused e.st) (hpkg : ∀ e ∈ r.ents, e.pkg ≠ s.forum.pkg.toNat) :
    exec .roundDecide s =
      .next (closed (withForum s fun f => { f with sent := f.sent ++ r.ents.map fun e => (e.pkg, .roundAbort e.grp) }) r false) := by
  show execRoundDecide s = _
  simp only [execRoundDecide, hr, hd, if_pos ((any_refused_iff _).2 hx), foldl_tell_other _ _ hpkg, endRound_eq]
  rfl

/-- The round as the leader has decided it. -/
def decidedRound (r : Round) : Round := { r with ents := decision r, decided := some true }

/-- The step of a commit for one of a round's entries. -/
def commits (r : Round) (s : State) (i : Nat) : State :=
  match r.ents[i]? with
  | some e => if e.st == .dropped then s else s.tell e.pkg (.commit e.grp r.newver e.members) (·.spawn .roundCommit { n := i })
  | none => s

/-- The decision stands at the leader; its own participations are dropped where it was silent itself. -/
def withDecision (s : State) (r : Round) : State :=
  s.modForum fun f => { f with
    round := some (decidedRound r)
    parts := f.parts.filter fun x => !(x.src == s.forum.pkg.toNat && (silent r).contains s.forum.pkg.toNat) }

theorem roundDecide_commits (hx : ∀ e ∈ r.ents, ¬ isRefused e.st) (hex : ∃ e ∈ decision r, ¬ isDropped e.st) :
    exec .roundDecide s = .next ((List.range (decision r).length).foldl (commits (decidedRound r)) (withDecision s r)) := by
  have hany : ¬ (r.ents.any (·.st == .refused)) = true := by
    rw [any_refused_iff]
    exact fun ⟨e, he, hre⟩ => hx e he hre
  have hall : ¬ ((decision r).all (·.st == .dropped)) = true := by
    rw [all_dropped_iff]
    exact fun h => hex.elim fun e he => he.2 (h e he.1)
  show execRoundDecide s = _
  simp only [execRoundDecide, hr, hd, if_neg hany, silent_eq, decision_eq, if_neg hall]
  rfl

end

theorem sends_commits (r : Round) (s : State) (i : Nat) : Sends s (commits r s i) := by
  unfold commits
  split
  · split
    · exact Sends.refl s
    · exact sends_tell _ _ _ _ _
  · exact Sends.refl s

theorem commit_mem_sent {r : Round} {x : RoundEnt} (hx : x ∈ decision r) (hpkg : x.pkg ≠ s.forum.pkg.toNat) (hd : ¬ isDropped x.st) :
    (x.pkg, SentMsg.commit x.grp r.newver x.members) ∈
      ((List.range (decision r).length).foldl (commits (decidedRound r)) (withDecision s r)).forum.sent := by
  obtain ⟨i, hi, hxi⟩ := List.mem_iff_getElem.1 hx
  refine mem_sent_foldl (sends_commits _) (List.mem_range.2 hi) fun t ht => ?_
  have hget : (decidedRound r).ents[i]? = some x := (List.getElem?_eq_getElem hi).trans (congrArg some hxi)
  have hother : x.pkg ≠ t.forum.pkg.toNat := by rwa [ht]
  have hkept : ¬ (x.st == .dropped) = true := by
    cases hst : x.st <;> simp [hst, isDropped] at hd ⊢
  simp only [commits, hget, if_neg hkept, tell_other hother]
  exact List.mem_append_right _ (List.mem_singleton.2 rfl)

-- the bytes of a commit

theorem leNat_leBytes (v n : Nat) : leNat (leBytes v n) = v % 256 ^ n := by
  induction n generalizing v with
  | zero => simp [leBytes, leNat, Nat.mod_one]
  | succ n ih =>
    rw [leBytes, leNat, ih, Nat.pow_succ', Nat.mod_mul]
    rfl

/-- The bytes of a string that was written. -/
theorem bytes_putBytes {m : List Host.Cell} (h : Memory.wf m) (a : Nat) {bs : List Byte} {o k : Nat} (hk : o + k ≤ bs.length) :
    Memory.bytes (Memory.putBytes m a bs) (a + o) k = (bs.drop o).take k := by
  induction k generalizing o with
  | zero => simp [Memory.bytes]
  | succ k ih =>
    have ho : o < bs.length := by omega
    rw [Memory.bytes, Nat.add_assoc, ih (by omega), Memory.get_putBytes h, if_pos (by omega), List.drop_eq_getElem_cons ho,
      List.take_succ_cons, Nat.add_sub_cancel_left, List.getD_eq_getElem?_getD, List.getElem?_eq_getElem ho,
      Option.getD_some]

theorem bytes_congr {m m' : List Host.Cell} {a n : Nat} (h : ∀ x, a ≤ x → x < a + n → Memory.get m x = Memory.get m' x) :
    Memory.bytes m a n = Memory.bytes m' a n := by
  induction n generalizing a with
  | zero => rfl
  | succ n ih =>
    rw [Memory.bytes, Memory.bytes, h a (by omega) (by omega), ih fun x h0 h1 => h x (by omega) (by omega)]

theorem read_congr {m m' : List Host.Cell} {a n : Nat} (h : ∀ x, a ≤ x → x < a + n → Memory.get m x = Memory.get m' x) :
    Memory.read m a n = Memory.read m' a n := congrArg leNat (bytes_congr h)

/-- A number that fits is read back. -/
theorem read_write {m : List Host.Cell} (h : Memory.wf m) (a : Nat) {n v : Nat} (hv : v < 256 ^ n) :
    Memory.read (Memory.write m a n v) a n = v := by
  have hb := bytes_putBytes h a (bs := leBytes v n) (o := 0) (k := n) (by simp)
  rw [Nat.add_zero, List.drop_zero, List.take_of_length_le (by simp)] at hb
  rw [Memory.read, Memory.write, hb, leNat_leBytes, Nat.mod_eq_of_lt hv]

/-- Member words as the bytes of an entry (R414). -/
def memberBytes (members : List (BitVec 32)) : List Byte := members.flatMap fun m => leBytes m.toNat 4

@[simp] theorem memberBytes_length (members : List (BitVec 32)) : (memberBytes members).length = 4 * members.length := by
  induction members with
  | nil => rfl
  | cons m l ih =>
    rw [memberBytes, List.flatMap_cons, List.length_append, leBytes_length, ← memberBytes, ih, List.length_cons]
    omega

theorem memberBytes_word {members : List (BitVec 32)} {i : Nat} {m : BitVec 32} (h : members[i]? = some m) :
    ((memberBytes members).drop (4 * i)).take 4 = leBytes m.toNat 4 := by
  induction members generalizing i with
  | nil => simp at h
  | cons m' l ih =>
    rw [memberBytes, List.flatMap_cons, ← memberBytes]
    cases i with
    | zero =>
      obtain rfl : m' = m := by simpa using h
      rw [Nat.mul_zero, List.drop_zero, List.take_left' (leBytes_length _ _)]
    | succ i =>
      have hdrop := List.drop_length_add_append (l₁ := leBytes m'.toNat 4) (l₂ := memberBytes l) (4 * i)
      rw [leBytes_length, Nat.add_comm] at hdrop
      rw [Nat.mul_succ, hdrop]
      exact ih (by simpa using h)

theorem get_putBytes_outside {m : List Host.Cell} (h : Memory.wf m) {a x : Nat} {bs : List Byte} (hx : x < a ∨ a + bs.length ≤ x) :
    Memory.get (Memory.putBytes m a bs) x = Memory.get m x := by
  rw [Memory.get_putBytes h, if_neg (by omega)]

/-- A commit writes its entry, and no other byte. -/
theorem commitHere_entry {grp newver : Nat} {members : List (BitVec 32)} (hm : Memory.wf s.mem) (hg : grp < 4096)
    (hl : members.length ≤ 512) (hv : newver < 2 ^ 16) : committedEntry s (s.commitHere grp newver members) grp newver members := by
  have hcount := Memory.write_wf hm (s.groupBase + 64 * grp) 2 members.length
  have hver := Memory.write_wf hcount (s.groupBase + 64 * grp + 4) 2 newver
  have hbytes := memberBytes_length members
  -- the entry's header lies below the members
  have hbelow : ∀ x, x < s.groupBase + 64 * grp + 6 → Memory.get (s.commitHere grp newver members).mem x =
      Memory.get (Memory.write (Memory.write s.mem (s.groupBase + 64 * grp) 2 members.length) (s.groupBase + 64 * grp + 4) 2 newver) x :=
    fun x hx => get_putBytes_outside (bs := memberBytes members) hver (by omega)
  refine ⟨?_, ?_, fun i m hi => ?_, fun x h0 h4 ha => ?_⟩
  · rw [read_congr fun x _ h1 => (hbelow x (by omega)).trans (Memory.get_write_outside hcount _ _ _ _ (by omega))]
    exact read_write hm _ (by omega)
  · rw [read_congr fun x _ h1 => hbelow x (by omega)]
    exact read_write hcount _ (by omega)
  · have hlen : i < members.length := (List.getElem?_eq_some_iff.1 hi).1
    have hword := bytes_putBytes hver (s.groupBase + 0x40000 + 0x800 * grp) (bs := memberBytes members) (o := 4 * i) (k := 4) (by omega)
    rw [memberBytes_word hi] at hword
    exact (congrArg leNat hword).trans ((leNat_leBytes _ _).trans (Nat.mod_eq_of_lt m.isLt))
  · exact (get_putBytes_outside (bs := memberBytes members) hver (by omega)).trans ((Memory.get_write_outside hcount _ _ _ _ (by omega)).trans
      (Memory.get_write_outside hm _ _ _ _ (by omega)))

theorem commitHere_parts {grp newver : Nat} {members : List (BitVec 32)} {y : Machine.Part}
    (hy : y ∈ (s.commitHere grp newver members).forum.parts) : y.grp ≠ grp :=
  bne_iff_ne.1 (List.mem_filter.1 hy).2

-- commits (R447)

/-- Every participant has committed or was dropped. -/
def allSettled (ents : List RoundEnt) : Bool := ents.all fun y => match y.st with | .committed _ | .dropped => true | _ => false

/-- The round with one more entry committed. -/
def committedRound (r : Round) (i n : Nat) (x : RoundEnt) : Round := { r with ents := r.ents.set i { x with st := .committed n } }

section

variable {r : Round} {x : RoundEnt} {n : Nat} (hk : s.par.k = 0) (hr : s.forum.round = some r) (hd : r.decided = some true)
  (hx : r.ents[s.par.n]? = some x) (hst : x.st = .ready n)

include hk hr hd hx hst

theorem roundCommit_next :
    let r' := committedRound r s.par.n n x
    let t := withForum (if x.pkg = s.forum.pkg.toNat then s.commitHere x.grp r.newver x.members else s) fun f => { f with round := some r' }
    exec .roundCommit s = .next (if allSettled r'.ents then closed t r' true else t) := by
  show execRoundCommit s = _
  obtain ⟨addr, newver, tmo, cmpl, ents, decided⟩ := r
  obtain rfl : decided = some true := hd
  simp only [execRoundCommit, hk, ne_eq, not_true_eq_false, if_false, hr, hx, hst, endRound_eq]
  split <;> rfl

/-- A commit that another package has performed. -/
theorem roundCommit_elsewhere (hpkg : x.pkg ≠ s.forum.pkg.toNat) :
    let r' := committedRound r s.par.n n x
    let t := withForum s fun f => { f with round := some r' }
    exec .roundCommit s = .next (if allSettled r'.ents then closed t r' true else t) := by
  have hnext := roundCommit_next hk hr hd hx hst
  rwa [if_neg hpkg] at hnext

theorem roundCommit_more (hpkg : x.pkg ≠ s.forum.pkg.toNat) (hl : allSettled (committedRound r s.par.n n x).ents = false) :
    exec .roundCommit s = .next (withForum s fun f => { f with round := some (committedRound r s.par.n n x) }) :=
  (roundCommit_elsewhere hk hr hd hx hst hpkg).trans (congrArg _ (if_neg (Bool.eq_false_iff.1 hl)))

theorem roundCommit_last (hpkg : x.pkg ≠ s.forum.pkg.toNat) (hl : allSettled (committedRound r s.par.n n x).ents = true) :
    exec .roundCommit s = .next (closed (withForum s fun f => { f with round := some (committedRound r s.par.n n x) })
      (committedRound r s.par.n n x) true) :=
  (roundCommit_elsewhere hk hr hd hx hst hpkg).trans (congrArg _ (if_pos hl))

/-- A commit that is performed here. -/
theorem roundCommit_here (hpkg : x.pkg = s.forum.pkg.toNat) (hl : allSettled (committedRound r s.par.n n x).ents = false) :
    exec .roundCommit s =
      .next (withForum (s.commitHere x.grp r.newver x.members) fun f => { f with round := some (committedRound r s.par.n n x) }) := by
  have hnext := roundCommit_next hk hr hd hx hst
  rw [if_pos hpkg] at hnext
  exact hnext.trans (congrArg _ (if_neg (Bool.eq_false_iff.1 hl)))

end

theorem roundCommit_participant {x : Machine.Part} {b : List Byte} (hk : s.par.k = 1)
    (hx : s.forum.parts.find? (fun y => y.src == s.par.src && y.grp == s.par.grp) = some x) (hb : s.par.bytes = some b)
    (hr : x.ready = true) : exec .roundCommit s = .next (s.commitHere x.grp x.newver (memberWords b)) := by
  show execRoundCommit s = _
  simp only [execRoundCommit, hk, hx, hb, hr]
  rfl

end

end Sys2Proof.Spec

/-!
PROOFS. What the events of the Forum's collectives come to (R416-R447), assembled from the rules above.
-/
namespace Sys2Proof.Spec

open Sys2Proof Sys2Proof.Machine

/-- Settles O53: each event is performed or refused by the tests that its clause's premises decide, in the model's order. -/
theorem collectiveEvents : Obligations.CollectiveEvents := by
  refine ⟨fun s i => forumWrites_refused, fun s i => porterWrites_refused,
    fun s h => ⟨pctlRunStop_next h, pctlRunStart_next h, psdataWrite_refused h, psdataWrite_next h⟩, fun s => gtinvWrite_next,
    fun s w r hp => ?invalidation, fun s p hp => ⟨_, packetArrival_new hp, rfl⟩, fun s id p hn hf => ?arrival,
    fun s id p c e ok hk he => ⟨packetDecided_refused hk he, packetDecided_accepted hk he⟩, fun s => ?delivery,
    fun s x hx ht => ⟨slotTimeout_spills hx ht, fun h => ⟨_, slotTimeout_waits hx ht h, rfl⟩⟩, fun s => slotTimeout_absent,
    fun s p x => ?spills, fun s id p hf => spillEndpointFold_ended hf, fun s id p x hf hx => ?endpoint, fun s ht => ?barriers,
    fun s ht => ⟨cadd_refused ht, cadd_next ht⟩,
    fun s slot g hg => ⟨fireChunks_idle hg, fun r hr => ⟨fireChunks_stopped hg hr, fireChunks_noWork hg hr⟩⟩,
    fun s ht => ⟨cgload_next ht, cgload_refused ht⟩, fun s g ps qs ht => cgrunStart_next ht, fun s g e ht => cgrunStart_unreachable ht,
    fun s ht => cgrunStart_busy ht, fun s ht => ⟨cgrunCancel_idle ht, fun g => cgrunCancel_next ht⟩, fun s g r c hg hr hc => ?chunk,
    fun s slot g r hg hr => ?ended, fun s w ctx n loss => ?words, fun s ht => ⟨fun h => ?proposed, elcmd_refused ht⟩,
    fun s b hb hsrc => ⟨roundPrepare_refuses hb hsrc, fun hu hv => ⟨_, roundPrepare_accepts hb hu hv, rfl⟩⟩,
    fun s x hx hr hh hsrc => ⟨?ready, abortOld_uncounted⟩, fun s r hr hd => ⟨roundDecide_aborts hr hd, fun hx hex => ?decided⟩,
    fun s r x n hk hr hd hx hst => ?commit, fun s x b hk hx hb hr hg hl hv hm => ?performed⟩
  case invalidation =>
    obtain ⟨hruns, hno⟩ := gtInvalidationComplete_next hp
    exact ⟨fun h => hno fun ⟨q, hq, x, hx, hstale, hc⟩ => h q hq x hx hstale hc, fun h => ⟨_, hruns h, rfl⟩⟩
  case arrival =>
    exact ⟨fun hr => ⟨_, packetArrival_waits hn hf hr, rfl⟩, packetArrival_refused hn hf, packetArrival_accepted hn hf⟩
  case delivery =>
    exact ⟨deliveryAck_unexpected rfl, fun h => ⟨deliveryAck_counts rfl h, fun g hd =>
      ⟨deliveryAck_more rfl h hd, deliveryAck_last rfl h hd⟩⟩⟩
  case spills =>
    refine ⟨_, rfl, spill_mem p x, mem_spill p x, fun hp => ⟨?_, spill_unslotted hp x, ?_⟩⟩
    · rw [spill_porter hp]
      exact List.mem_append_right _ (List.mem_singleton.2 rfl)
    · rw [spill_porter hp]
  case endpoint =>
    refine ⟨spillEndpointFold_duplicate hf hx, spillEndpointFold_spilled hf hx, fun hk hm => ⟨fun hn => ?_, fun hn => ?_⟩⟩
    · exact (spillEndpointFold_takes hf hx hk hm).trans (congrArg _ (if_pos hn))
    · exact (spillEndpointFold_takes hf hx hk hm).trans (congrArg _ (if_neg hn))
  case barriers =>
    exact ⟨pbcfgReserve_uncounted ht, fun o => pbcfgReserve_foreign ht, pbcfgReserve_free ht, pbcfgReserve_own ht, trusted_writes ht _⟩
  case chunk =>
    refine ⟨fun h => chunkComplete_stale hg hr hc (not_underWay h), fun hf hc' hx => ?_⟩
    have h : underWay r s.par.n := ⟨hf, hc', hx⟩
    exact ⟨chunkComplete_update hg hr hc h, chunkComplete_add hg hr hc h, fun _ t =>
      ⟨chunkComplete_acts hg hr hc h, fun x => chunkComplete_acts hg hr hc h⟩⟩
  case ended =>
    exact ⟨checkReplay_completed hg hr, checkReplay_failed hg hr, checkReplay_cancelled hg hr, checkReplay_goesOn hg hr⟩
  case words =>
    exact ⟨completion_none, completion_dropped,
      fun h => ⟨fun x => completion_resident h, completion_teamGone h, fun x r hr => completion_saved h hr⟩,
      fun h => ⟨completion_dieBar_owned h, completion_dieBar_foreign h⟩, fun h => ⟨completion_pkgBar_owned h, completion_pkgBar_foreign h⟩,
      fun h => ⟨fun l => completion_word h, completion_wordUnreachable h⟩, fun h => ⟨fun g => completion_count h, completion_uncounted h⟩⟩
  case proposed =>
    exact ⟨_, elcmd_next ht h, (sends_announced s).1, (sends_announced s).round_eq, fun x => prepare_mem_sent⟩
  case ready =>
    exact (roundOldVersionTimeout_next hx hr hh).trans (congrArg _ (answerRound_other (s := readied _ _) hsrc _ _))
  case decided =>
    have hsends := sends_foldl (sends_commits (decidedRound r)) (List.range (decision r).length) (withDecision s r)
    exact ⟨_, roundDecide_commits hr hd hx hex, hsends.1, hsends.round_eq, fun x => commit_mem_sent⟩
  case commit =>
    exact ⟨roundCommit_more hk hr hd hx hst, roundCommit_last hk hr hd hx hst, fun hpkg hlast hg hl hv hm =>
      ⟨_, roundCommit_here hk hr hd hx hst hpkg hlast, commitHere_entry hm hg hl hv, rfl, fun y => commitHere_parts⟩⟩
  case performed =>
    have hlen : (memberWords b).length ≤ 512 := by
      rw [memberWords_length]
      omega
    exact ⟨_, roundCommit_participant hk hx hb hr, commitHere_entry hm hg hlen hv, fun y => commitHere_parts⟩

end Sys2Proof.Spec
